-- ==== Sys2Proof/Word.lean ====
section
/-! DEFINITION. The word types of the Vomas Finob and the plainest access to their bits.
A 32-bit register, a 64-bit SRAM word, a 128-bit engine command (02 R52) and a 512-bit line (02 R41). -/

namespace Sys2Proof

abbrev Byte := BitVec 8
abbrev W32 := BitVec 32
abbrev W64 := BitVec 64
/-- The 128 bits of an engine command (02 R52). -/
abbrev W128 := BitVec 128
/-- The 512 data bits of one 64-byte line; byte k is bits 8k+7 to 8k (02 R41, Table 2-5). -/
abbrev LineBits := BitVec 512

/-- The field of bits `lo + len - 1` down to `lo` of `n`, as a number. -/
def bitsAt (n lo len : Nat) : Nat := (n >>> lo) % 2 ^ len

/-- Bit `i` of `n`. -/
def bitAt (n i : Nat) : Bool := (n >>> i) % 2 == 1

/-- `n` with its field of `len` bits at `lo` replaced by the low `len` bits of `v`. -/
def setBitsAt (n lo len v : Nat) : Nat :=
  n - (bitsAt n lo len) * 2 ^ lo + (v % 2 ^ len) * 2 ^ lo

/-- The two's-complement value of the low `len` bits of `n`. -/
def signedAt (n len : Nat) : Int :=
  let m := n % 2 ^ len
  if m < 2 ^ (len - 1) then (m : Int) else (m : Int) - 2 ^ len

/-- 1 for true and 0 for false. -/
def b2n (b : Bool) : Nat := if b then 1 else 0

end Sys2Proof
end

