-- ==== Sys2Proof/Syntax.lean ====
section
/-! DEFINITION. The commands of the block: one constructor for each row of spec/opcode_table.json, with the operands
that the row's event brings from outside. The operands: `n` a physical tile (0 to 1,535), `t` a slot of the
running frame counted in tile cycles (01 R17), `p` an optical port, `c` an HBM controller, a mailbox channel or a laser
cartridge, `vc` a virtual channel, `a` the sender of a register access, `r` the request that firmware serves. -/

namespace Sys2Proof

/-- The engines of a tile and its sequencer, numbered as 14 Table 14-1 numbers them. -/
inductive Engine where
  | mx
  | vx
  | mv
  | sq
  deriving DecidableEq, Repr

/-- Who sends a register access or a request (16 Table 16-2): a PCIe function, the board management controller or
management firmware. -/
inductive Agent where
  | pf0
  | vf (n : Nat)
  | bmc
  | firmware
  deriving DecidableEq, Repr

/-- The request that a management row serves: the one in service on a mailbox channel (16 R409), or one that
management firmware makes on its own behalf with the given request words. -/
inductive Req where
  | chan (c : Nat)
  | firm (words : List W32)
  deriving DecidableEq, Repr

/-- An upset in MX's datapath during an operation: bit `bit` of the value named is inverted (04 R112 to R115). `acc` is c(m, j)'s accumulator after
step `k` (in MX.MMS the slice sum d(m, j) of slice pass `k`), `check` the checksum of row or column `i` after step (pass) `k`, `split` slice `i` of
element `k` of row or column `r`'s block in panel `p`, `value` the recombined block-pair value of panel `p`, `sum` the exact-sum accumulator, `out` the
output element. -/
inductive MxUpset where
  | acc (m j k bit : Nat)
  | check (col : Bool) (i k bit : Nat)
  | split (b : Bool) (p r k i bit : Nat)
  | value (p m j bit : Nat)
  | sum (m j bit : Nat)
  | out (m j bit : Nat)
  deriving DecidableEq, Repr

/-- An upset in VX's datapath in step `step`, lane `lane` (05 R138): `flip` inverts the bits `mask` of the lane's 32-bit word in a parity-checked
stage, `add` changes the result of a residue-checked stage by `amount`. -/
inductive VxUpset where
  | flip (step lane mask : Nat)
  | add (step lane : Nat) (amount : Int)
  deriving DecidableEq, Repr

/-- An issue of MX in slot `slot`, with the upsets that its operation's datapath meets. -/
structure MxIssue where
  slot : Nat
  ups : List MxUpset
  deriving DecidableEq, Repr

/-- An issue of VX in slot `slot`, with the upsets that its operation's datapath meets. -/
structure VxIssue where
  slot : Nat
  ups : List VxUpset
  deriving DecidableEq, Repr

/-- An alignment marker as a fibre brings it (08 R207): the position of its first symbol in the fibre's stream, and its symbols. -/
structure MarkerAt where
  pos : Nat
  syms : List Nat
  deriving DecidableEq, Repr

/-- A packet header as a port receives it (08 R221): the port, and the lines of the packet whose words the sender held poisoned (06 R149). -/
structure HeaderAt where
  port : Nat
  marks : List Nat
  deriving DecidableEq, Repr

/-- An almanac command of an HBM controller (06 R158, Table 6-5): the operations on line `i` of transfer `x`, and
those on a pseudo-channel. -/
inductive HbmOp where
  | act (x i : Nat)
  | rd (x i : Nat)
  | wr (x i : Nat)
  | pre (x i : Nat)
  | index (x i : Nat)
  | refab (p : Nat)
  | rfm (p : Nat)
  deriving DecidableEq, Repr

/-- One command that the almanac places on a controller (06 R158): its slot and the command. -/
structure HbmSlot where
  slot : Nat
  op : HbmOp
  deriving DecidableEq, Repr

/-- The commands: the rows of spec/opcode_table.json, in the table's order. -/
inductive Instr where
  /-- `FRAME_TICK` (R18): The global time counter reaches T0 + k·P and frame k begins with the configuration fixed in the guard time. -/
  | frameTick
  /-- `COMMIT_POINT` (R23): At P − G after the tick the frame controller samples every enabled tile's commit flag and runs the guard-time actions. -/
  | commitPoint
  /-- `PLAN_START` (R322): At T0 an armed plan ticks frame 0 and becomes RUNNING, or stops with cause TIME if the counter is not set. -/
  | planStart
  /-- `COMMIT_FLAG_RAISE` (R51): A tile raises its commit flag once SQ.END has decoded, its queues are empty, nothing is in flight and re-execution has retired. -/
  | commitFlagRaise (n t : Nat)
  /-- `SQ_NOP` (R53): The sequencer decodes a no-operation. -/
  | sqNop (n t : Nat)
  /-- `SQ_END` (R51): The sequencer stops fetching for the rest of the frame. -/
  | sqEnd (n t : Nat)
  /-- `SQ_LOOP` (R56): The sequencer opens a hardware loop whose count is read from an S register. -/
  | sqLoop (n t : Nat)
  /-- `SQ_CALL` (R58): A steward tile calls a resident routine from its die's routine store. -/
  | sqCall (n t : Nat)
  /-- `SQ_CALL_RETURN` (R58): The sequencer resumes after the routine's declared length in cycles has elapsed. -/
  | sqCallReturn (n t : Nat)
  /-- `SQ_HOLD` (R53): The sequencer holds until a barrier reaches a count. -/
  | sqHold (n t : Nat)
  /-- `SQ_HOLD_RELEASE` (R67): A held SQ.HOLD releases when its barrier holds its count, subtracting the count. -/
  | sqHoldRelease (n t : Nat)
  /-- `SQ_SETI` (R54): Sd receives a sign-extended immediate. -/
  | sqSeti (n t : Nat)
  /-- `SQ_SETHI` (R54): The upper half of Sd receives an immediate. -/
  | sqSethi (n t : Nat)
  /-- `SQ_ADDI` (R54): Sd receives Sa plus a sign-extended immediate. -/
  | sqAddi (n t : Nat)
  /-- `SQ_ADD` (R54): Sd receives Sa + Sb modulo 2^64. -/
  | sqAdd (n t : Nat)
  /-- `SQ_SUB` (R54): Sd receives Sa − Sb modulo 2^64. -/
  | sqSub (n t : Nat)
  /-- `SQ_MUL` (R54): Sd receives the low 64 bits of Sa × Sb. -/
  | sqMul (n t : Nat)
  /-- `SQ_AND` (R54): Sd receives Sa AND Sb. -/
  | sqAnd (n t : Nat)
  /-- `SQ_OR` (R54): Sd receives Sa OR Sb. -/
  | sqOr (n t : Nat)
  /-- `SQ_XOR` (R54): Sd receives Sa XOR Sb. -/
  | sqXor (n t : Nat)
  /-- `SQ_SHL` (R54): Sd receives Sa shifted left by Sb bits 5:0. -/
  | sqShl (n t : Nat)
  /-- `SQ_SHR` (R54): Sd receives Sa shifted right with zero fill. -/
  | sqShr (n t : Nat)
  /-- `SQ_SRA` (R54): Sd receives Sa shifted right with sign fill. -/
  | sqSra (n t : Nat)
  /-- `SQ_POPS` (R54): The sequencer pops one queue line through its port and loads the named word into Sd. -/
  | sqPops (n t : Nat)
  /-- `SQ_EVE_OPEN` (R248): The sequencer opens an eve range in the lowest free entry, snapshotting S registers and queue pointers. -/
  | sqEveOpen (n t : Nat)
  /-- `SQ_EVE_CLOSE` (R248): The open eve range closes and becomes pending. -/
  | sqEveClose (n t : Nat)
  /-- `ILLEGAL_INSTRUCTION` (R72): An illegal word stops fetching, lets queued commands retire, sets ILLEGAL and withholds the commit flag. -/
  | illegalInstruction (n t : Nat)
  /-- `ENGINE_COMMAND_DISPATCH` (R61): A decoded engine command enters the tail of its engine's command queue, reading its named S registers. -/
  | engineCommandDispatch (n t : Nat)
  /-- `MX_NOP` (R98): MX.NOP does nothing and optionally signals after earlier MX retirements. -/
  | mxNop (n t : Nat)
  /-- `MX_MM` (R102): MX issues a floating-point matrix product with fixed summation order. -/
  | mxMm (n : Nat) (w : MxIssue)
  /-- `MX_MMI` (R104): MX issues an exact integer matrix product written as INT32. -/
  | mxMmi (n : Nat) (w : MxIssue)
  /-- `MX_MMS` (R108): MX issues a sliced-FP64 matrix product through the split stage and exact slice passes. -/
  | mxMms (n : Nat) (w : MxIssue)
  /-- `MX_OPERATION_RETIRE` (R105): An MX operation retires in the cycle of its last C write, signalling its barrier. -/
  | mxOperationRetire (n t i : Nat)
  /-- `VX_NOP` (R122): VX.NOP does nothing and optionally signals after earlier VX retirements. -/
  | vxNop (n t : Nat)
  /-- `VX_EW` (R123): VX issues an elementwise operation over n steps. -/
  | vxEw (n : Nat) (w : VxIssue)
  /-- `VX_CVT` (R127): VX issues a conversion, pack or unpack. -/
  | vxCvt (n : Nat) (w : VxIssue)
  /-- `VX_RED` (R131): VX issues a grouped reduction or exact sum. -/
  | vxRed (n : Nat) (w : VxIssue)
  /-- `VX_FN` (R134): VX issues a transcendental function. -/
  | vxFn (n : Nat) (w : VxIssue)
  /-- `VX_STN` (R137): VX issues a stencil over a window and a tap list. -/
  | vxStn (n : Nat) (w : VxIssue)
  /-- `VX_RNG` (R141): VX issues random-number generation. -/
  | vxRng (n : Nat) (w : VxIssue)
  /-- `VX_OPERATION_RETIRE` (R128): A VX operation retires in the cycle of its last write, signalling its barrier. -/
  | vxOperationRetire (n t i : Nat)
  /-- `MV_NOP` (R144): MV.NOP does nothing and optionally signals after earlier MV retirements. -/
  | mvNop (n t : Nat)
  /-- `MV_SEND` (R147): MV sends lines over the mesh to a queue of another tile. -/
  | mvSend (n t : Nat)
  /-- `MV_OSEND` (R148): MV forms an optical packet and carries it to a port tile. -/
  | mvOsend (n t : Nat)
  /-- `MV_GET` (R153): MV reserves lines of a decoupled queue and sends an HBM read request flit. -/
  | mvGet (n t : Nat)
  /-- `MV_PUT` (R160): MV sends a write request and lines to HBM, with optional hash and digest. -/
  | mvPut (n t : Nat)
  /-- `MV_GATHER` (R171): MV reserves lines and requests an indirect gather through an HBM index table. -/
  | mvGather (n t : Nat)
  /-- `MV_WAIT` (R155): MV.WAIT issues once a decoupled queue's push count reaches its target. -/
  | mvWait (n t : Nat)
  /-- `MV_SYNC_SIGNAL` (R297): MV.SYNC adds INC to a translated counter's VALUE after the sync latency. -/
  | mvSyncSignal (n t : Nat)
  /-- `MV_SYNC_ARM` (R297): MV.SYNC adds INC to a counter's TARGET. -/
  | mvSyncArm (n t : Nat)
  /-- `MV_SYNC_PART` (R299): MV.SYNC posts a part of a split request to a counter. -/
  | mvSyncPart (n t : Nat)
  /-- `MV_SYNC_WAIT` (R298): A WAIT issues once the counter's VALUE reaches its count with ERR clear. -/
  | mvSyncWait (n t : Nat)
  /-- `MV_SYNC_RSIGNAL` (R300): MV.SYNC sends a SYNC packet carrying a signal to a remote counter. -/
  | mvSyncRsignal (n t : Nat)
  /-- `MV_SYNC_RPART` (R300): MV.SYNC sends a SYNC packet carrying a part to a remote counter. -/
  | mvSyncRpart (n t : Nat)
  /-- `MV_OPERATION_RETIRE` (R146): An MV operation retires when its last line or request leaves for the router. -/
  | mvOperationRetire (n t : Nat)
  /-- `ANCHOR_MISS` (R64): An anchored command that cannot issue at its nominal slot is discarded and the commit flag withheld. -/
  | anchorMiss (n t : Nat) (eng : Engine)
  /-- `MESH_HEAD_ARRIVAL` (R182): A packet head reaches a router output or injection channel. -/
  | meshHeadArrival (n t : Nat) (pkt inp : Nat)
  /-- `MESH_LINE_ARRIVAL` (R180): A line in its destination router is pushed into its queue in the next cycle. -/
  | meshLineArrival (n t : Nat) (pkt line : Nat)
  /-- `CROSSING_RELEASE` (R185): A timed crossing releases a flit in the slot stamp + 6. -/
  | crossingRelease (n t : Nat) (inp : Nat)
  /-- `HBM_COMMAND` (R158): A controller issues an almanac command at its slot. -/
  | hbmCommand (c : Nat) (w : HbmSlot)
  /-- `REQUEST_FLIT_ARRIVAL` (R160): A controller checks the request flit at a transfer's request slot against the transfer. -/
  | requestFlitArrival (c x : Nat)
  /-- `READ_LINE_READY` (R161): A read line is ready at the mesh edge and decoded, which is where a read error is found. -/
  | readLineReady (c x i : Nat) (errs : List (Nat × Nat))
  /-- `HBM_DELIVERY_SLOT` (R161): The controller injects a read line at its regular delivery slot. -/
  | hbmDeliverySlot (c x i t : Nat)
  /-- `LATE_SLOT` (R162): A line not ready at its regular slot is delivered in the transfer's next late slot. -/
  | lateSlot (c x t : Nat)
  /-- `LINE_ARRIVAL` (R153): An HBM line written into its reserved position advances the decoupled queue's push count. -/
  | lineArrival (n t : Nat) (c x i : Nat)
  /-- `MAINTENANCE_SLOT` (R169): A maintenance slot performs heat refresh, or retries and scrub. -/
  | maintenanceSlot (c p : Nat)
  /-- `QUIET_INTERVAL` (R163): From slot A to the tick the controllers serve host and management traffic and device ring writes. -/
  | quietInterval
  /-- `KEEP_ALIVE` (R163): A keep-alive REFab is issued every 1,900 ns when it completes before the tick. -/
  | keepAlive (c : Nat)
  /-- `HBM_TEMP_SAMPLE` (R165): The stack temperature is sampled every 10 µs into HB_TEMP. -/
  | hbmTempSample (c temp : Nat)
  /-- `HEAT_MODE_EXIT` (R165): Heat mode ends after 1 ms at or below the limit minus 3 °C. -/
  | heatModeExit (c : Nat)
  /-- `HEAT_REFRESH` (R165): In heat mode a REFab is added at the latest allowed instant, displacing almanac commands. -/
  | heatRefresh (c p : Nat)
  /-- `ADAPTIVE_RFM_REQUEST` (R164): An adaptive refresh-management request from the stack is ignored and counted. -/
  | adaptiveRfmRequest (c p : Nat)
  /-- `CA_PARITY_ERROR` (R356): A stack-reported command/address parity error sets CA_PARITY and is recorded. -/
  | caParityError (c p : Nat)
  /-- `PORT_ENABLE` (R206): Setting LK_CTRL.ENABLE moves a port to SIGNAL and clearing it moves any state to DISABLED. -/
  | portEnable (p : Nat) (a : Agent) (on : Bool)
  /-- `FIBRE_CLOCK_LOCK` (R206): Clock lock on at least 12 fibres moves the port from SIGNAL to ALIGN. -/
  | fibreClockLock (p mask : Nat)
  /-- `SIGNAL_TIMEOUT` (R206): 5 ms in SIGNAL without lock restarts SIGNAL. -/
  | signalTimeout (p : Nat)
  /-- `ALIGN_TIMEOUT` (R206): 1 ms in ALIGN without alignment returns the port to SIGNAL. -/
  | alignTimeout (p : Nat)
  /-- `IDENT_TIMEOUT` (R206): 100 µs in IDENT without acceptance returns the port to SIGNAL. -/
  | identTimeout (p : Nat)
  /-- `ALIGNMENT_MARKER` (R207): An alignment marker on a fibre is checked, building or losing lock and deskew. -/
  | alignmentMarker (p f : Nat) (w : MarkerAt)
  /-- `CODEWORD` (R200): A received codeword is decoded, descrambled and its flits sorted by kind. -/
  | codeword (p : Nat) (cols : List (List Nat))
  /-- `LOSS_OF_SIGNAL` (R210): Loss of light on a fibre erases it and reconstructs from parity. -/
  | lossOfSignal (p f : Nat)
  /-- `FEED_LOSS` (R199): Loss of one laser feed to a port sets FEED_A_LOW or FEED_B_LOW and is recorded. -/
  | feedLoss (p : Nat) (second : Bool)
  /-- `STATUS` (R214): A STATUS message acknowledges packets, reports off states, lane-map generation and IDOK. -/
  | status (p : Nat)
  /-- `NAK` (R229): A NAK marks the named held packets for replay. -/
  | nak (p : Nat)
  /-- `ABANDON` (R255): An ABANDON settles a packet's number without replay and fails its regular entry. -/
  | abandon (p : Nat)
  /-- `LANE` (R208): A LANE message carries a receiver's lock mask, from which the transmitter derives the new lane map. -/
  | lane (p : Nat)
  /-- `IDENT0` (R259): IDENT0 carries the partner's address, rank and high plan identifier bits. -/
  | ident0 (p : Nat)
  /-- `IDENT1` (R259): IDENT1 completes the partner identity, which the port accepts or refuses into HELD. -/
  | ident1 (p : Nat)
  /-- `CALENDS_MARKER` (R283): A received calends marker forms a delay and offset exchange. -/
  | calendsMarker (p : Nat)
  /-- `CALENDS_MARKER_SEND` (R282): A port sends a calends marker at each multiple of its period. -/
  | calendsMarkerSend (p : Nat)
  /-- `LINK_CONTROL_SEND` (R215): A transmitter sends a link-control flit in each reserved position between packets. -/
  | linkControlSend (p : Nat)
  /-- `PACKET_HEADER` (R221): A packet header passing CRC-16 is classified by sequence number and receive checks. -/
  | packetHeader (w : HeaderAt)
  /-- `PACKET_TRAILER` (R222): The trailer's CRC-64 confirms or fails the packet, with a NAK on failure. -/
  | packetTrailer (p : Nat)
  /-- `PACKET_TRANSMIT` (R220): A transmitter sends a packet from its egress queue, held by the sequence window or replay buffer if full. -/
  | packetTransmit (p vc : Nat)
  /-- `REPLAY_TIMEOUT` (R229): The oldest unacknowledged packet is marked for replay once LK_REPLAY_TIMEOUT passes. -/
  | replayTimeout (p vc : Nat)
  /-- `PACKET_REPLAY` (R229): Marked packets are resent in the link's leap window under their original numbers. -/
  | packetReplay (p : Nat)
  /-- `REGULAR_DELIVERY` (R241): At its regular slots a port tile injects a packet's lines, which the tile pushes with the eve bit set. -/
  | regularDelivery (p vc k j : Nat)
  /-- `NOTICE_CONFIRM` (R250): A CONFIRM notice frees the tag and clears it from pending range masks. -/
  | noticeConfirm (p vc k : Nat)
  /-- `NOTICE_FAIL` (R250): A FAIL notice moves the tag to FAILED and marks dependent ranges failed. -/
  | noticeFail (p vc k : Nat)
  /-- `NOTICE_LEAP` (R242): A LEAP notice frees the tag after its lines were rewritten with the packet's data. -/
  | noticeLeap (p vc k : Nat)
  /-- `NOTICE_DEAD` (R242): A DEAD notice frees the tag with its lines rewritten as poison. -/
  | noticeDead (p vc k : Nat)
  /-- `LEAP_DELIVERY` (R241): After a FAIL the port tile injects the confirmed packet, or poison, into the recorded positions. -/
  | leapDelivery (p vc k : Nat)
  /-- `RANGE_RESOLVE` (R250): A closed range with empty pending mask and retired commands clears its eve bits or joins the re-execution queue. -/
  | rangeResolve (n t e : Nat)
  /-- `REEXECUTION` (R251): The tile restores a failed range's pointers and registers and runs it again. -/
  | reexecution (n t : Nat)
  /-- `FORWARD_LINE` (R253): At a forwarding slot a line is carried cut-through to the outbound port. -/
  | forwardLine (p vc k j : Nat)
  /-- `STORE_AND_FORWARD` (R256): A confirmed leap-window packet is sent on in the outbound link's leap window as a new packet. -/
  | storeAndForward (p vc k : Nat)
  /-- `DEADLINE_FAULT` (R258): An instance without CONFIRM or LEAP by its deadline is recorded as a deadline fault. -/
  | deadlineFault (p vc k : Nat)
  /-- `PEER_VIGIL` (R260): A partner holding a channel off beyond LK_VIGIL is recorded once per episode. -/
  | peerVigil (p vc : Nat)
  /-- `STEP_REQUEST` (R268): A write of TM_STEP_REQ with GO requests a step change bound to frame F. -/
  | stepRequest (a : Agent) (val : W32)
  /-- `STEP_CHANGE` (R267): Without a running plan an accepted step change takes effect after its rail ramp. -/
  | stepChange
  /-- `MARGIN_WARNING` (R273): The worst margin falling below WARN begins a warning episode with record, vector and step action. -/
  | marginWarning (r m : Nat)
  /-- `MARGIN_WARN_EPISODE_END` (R273): A warning episode ends after 1 ms at or above WARN. -/
  | marginWarnEpisodeEnd
  /-- `MARGIN_CRITICAL` (R274): A margin below CRIT is a detected fault that stops the plan. -/
  | marginCritical (r m : Nat)
  /-- `COUNTER_COMPARE` (R277): Every 256 ns the two time counters are compared. -/
  | counterCompare
  /-- `REFERENCE_LOSS` (R280): Loss of the primary reference enters holdover and moves to the secondary if present. -/
  | referenceLoss
  /-- `HOLDOVER_LIMIT` (R280): Holdover beyond TM_HOLDOVER_LIMIT declares a time-counter fault. -/
  | holdoverLimit
  /-- `REFERENCE_RECOVERY` (R280): The time PLL returns phase-continuously to a recovered primary reference. -/
  | referenceRecovery
  /-- `TIME_PLL_LOCK` (R279): The time PLL locks to its selected reference. -/
  | timePllLock
  /-- `PPS_EDGE` (R281): A 1PPS rising edge latches the counter into TM_PPS_CAPTURE, and sets a root's counter under PPS_ALIGN. -/
  | ppsEdge
  /-- `EQUINOX_START` (R285): A GO write to TM_EQX_CTRL starts Equinox, setting a root's counter at once. -/
  | equinoxStart (a : Agent) (val : W32)
  /-- `EQUINOX_PPS_TIMEOUT` (R286): A root with PPS_ALIGN seeing no edge in 1.5 s stays unset and fails Equinox. -/
  | equinoxPpsTimeout
  /-- `EQUINOX_CORRECTION` (R287): After 256 exchanges a device steps its counter by the mean offset and enters set. -/
  | equinoxCorrection
  /-- `EQUINOX_TRIAL_TIMEOUT` (R287): A device still in trial 100 ms after GO stays unset and fails Equinox. -/
  | equinoxTrialTimeout
  /-- `PTP_SYNC` (R290): The PTP client updates TM_WALL_OFFSET after each synchronisation. -/
  | ptpSync (off : W64)
  /-- `SY_DOORBELL` (R301): A function's doorbell write signals or arms a counter translated through its bound context. -/
  | syDoorbell (a : Agent) (f : Nat) (val : W32)
  /-- `VIGIL_EXPIRY` (R303): A WAIT's vigil expires at its period or the commit point and declares a hang. -/
  | vigilExpiry (n : Nat)
  /-- `HANG_DUMP` (R306): After the commit point the device writes the hang dump region in HBM service time. -/
  | hangDump
  /-- `SY_SET` (R308): A manual request writes a counter's VALUE, TARGET and optionally masks and notify. -/
  | sySet (r : Req)
  /-- `SY_CLEAR` (R308): A manual request writes a counter and clears its AMASK, FMASK and ERR. -/
  | syClear (r : Req)
  /-- `PL_LOAD` (R318): The loader checks a staged plan image and writes every structure from it. -/
  | plLoad (r : Req)
  /-- `PL_LOAD_REUSE` (R319): A reuse load compares the staged image's digest and skips the checks when it matches. -/
  | plLoadReuse (r : Req)
  /-- `HELD_LOAD_BEGIN` (R13): A PL_LOAD held during self-test begins when self-test ends. -/
  | heldLoadBegin
  /-- `PL_VERIFY` (R319): The loader checks an image without writing anything. -/
  | plVerify (r : Req)
  /-- `PL_ARM` (R321): The loader arms a loaded plan with T0 and moves the device to the floor step. -/
  | plArm (r : Req)
  /-- `PL_STOP` (R323): A stop request stops the plan at the next or following tick, or cancels an arm. -/
  | plStop (r : Req)
  /-- `PL_UNLOAD` (R320): The loader invalidates the plan's tables and windows and enters EMPTY. -/
  | plUnload (r : Req)
  /-- `PL_ACTION` (R325): A scheduled action bound to frame F is posted against its arming horizon. -/
  | plAction (r : Req)
  /-- `INTERCALARY_REQUEST` (R327): A GO write to PL_ICAL_REQ requests n intercalary frames from frame F. -/
  | intercalaryRequest (a : Agent) (val : W32)
  /-- `GATE_HOLD` (R336): A write of 1 to PL_GATE_HOLD holds a layer gate for the next sealed work frame. -/
  | gateHold (a : Agent) (half : Nat) (val : W32)
  /-- `MANIFEST_COMMIT` (R345): A GO write to PL_MF_COMMIT commits frame F's manifest slot. -/
  | manifestCommit (a : Agent) (val : W32)
  /-- `PL_COPY` (R341): A management copy request moves HBM lines in service time, bypassing the window check. -/
  | plCopy (r : Req)
  /-- `COPY_COMPLETE` (R341): A management copy completes, posts its status and optionally signals a counter. -/
  | copyComplete
  /-- `RAIL_EXCURSION` (R357): A rail outside its window for 1 µs withholds commit flags and writes a RAIL record. -/
  | railExcursion (rail : Nat) (above : Bool)
  /-- `MGMT_LOCKSTEP_MISCOMPARE` (R358): A lockstep miscompare holds both cores, records and restarts the management controller. -/
  | mgmtLockstepMiscompare (sig : W32)
  /-- `EXCHANGE_PACKET_SEND` (R364): The FL block originates each used port's exchange packet with its mode word and queued records. -/
  | exchangePacketSend (p : Nat)
  /-- `MASQUE_REQUEST` (R368): A masque request binds a fault injection to a future frame. -/
  | masqueRequest (r : Req)
  /-- `TRACE_RING_WRITE` (R383): During trace slots the OB block writes the previous frame's trace records into the ring. -/
  | traceRingWrite
  /-- `DIGEST_RING_WRITE` (R387): In service time the OB block writes one digest record per contributing tag. -/
  | digestRingWrite
  /-- `WATCH_ARM` (R390): A GO write to OB_WATCH_ARM_HI arms a watch group for a work frame count. -/
  | watchArm (a : Agent) (f : Nat) (val : W32)
  /-- `WATCH_COPY` (R389): A watch point copies its lines to the watch buffer or the sink at its slot. -/
  | watchCopy (g i : Nat)
  /-- `COUNTER_WRITE` (R10): A software write to a counter wins, with coincident increments added. -/
  | counterWrite (a : Agent) (off : Nat) (val : W32) (incr : Nat)
  /-- `BAR0_WRITE` (R424): A BAR0 write to a register without its own row acts by the field's access type and the sender's rights. -/
  | bar0Write (a : Agent) (off size : Nat) (val : W64) (en : Nat)
  /-- `BAR2_READ` (R399): A BAR2 read is served in HBM service time after its function's earlier writes. -/
  | bar2Read (a : Agent) (off len : Nat)
  /-- `BAR2_READ_COMPLETION` (R400): A BAR2 read completes once its function's earlier writes are written. -/
  | bar2ReadCompletion (a : Agent)
  /-- `BAR2_WRITE` (R399): A BAR2 write writes its allowed lines in service time, merging partial lines. -/
  | bar2Write (a : Agent) (off : Nat) (data : List (Option Byte))
  /-- `MAILBOX_GO` (R409): A GO write sends the channel's request words to management firmware. -/
  | mailboxGo (a : Agent) (c : Nat)
  /-- `MAILBOX_TAKE` (R410): Firmware takes a pending request in channel order and serves it. -/
  | mailboxTake (c : Nat)
  /-- `MAILBOX_RELEASE` (R409): Writing 1 to RSP_FULL releases the reply and returns the channel to IDLE. -/
  | mailboxRelease (a : Agent) (c : Nat)
  /-- `MG_INFO` (R411): Firmware returns part, boot, library, policy and plan state. -/
  | mgInfo (r : Req)
  /-- `MG_SELFTEST` (R415): Firmware runs a full self-test, leaving the device EMPTY. -/
  | mgSelftest (r : Req)
  /-- `SELFTEST_PHASE_END` (R415): A self-test phase ends and the next begins. -/
  | selftestPhaseEnd (fault : Bool)
  /-- `MG_RESET_DEVICE` (R414): A device reset stops the plan and runs full self-test. -/
  | mgResetDevice (r : Req)
  /-- `MG_RESET_MANAGEMENT` (R414): A management reset reboots firmware while the plan continues. -/
  | mgResetManagement (r : Req)
  /-- `MG_SHUTDOWN` (R418): Shutdown stops the plan, finishes ring writes, darkens lasers and turns the main rails off. -/
  | mgShutdown (r : Req)
  /-- `SHUTDOWN_COMPLETE` (R418): Shutdown completes, posting OK and restarting if a power-on is pending. -/
  | shutdownComplete
  /-- `MG_POWER_ON` (R419): Power-on brings the main rails up, or marks a restart pending during shutdown. -/
  | mgPowerOn (r : Req)
  /-- `MG_FAULTLOG` (R411): Firmware returns one fault record from its log. -/
  | mgFaultlog (r : Req)
  /-- `MG_DESCRIBE` (R412): Firmware returns one page of the device description. -/
  | mgDescribe (r : Req)
  /-- `MG_FW_STAGE` (R405): Firmware copies and verifies an image into the inactive bank. -/
  | mgFwStage (r : Req)
  /-- `MG_FW_ACTIVATE` (R405): Firmware starts a management reset into the staged bank. -/
  | mgFwActivate (r : Req)
  /-- `MG_KEY_REVOKE_FIRMWARE` (R403): A firmware key slot is revoked permanently. -/
  | mgKeyRevokeFirmware (r : Req)
  /-- `MG_KEY_WRITE_PLAN` (R411): A plan key half is kept or, with HALF 1, the plan key slot is written. -/
  | mgKeyWritePlan (r : Req)
  /-- `MG_KEY_REVOKE_PLAN` (R403): A plan key slot is revoked permanently. -/
  | mgKeyRevokePlan (r : Req)
  /-- `MG_KEY_SET_REQUIRED` (R403): Plan signatures are made required permanently. -/
  | mgKeySetRequired (r : Req)
  /-- `MG_KEY_HALF_TIMEOUT` (R411): A kept HALF 0 is discarded when 10 s pass without its HALF 1. -/
  | mgKeyHalfTimeout
  /-- `MG_PLACE` (R411): The BMC sets the device address and failure-domain values. -/
  | mgPlace (r : Req)
  /-- `MG_CONFIG` (R408): PF0 changes the configuration record for the next management reset. -/
  | mgConfig (r : Req)
  /-- `SET_ENDPOINT_ID` (R413): MCTP Set Endpoint ID assigns the endpoint and acts as an owner reset on the BMC's channels. -/
  | setEndpointId (eid : Nat)
  /-- `GET_ENDPOINT_ID` (R407): MCTP control returns the endpoint identifier. -/
  | getEndpointId (body : List Byte)
  /-- `GET_MCTP_VERSION_SUPPORT` (R407): MCTP control returns supported versions. -/
  | getMctpVersionSupport (body : List Byte)
  /-- `GET_MESSAGE_TYPE_SUPPORT` (R407): MCTP control returns supported message types. -/
  | getMessageTypeSupport (body : List Byte)
  /-- `GET_VENDOR_DEFINED_MESSAGE_SUPPORT` (R407): MCTP control returns vendor-defined message support. -/
  | getVendorDefinedMessageSupport (body : List Byte)
  /-- `PLDM_BASE_DISCOVERY` (R407): PLDM type 0 discovery is answered. -/
  | pldmBaseDiscovery (body : List Byte)
  /-- `PLDM_SENSOR_READ` (R407): PLDM platform monitoring returns temperatures, power and rail voltages. -/
  | pldmSensorRead (body : List Byte)
  /-- `PLDM_FRU_DATA` (R407): PLDM returns FRU data. -/
  | pldmFruData (body : List Byte)
  /-- `PLDM_FIRMWARE_UPDATE` (R407): PLDM firmware update stages an image as MG_FW_STAGE does. -/
  | pldmFirmwareUpdate (image : List Byte)
  /-- `GET_VERSION` (R407): SPDM returns supported versions. -/
  | getVersion (body : List Byte)
  /-- `GET_CAPABILITIES` (R407): SPDM returns capabilities. -/
  | getCapabilities (body : List Byte)
  /-- `NEGOTIATE_ALGORITHMS` (R407): SPDM negotiates algorithms. -/
  | negotiateAlgorithms (body : List Byte)
  /-- `GET_DIGESTS` (R407): SPDM returns certificate chain digests. -/
  | getDigests (body : List Byte)
  /-- `GET_CERTIFICATE` (R407): SPDM returns the device certificate chain. -/
  | getCertificate (body : List Byte)
  /-- `CHALLENGE` (R407): SPDM answers a challenge with the device key. -/
  | challenge (body : List Byte)
  /-- `GET_MEASUREMENTS` (R407): SPDM returns ROM, firmware, policy and plan-image measurements. -/
  | getMeasurements (body : List Byte)
  /-- `MAILBOX_TUNNEL` (R448): A vendor-defined message delivers one mailbox request as a GO on a BMC channel. -/
  | mailboxTunnel (c : Nat) (words : List W32)
  /-- `REGISTER_READ` (R448): A vendor-defined message reads a BAR0 register for the BMC. -/
  | registerRead (size off : Nat)
  /-- `REGISTER_WRITE` (R448): A vendor-defined message writes an RW counter for the BMC. -/
  | registerWrite (size off : Nat) (val : W64)
  /-- `AUX_POWER_GOOD` (R402): Auxiliary power good starts the ROM, which verifies and boots firmware or enters recovery. -/
  | auxPowerGood (strap : Nat)
  /-- `MAIN_POWER_UP` (R434): With firmware up and 54 V in range for 100 ms, the main rails power up in order and self-test starts. -/
  | mainPowerUp
  /-- `PERST_ASSERT` (R414): PERST# performs a fundamental reset, or a device reset under PERST_FULL. -/
  | perstAssert
  /-- `PCIE_HOT_RESET` (R414): An in-band hot reset or link disable resets every function's configuration and host windows. -/
  | pcieHotReset
  /-- `FLR_PF0` (R414): A PF0 function-level reset resets PF0 and every VF. -/
  | flrPf0
  /-- `FLR_VF` (R414): A VF function-level reset resets that VF's configuration, MSI-X table and host window. -/
  | flrVf (n : Nat)
  /-- `MAIN_INPUT_LOSS` (R435): 54 V out of range for 100 µs stops clocks, shutters lasers and powers the main rails down. -/
  | mainInputLoss
  /-- `AUX_INPUT_LOSS` (R435): Auxiliary input out of range powers the main rails down and stops the management controller. -/
  | auxInputLoss
  /-- `THERMAL_TRIP` (R438): A die at 115 °C or stack at 110 °C drives THERMTRIP# low and powers the main rails down. -/
  | thermalTrip (sensor : Nat)
  /-- `COOLANT_EXCURSION` (R437): Firmware sends one event when inlet or outlet temperature leaves its limits. -/
  | coolantExcursion (outlet : Bool) (temp : Int)
  /-- `CARTRIDGE_LATCH_LIFT` (R445): Lifting a cartridge latch shutters it, removing one feed from eight ports. -/
  | cartridgeLatchLift (c : Nat)
  /-- `CARTRIDGE_START` (R445): Five seconds after a latch closes firmware biases the cartridge and ramps its output. -/
  | cartridgeStart (c : Nat)
  /-- `BAR0_READ` (R426): A BAR0 read by a PCIe function or firmware returns the register and, for the LO half of a latched pair or the even counter of a chained pair, latches the HI half for that source; an oversized or unaligned read completes Unsupported Request and is counted. -/
  | bar0Read (a : Agent) (off size : Nat)
  /-- `LOAD_COMPLETION` (R318): A full or reuse load finishes writing, enters LOADED or, on a fault, EMPTY, and posts its final reply. -/
  | loadCompletion (fault : Bool)
  /-- `CARTRIDGE_LATCH_CLOSE` (R445): Closing a cartridge bay latch ends the latch's hold on the shutter and starts the 5 s wait before the cartridge is biased. -/
  | cartridgeLatchClose (c : Nat)
  deriving DecidableEq, Repr

end Sys2Proof
end

