-- ==== Sys2Proof/Decode.lean ====
section
/-! DEFINITION. Words of the opcode table. The table gives no row any bits: a command is an event or a request with operands, not an
encoded word, so no word spells one. -/

namespace Sys2Proof

/-- The command that the `nbits` bits `w` spell by the table's bits: the table gives none. -/
def decodeTableWord (_nbits _w : Nat) : Option Instr := none

end Sys2Proof
end

