-- ==== Sys2Proof/Config.lean ====
section
/-! DEFINITION. What the manual leaves to an implementation, to a document it only cites, or open:
each an opaque constant with no body, so that a statement holds whatever its value is. -/

namespace Sys2Proof.Config

/-- Which of the results inside the error bound VX.FN gives: the manual names the VX.FN reference model, which it does not contain (05 R134). A fixed
function of FUNC, FMT and the operand's bits. -/
opaque vxFn : Nat → Nat → Nat → Nat

/-- What the (72,64) code makes of a word with three or more wrong bits (02 R43): 0 a zero syndrome, 1 a
single-bit syndrome and 2 a double-bit syndrome, as a function of the error pattern. The check matrix is not in the manual. -/
opaque eccMulti : List Nat → Nat

/-- The bit that a single-bit syndrome of such a pattern makes the tile flip (02 R43). -/
opaque eccMultiBit : List Nat → Nat

/-- SHA-384 of FIPS 180, cited by 12 R315 and 16 R402. -/
opaque sha384 : List Byte → BitVec 384

/-- ECDSA P-384 verification of FIPS 186-5 (12 R315, 16 R402): key, digest, r, s. -/
opaque ecdsaP384 : BitVec 768 → BitVec 384 → BitVec 384 → BitVec 384 → Bool

/-- Whether a pair of coordinates is a valid point of P-384 (16 R403). -/
opaque validP384 : BitVec 768 → Bool

/-- The body of an MCTP control, PLDM or SPDM reply whose format and content an outside standard or the part's own
provisioning gives (16 R407): the row's number, the request's operand and the value the manual supplies. -/
opaque replyBody : Nat → Nat → Nat → List Byte

/-- What a firmware image says of itself (16 R402): security version, RAISE, the library version it carries, its public key, its signature, and the
bytes that the digest covers. -/
structure FwImage where
  version : Nat
  raise : Bool
  lib : Nat
  key : BitVec 768
  r : BitVec 384
  s : BitVec 384
  signed : List Byte
  deriving DecidableEq, Repr

/-- The firmware image that bytes spell; none where the format check fails (16 R402). The manual gives no layout. -/
opaque fwImage : List Byte → Option FwImage

/-- The ROM's version (16 Table 16-14), fixed in the part. -/
opaque romVersion : Nat

/-- A fresh free value, drawn with a counter that the state holds. -/
opaque freeValue : Nat → W64

/-- Whether LK_BER's ratio (08 Table 8-14) is rounded up, for the symbols corrected in the last 10^9 codewords: the manual does not say how it is rounded. -/
opaque berUp : Nat → Bool

/-- LK_BER's fields E and M where no symbol was corrected: no M from 1 to 999 states that ratio. -/
opaque berNone : W32

/-- A resident routine's effect on S16 to S31 (02 R58): the library's contents are not in the manual.
Arguments: library version, routine number, S16 to S23 on entry, what the routine finds outside its arguments (a time event the work frame count and the shape index; a remote-read service whether its READ line passes
the checks, HLA, LINES and RROUTE), the register written. -/
opaque routineResult : Nat → Nat → List W64 → List Nat → Nat → W64

/-- The engine command a resident routine dispatches in a given place of its dispatch list (02 R60): library version, routine number, S16 to S23, what a
remote-read service found in its READ line, the place. -/
opaque routineCommand : Nat → Nat → List W64 → List Nat → Nat → W128

/-- The queue from which a collective-control routine pops a READ line (09 R240), where it is a remote-read service: which routines are, and which of
their arguments names the queue, stands in the library. -/
opaque remoteRead : Nat → Nat → List W64 → Option Nat

/-- The length in lines of the reply entry that a remote-read service's arguments name (09 R240). -/
opaque replyLines : Nat → Nat → List W64 → Nat

end Sys2Proof.Config
end

