-- ==== Sys2Proof/Machine/Numbers.lean ====
section
/-! DEFINITION. Number formats, rounding, conversions, MX blocks, the exact-sum accumulator and sliced FP64:
the arithmetic of 03. Every operation is exact on dyadic numbers and rounds once at the end. -/

namespace Sys2Proof.Machine

/-- The formats of Table 3-1 that hold elements (INT24 never leaves MX). -/
inductive Fmt where
  | b64
  | b32
  | b16
  | bf16
  | e5m2
  | e4m3
  | e3m2
  | e2m3
  | e2m1
  | i32
  | i8
  | i4
  deriving DecidableEq, Repr

/-- Bits of one element. -/
def fmtBits : Fmt → Nat
  | .b64 => 64 | .b32 => 32 | .b16 => 16 | .bf16 => 16 | .e5m2 => 8 | .e4m3 => 8
  | .e3m2 => 6 | .e2m3 => 6 | .e2m1 => 4 | .i32 => 32 | .i8 => 8 | .i4 => 4

/-- Whether the format is an integer format. -/
def fmtInt : Fmt → Bool
  | .i32 => true | .i8 => true | .i4 => true | _ => false

/-- Stored fraction bits. -/
def fmtFrac : Fmt → Nat
  | .b64 => 52 | .b32 => 23 | .b16 => 10 | .bf16 => 7 | .e5m2 => 2 | .e4m3 => 3
  | .e3m2 => 2 | .e2m3 => 3 | .e2m1 => 1 | _ => 0

/-- Exponent bias. -/
def fmtBias : Fmt → Nat
  | .b64 => 1023 | .b32 => 127 | .b16 => 15 | .bf16 => 127 | .e5m2 => 15 | .e4m3 => 7
  | .e3m2 => 3 | .e2m3 => 1 | .e2m1 => 1 | _ => 0

/-- Whether the format has infinities and NaNs of the IEEE kind. -/
def fmtIeee : Fmt → Bool
  | .b64 => true | .b32 => true | .b16 => true | .bf16 => true | .e5m2 => true | _ => false

/-- The canonical NaN of Table 3-1; 0 for an element format that has none. -/
def fmtNan : Fmt → Nat
  | .b64 => 0x7FF8000000000000 | .b32 => 0x7FC00000 | .b16 => 0x7E00 | .bf16 => 0x7FC0
  | .e5m2 => 0x7E | .e4m3 => 0x7F | _ => 0

/-- Bits of the exponent field. -/
def fmtExpBits (f : Fmt) : Nat := fmtBits f - 1 - fmtFrac f

/-- The bits of the largest finite magnitude (Table 3-1). -/
def fmtMax (f : Fmt) : Nat :=
  if fmtIeee f then (2 ^ fmtExpBits f - 1) * 2 ^ fmtFrac f - 1
  else match f with
    | .e4m3 => 0x7E
    | _ => 2 ^ (fmtBits f - 1) - 1

/-- The bits of +infinity, in a format that has one. -/
def fmtInf (f : Fmt) : Nat := (2 ^ fmtExpBits f - 1) * 2 ^ fmtFrac f

/-- A value: a NaN (signalling or quiet), an infinity, or the number ±m·2^e, a signed zero when m is 0. -/
inductive Num where
  | nan (sig : Bool)
  | inf (neg : Bool)
  | fin (neg : Bool) (m : Nat) (e : Int)
  deriving DecidableEq, Repr

/-- The conditions of Table 3-3 as a mask: bit i is event code 0x1C + i (INVALID, DIVZERO, OVERFLOW, UNDERFLOW, INEXACT). -/
abbrev Conds := Nat
def cInvalid : Conds := 1
def cDivZero : Conds := 2
def cOverflow : Conds := 4
def cUnderflow : Conds := 8
def cInexact : Conds := 16

/-- The value of an element's bits (R74, R77, R78). -/
def decodeNum (f : Fmt) (b : Nat) : Num :=
  let neg := bitAt b (fmtBits f - 1)
  if fmtInt f then
    let v := signedAt b (fmtBits f)
    .fin (decide (v < 0)) v.natAbs 0
  else
    let ex := bitsAt b (fmtFrac f) (fmtExpBits f)
    let fr := bitsAt b 0 (fmtFrac f)
    let top := 2 ^ fmtExpBits f - 1
    if fmtIeee f ∧ ex = top then
      if fr = 0 then .inf neg else .nan (!bitAt fr (fmtFrac f - 1))
    else if f = .e4m3 ∧ ex = top ∧ fr = 7 then .nan false
    else if ex = 0 then .fin neg fr (1 - (fmtBias f : Int) - (fmtFrac f : Int))
    else .fin neg (2 ^ fmtFrac f + fr) ((ex : Int) - (fmtBias f : Int) - (fmtFrac f : Int))

/-- `m / 2^k` rounded to an integer under RM (Table 3-2) for a number of sign `neg`. -/
def shiftRound (rm : Nat) (neg : Bool) (m k : Nat) : Nat :=
  let q := m / 2 ^ k
  let r := m % 2 ^ k
  let up :=
    match rm with
    | 0 => decide (2 * r > 2 ^ k) || (decide (2 * r = 2 ^ k) && q % 2 == 1)
    | 1 => false
    | 2 => !neg && decide (r ≠ 0)
    | _ => neg && decide (r ≠ 0)
  if up then q + 1 else q

/-- Base-2 logarithm of a magnitude m·2^e, rounded down (m > 0). -/
def numLog (m : Nat) (e : Int) : Int := (Nat.log2 m : Int) + e

/-- Whether an overflow under RM goes to infinity and not to the largest finite value. -/
def ovfToInf (rm : Nat) (neg : Bool) : Bool :=
  match rm with
  | 0 => true
  | 1 => false
  | 2 => !neg
  | _ => neg

/-- The significand and quantum exponent of ±m·2^e rounded to `p` bits, with the quantum no lower than `lo`. -/
def roundSig (rm : Nat) (neg : Bool) (m : Nat) (e : Int) (p : Nat) (lo : Option Int) : Nat × Int :=
  let q0 := numLog m e - ((p : Int) - 1)
  let q := match lo with
    | none => q0
    | some l => if q0 < l then l else q0
  if q ≤ e then (m * 2 ^ (e - q).toNat, q) else (shiftRound rm neg m (q - e).toNat, q)

/-- Whether two numbers m·2^e and n·2^f are equal. -/
def magEq (m : Nat) (e : Int) (n : Nat) (f : Int) : Bool :=
  if e ≤ f then m == n * 2 ^ (f - e).toNat else m * 2 ^ (e - f).toNat == n

/-- Whether m·2^e < n·2^f. -/
def magLt (m : Nat) (e : Int) (n : Nat) (f : Int) : Bool :=
  if e ≤ f then decide (m < n * 2 ^ (f - e).toNat) else decide (m * 2 ^ (e - f).toNat < n)

/-- The magnitude bits of a rounded significand mm·2^q in a float format. -/
def packMag (f : Fmt) (mm : Nat) (q : Int) : Nat :=
  let p := fmtFrac f + 1
  if mm = 2 ^ p then ((q + (p : Int) + (fmtBias f : Int)).toNat) * 2 ^ fmtFrac f
  else if mm < 2 ^ fmtFrac f then mm
  else ((q + (fmtFrac f : Int) + (fmtBias f : Int)).toNat) * 2 ^ fmtFrac f + (mm - 2 ^ fmtFrac f)

/-- A finite number rounded once to a float format under RM, with SAT for an FP8 target and saturation for an MX
element (R77, R80, Table 3-4, Table 5-6): its bits and the conditions raised. -/
def roundFin (f : Fmt) (rm : Nat) (sat : Bool) (neg : Bool) (m : Nat) (e : Int) : Nat × Conds :=
  let s := if neg then 2 ^ (fmtBits f - 1) else 0
  if m = 0 then (s, 0) else
  let p := fmtFrac f + 1
  let emin : Int := 1 - (fmtBias f : Int)
  let (um, uq) := roundSig rm neg m e p none
  let big := decodeNum f (fmtMax f)
  let above := match big with
    | .fin _ bm be => magLt bm be um uq
    | _ => false
  if above then
    if fmtIeee f then
      if ovfToInf rm neg && !(sat && f = .e5m2) then (s + fmtInf f, cOverflow ||| cInexact)
      else (s + fmtMax f, cOverflow ||| cInexact)
    else if f = .e4m3 then
      if sat || !ovfToInf rm neg then (s + fmtMax f, cOverflow ||| cInexact)
      else (fmtNan f, cInvalid ||| cOverflow ||| cInexact)
    else (s + fmtMax f, cOverflow ||| cInexact)
  else
    let (dm, dq) := roundSig rm neg m e p (some (emin - (fmtFrac f : Int)))
    let inexact := !magEq m e dm dq
    let tiny := magLt um uq 1 emin
    (s + packMag f dm dq, (if inexact then cInexact else 0) ||| (if inexact && tiny then cUnderflow else 0))

/-- The integer range's ends. -/
def intMax (f : Fmt) : Int := 2 ^ (fmtBits f - 1) - 1
def intMin (f : Fmt) : Int := -(2 ^ (fmtBits f - 1))

/-- The two's-complement bits of an integer. -/
def intBits (f : Fmt) (v : Int) : Nat := (v % 2 ^ fmtBits f).toNat

/-- The clamp of an integer to the format's range. -/
def intClamp (f : Fmt) (v : Int) : Int := if v > intMax f then intMax f else if v < intMin f then intMin f else v

/-- A finite number rounded to an integer under RM. -/
def numToInt (rm : Nat) (neg : Bool) (m : Nat) (e : Int) : Int × Bool :=
  let (a, exact) := if 0 ≤ e then (m * 2 ^ e.toNat, true)
    else (shiftRound rm neg m (-e).toNat, decide (m % 2 ^ (-e).toNat = 0))
  (if neg then -(a : Int) else (a : Int), exact)

/-- The conversion of an exact value to a target format (R80, Table 3-4; a source's signalling NaN raises
FP_INVALID, R78). For an MX element's bits, see `packBlock`. -/
def convNum (f : Fmt) (rm : Nat) (sat : Bool) : Num → Nat × Conds
  | .nan sig =>
    if fmtInt f then (0, cInvalid) else (fmtNan f, if sig then cInvalid else 0)
  | .inf neg =>
    if fmtInt f then (intBits f (if neg then intMin f else intMax f), cInvalid)
    else if f = .e4m3 then (fmtNan f, cInvalid)
    else ((if neg then 2 ^ (fmtBits f - 1) else 0) + fmtInf f, 0)
  | .fin neg m e =>
    if fmtInt f then
      let (v, exact) := numToInt rm neg m e
      if v > intMax f ∨ v < intMin f then (intBits f (intClamp f v), cInvalid)
      else (intBits f v, if exact then 0 else cInexact)
    else roundFin f rm sat neg m e

/-- Whether a value is a NaN, a signalling NaN, a zero. -/
def isNan : Num → Bool
  | .nan _ => true | _ => false
def isSnan : Num → Bool
  | .nan b => b | _ => false
def isZero : Num → Bool
  | .fin _ 0 _ => true | _ => false
def isInf : Num → Bool
  | .inf _ => true | _ => false

/-- The sign bit of a value (a NaN counts as positive). -/
def numNeg : Num → Bool
  | .nan _ => false | .inf s => s | .fin s _ _ => s

/-- The same value with its sign inverted. -/
def negNum : Num → Num
  | .nan b => .nan b | .inf s => .inf (!s) | .fin s m e => .fin (!s) m e

/-- The integer ±m·2^(e - lo), for lo ≤ e. -/
def alignTo (neg : Bool) (m : Nat) (e lo : Int) : Int :=
  let a : Int := (m * 2 ^ (e - lo).toNat : Nat)
  if neg then -a else a

/-- The exact sum of two values and FP_INVALID (Table 5-6); an exact zero sum takes the sign the table gives under RM. -/
def addNum (rm : Nat) (a b : Num) : Num × Conds :=
  let snan := if isSnan a || isSnan b then cInvalid else 0
  match a, b with
  | .nan _, _ => (.nan false, snan)
  | _, .nan _ => (.nan false, snan)
  | .inf s, .inf t => if s = t then (.inf s, 0) else (.nan false, cInvalid)
  | .inf s, .fin _ _ _ => (.inf s, 0)
  | .fin _ _ _, .inf t => (.inf t, 0)
  | .fin s m e, .fin t n f =>
    let lo := if e ≤ f then e else f
    let v := alignTo s m e lo + alignTo t n f lo
    if v = 0 then
      if m = 0 ∧ n = 0 ∧ s = t then (.fin s 0 lo, 0) else (.fin (rm == 3) 0 lo, 0)
    else (.fin (decide (v < 0)) v.natAbs lo, 0)

/-- The exact product of two values and FP_INVALID (Table 5-6). -/
def mulNum (a b : Num) : Num × Conds :=
  let snan := if isSnan a || isSnan b then cInvalid else 0
  match a, b with
  | .nan _, _ => (.nan false, snan)
  | _, .nan _ => (.nan false, snan)
  | .inf s, .inf t => (.inf (s != t), 0)
  | .inf s, .fin t n _ => if n = 0 then (.nan false, cInvalid) else (.inf (s != t), 0)
  | .fin s m _, .inf t => if m = 0 then (.nan false, cInvalid) else (.inf (s != t), 0)
  | .fin s m e, .fin t n f => (.fin (s != t) (m * n) (e + f), 0)

/-- A × B + C exactly, before the one rounding (Table 5-6). -/
def fmaNum (rm : Nat) (a b c : Num) : Num × Conds :=
  let (p, f1) := mulNum a b
  let (r, f2) := addNum rm p c
  (r, f1 ||| f2)

/-- The floor of the square root, one bit at a time from bit `k` down. -/
def isqrtFrom (n : Nat) : Nat → Nat → Nat
  | 0, r => r
  | k + 1, r => let r' := r + 2 ^ k
    if r' * r' ≤ n then isqrtFrom n k r' else isqrtFrom n k r

/-- The floor of the square root. -/
def isqrt (n : Nat) : Nat := isqrtFrom n (Nat.log2 n / 2 + 1) 0

/-- A ÷ B, kept to more bits than any format with a sticky last bit (Table 5-6). -/
def divNum (a b : Num) : Num × Conds :=
  let snan := if isSnan a || isSnan b then cInvalid else 0
  match a, b with
  | .nan _, _ => (.nan false, snan)
  | _, .nan _ => (.nan false, snan)
  | .inf _, .inf _ => (.nan false, cInvalid)
  | .inf s, .fin t _ _ => (.inf (s != t), 0)
  | .fin s _ _, .inf t => (.fin (s != t) 0 0, 0)
  | .fin s m e, .fin t n f =>
    if n = 0 then (if m = 0 then (.nan false, cInvalid) else (.inf (s != t), cDivZero))
    else if m = 0 then (.fin (s != t) 0 0, 0)
    else
      let k := 128 + Nat.log2 n
      let q := m * 2 ^ k / n
      let r := m * 2 ^ k % n
      (.fin (s != t) (2 * q + (if r = 0 then 0 else 1)) (e - f - (k : Int) - 1), 0)

/-- The square root, kept likewise (Table 5-6). -/
def sqrtNum (a : Num) : Num × Conds :=
  match a with
  | .nan sig => (.nan false, if sig then cInvalid else 0)
  | .inf s => if s then (.nan false, cInvalid) else (.inf false, 0)
  | .fin s m e =>
    if m = 0 then (.fin s 0 e, 0)
    else if s then (.nan false, cInvalid)
    else
      let odd : Nat := if e % 2 = 0 then 0 else 1
      let n := m * 2 ^ (256 + odd)
      let q := isqrt n
      (.fin false (2 * q + (if q * q = n then 0 else 1)) ((e - (odd : Int)) / 2 - 128 - 1), 0)

/-- Rounds an exact result once, keeping the conditions already raised; a NaN result is the canonical one (R78). -/
def finish (f : Fmt) (rm : Nat) (x : Num × Conds) : Nat × Conds :=
  let (b, c) := convNum f rm false x.1
  (b, c ||| x.2)

/-- Order of two values that are not NaN, −0 below +0 when `zeros` (R124). -/
def numLt (zeros : Bool) (a b : Num) : Bool :=
  match a, b with
  | .inf s, .inf t => s && !t
  | .inf s, .fin _ _ _ => s
  | .fin _ _ _, .inf t => !t
  | .fin s m e, .fin t n f =>
    if m = 0 ∧ n = 0 then zeros && s && !t
    else
      let lo := if e ≤ f then e else f
      decide (alignTo s m e lo < alignTo t n f lo)
  | _, _ => false

/-! MX blocks (R81 to R83). -/

/-- The largest exponent of an element format (R82). -/
def emaxOf : Fmt → Int
  | .e4m3 => 8 | .e5m2 => 15 | .e3m2 => 4 | .e2m3 => 2 | .e2m1 => 2 | _ => 0

/-- An element under its block scale (R81). -/
def scaledNum (f : Fmt) (scale b : Nat) : Num :=
  if scale = 255 then .nan false
  else match decodeNum f b with
    | .fin s m e => .fin s m (e + (scale : Int) - 127)
    | x => x

/-- The packing of 32 source values into a block: the scale, the elements and the conditions (R82). -/
def packBlock (f : Fmt) (rm : Nat) (xs : List Num) : Nat × List Nat × List Conds :=
  let sig := xs.map (fun x => if isSnan x then cInvalid else 0)
  if xs.any (fun x => isNan x || isInf x) then (255, xs.map (fun _ => 0), sig)
  else
    let logs := xs.filterMap (fun x => match x with
      | .fin _ m e => if m = 0 then none else some (numLog m e)
      | _ => none)
    let e0 : Int := match logs with
      | [] => -127
      | l :: ls => ls.foldl (fun a b => if a < b then b else a) l - emaxOf f
    let e := if e0 < -127 then -127 else if e0 > 127 then 127 else e0
    let rs := xs.map (fun x => match x with
      | .fin s m ex => roundFin f rm true s m (ex - e)
      | _ => (0, 0))
    ((e + 127).toNat, rs.map (·.1), rs.map (·.2))

/-! The exact-sum accumulator (R85 to R89). -/

/-- An exact-sum accumulator: V in units of 2^anchor, the inputs added and the flags of Table 3-5. -/
structure Acc where
  v : Int
  count : Nat
  anchor : Int
  nan : Bool
  pinf : Bool
  ninf : Bool
  high : Bool
  low : Bool
  ovf : Bool
  poison : Bool
  mismatch : Bool
  deriving DecidableEq, Repr

/-- A fresh accumulator with the command's anchor (R85). -/
def Acc.fresh (l : Int) : Acc := ⟨0, 0, l, false, false, false, false, false, false, false, false⟩

/-- The 64-byte image of an accumulator (Table 3-5). -/
def Acc.image (a : Acc) : Nat :=
  (a.v % 2 ^ 320).toNat + (a.count % 2 ^ 32) * 2 ^ 320 + (a.anchor % 2 ^ 13).toNat * 2 ^ 352
    + b2n a.nan * 2 ^ 368 + b2n a.pinf * 2 ^ 369 + b2n a.ninf * 2 ^ 370 + b2n a.high * 2 ^ 371
    + b2n a.low * 2 ^ 372 + b2n a.ovf * 2 ^ 373 + b2n a.poison * 2 ^ 374 + b2n a.mismatch * 2 ^ 375

/-- The accumulator an image holds; reserved bits are ignored (R85). -/
def Acc.ofImage (b : Nat) : Acc :=
  { v := signedAt b 320, count := bitsAt b 320 32, anchor := signedAt (bitsAt b 352 13) 13,
    nan := bitAt b 368, pinf := bitAt b 369, ninf := bitAt b 370, high := bitAt b 371, low := bitAt b 372,
    ovf := bitAt b 373, poison := bitAt b 374, mismatch := bitAt b 375 }

/-- Adds one input: the accumulator and whether ES_LOW is raised (R86). -/
def Acc.add (a : Acc) (x : Num) (poisoned : Bool) : Acc × Bool :=
  if a.count = 2 ^ 32 - 1 then ({ a with ovf := true }, false)
  else
    let a := { a with count := a.count + 1, poison := a.poison || poisoned }
    match x with
    | .nan _ => ({ a with nan := true }, false)
    | .inf s => if s then ({ a with ninf := true }, false) else ({ a with pinf := true }, false)
    | .fin s (m : Nat) e =>
      if m ≠ 0 ∧ a.anchor + 287 ≤ numLog m e then ({ a with high := true }, false)
      else if a.anchor ≤ e then ({ a with v := a.v + alignTo s m e a.anchor }, false)
      else
        let k := (a.anchor - e).toNat
        let q : Int := ((shiftRound 0 s m k : Nat) : Int)
        ({ a with v := a.v + (if s then -q else q), low := a.low || decide (m % 2 ^ k ≠ 0) },
          decide (m % 2 ^ k ≠ 0))

/-- Combines two accumulators (R87). V is kept unbounded until it is rounded and taken modulo 2^320 in an image: sums of images that a program built by
hand can leave the range with no flag, of which the manual says nothing (DESIGN CHOICE, log entry 79). -/
def Acc.combine (a b : Acc) : Acc :=
  let above := decide (a.count + b.count > 2 ^ 32 - 1)
  let mis := decide (a.anchor ≠ b.anchor)
  { v := if above || mis then a.v else a.v + b.v
    count := if above then 2 ^ 32 - 1 else a.count + b.count
    anchor := a.anchor
    nan := a.nan || b.nan, pinf := a.pinf || b.pinf, ninf := a.ninf || b.ninf, high := a.high || b.high,
    low := a.low || b.low, ovf := a.ovf || b.ovf || above, poison := a.poison || b.poison,
    mismatch := a.mismatch || b.mismatch || mis }

/-- Whether rounding raises ES_RANGE (R88 rule 1). -/
def Acc.range (a : Acc) : Bool := a.high || a.ovf || a.mismatch

/-- The accumulator rounded once to binary64 or binary32 (R88). -/
def Acc.round (a : Acc) (f : Fmt) (rm : Nat) : Nat × Conds :=
  if a.nan || a.mismatch || a.high || a.ovf || (a.pinf && a.ninf) then
    (fmtNan f, if a.range then cInvalid else 0)
  else if a.pinf then (fmtInf f, 0)
  else if a.ninf then (2 ^ (fmtBits f - 1) + fmtInf f, 0)
  else if a.v = 0 then (0, 0)
  else roundFin f rm false (decide (a.v < 0)) a.v.natAbs a.anchor

/-! Sliced FP64 (R90 to R93). -/

/-- The floor of (n·2^ex) / 2^w + 1/2. -/
def halfUp (n : Int) (ex w : Int) : Int :=
  if w ≤ ex then n * 2 ^ (ex - w).toNat
  else (n + 2 ^ ((w - ex).toNat - 1)) / 2 ^ (w - ex).toNat

/-- The slices of one element r = n·2^ex from slice `i` on, and the residual discarded (R90). -/
def sliceFrom (e : Int) : Nat → Nat → Int → Int → List Int
  | 0, _, _, _ => []
  | k + 1, i, n, ex =>
    let w := e - 5 - 8 * (i : Int)
    let s := halfUp n ex w
    let lo := if ex ≤ w then ex else w
    s :: sliceFrom e k (i + 1) (n * 2 ^ (ex - lo).toNat - s * 2 ^ (w - lo).toNat) lo

/-- A split block: its exponent, its spread, and each element's slices (R90). -/
structure Split where
  e : Int
  spread : Int
  slices : List (List Int)
  deriving DecidableEq, Repr

/-- The split stage (R90). -/
def splitBlock (xs : List Num) (n : Nat) : Split :=
  let logs := xs.filterMap (fun x => match x with
    | .fin _ m e => if m = 0 then none else some (numLog m e)
    | _ => none)
  let e : Int := match logs with
    | [] => -1022
    | l :: ls => ls.foldl (fun a b => if a < b then b else a) l
  let lo : Int := match logs with
    | [] => e
    | l :: ls => ls.foldl (fun a b => if b < a then b else a) l
  { e := e, spread := e - lo
    slices := xs.map (fun x => match x with
      | .fin s m ex => sliceFrom e n 0 (if s then -(m : Int) else (m : Int)) ex
      | _ => List.replicate n 0) }

/-- The slice sum d(i, j) of a block pair (R91). -/
def sliceDot (a b : Split) (i j : Nat) : Int :=
  (List.zip a.slices b.slices).foldl (fun acc st => acc + st.1.getD i 0 * st.2.getD j 0) 0

/-- The pairs (i, j) with i + j ≤ n - 1 (R91). -/
def slicePairs (n : Nat) : List (Nat × Nat) :=
  (List.range n).flatMap (fun j => (List.range (n - j)).map (fun i => (i, j)))

/-- The recombination p of a block pair's slice sums, one for each pair of `slicePairs` (R91). -/
def recombine (n : Nat) (ds : List Int) : Int :=
  (List.zip (slicePairs n) ds).foldl (fun acc x => acc + x.2 * 2 ^ (8 * (2 * (n - 1) - x.1.1 - x.1.2))) 0

/-- The block-pair value, p·2^(e - 10 - 16(n - 1)), where e is the sum of the blocks' exponents (R91). -/
def blockPair (n : Nat) (p e : Int) : Num := .fin (decide (p < 0)) p.natAbs (e - 10 - 16 * ((n : Int) - 1))

/-- An integer whose bit `bit` has been inverted. -/
def flipInt (x : Int) (bit : Nat) : Int := if x / 2 ^ bit % 2 = 0 then x + 2 ^ bit else x - 2 ^ bit

/-- The magnitude of a value. -/
def absNum : Num → Num
  | .nan b => .nan b | .inf _ => .inf false | .fin _ m e => .fin false m e

/-- The mask of some bits of a word of `w` bits, one named twice standing for none. -/
def bitMask (w : Nat) (bits : List Nat) : Nat := bits.foldl (fun a b => a ^^^ 2 ^ (b % w)) 0

/-- An odd number of the low `w` bits of `n` are set. -/
def oddBits (w n : Nat) : Bool := ((List.range w).filter (bitAt n)).length % 2 == 1

/-- The contribution of a pair of non-finite elements (R92): NAN, PINF, NINF. -/
def nonFinite (a b : Num) : Option Num :=
  if isNan a || isNan b then some (.nan false)
  else if isInf a || isInf b then
    if isZero a || isZero b then some (.nan false) else some (.inf (numNeg a != numNeg b))
  else none

end Sys2Proof.Machine
end

