-- ==== Sys2Proof/Machine/Sparse.lean ====
section
/-! DEFINITION. Sparse maps: the one shape in which the state holds anything that is indexed by a number.
A map lists (key, value) pairs with keys strictly rising and no value equal to what an unlisted key reads as, so
that equal contents are equal data. The default is an argument of every operation, since it is a rule of the spec
(a register's Reset column, zero for a cleared memory) and not data. -/

namespace Sys2Proof.Machine

/-- A sparse map from numbers. With `α = Byte` it is the host's list of memory cells. -/
abbrev SMap (α : Type) := List (Nat × α)

/-- What key `k` reads as. -/
def smapGet {α : Type} (d : Nat → α) : SMap α → Nat → α
  | [], k => d k
  | (j, v) :: m, k => if j = k then v else smapGet d m k

/-- Drops the entry of key `k`. -/
def smapErase {α : Type} (m : SMap α) (k : Nat) : SMap α := m.filter (fun e => e.1 != k)

/-- Adds an entry in front of the first greater key. -/
def smapInsert {α : Type} : SMap α → Nat → α → SMap α
  | [], k, v => [(k, v)]
  | (j, w) :: m, k, v => if k < j then (k, v) :: (j, w) :: m else (j, w) :: smapInsert m k v

/-- Key `k` reads as `v` from now on. Writing what an unlisted key reads as removes the entry. -/
def smapPut {α : Type} [DecidableEq α] (d : Nat → α) (m : SMap α) (k : Nat) (v : α) : SMap α :=
  if v = d k then smapErase m k else smapInsert (smapErase m k) k v

/-- Drops the entries of every key that `p` picks: those keys read as the default again. -/
def smapDrop {α : Type} (m : SMap α) (p : Nat → Bool) : SMap α := m.filter (fun e => !p e.1)

/-- Every key of the list is above `lo`, and the keys rise. -/
def smapRising {α : Type} : Nat → SMap α → Bool
  | _, [] => true
  | lo, (k, _) :: m => decide (lo ≤ k) && smapRising (k + 1) m

/-- The canonical form: keys strictly rising and no entry equal to the default. -/
def smapWf {α : Type} [DecidableEq α] (d : Nat → α) (m : SMap α) : Bool :=
  smapRising 0 m && m.all (fun e => decide (e.2 ≠ d e.1))

/-- A set of numbers is a map to Bool with default false. -/
abbrev SSet := SMap Bool

/-- Whether `k` lies in the set. -/
def ssetHas (m : SSet) (k : Nat) : Bool := smapGet (fun _ => false) m k
/-- The set with `k` in it exactly when `b`. -/
def ssetSet (m : SSet) (k : Nat) (b : Bool) : SSet := smapPut (fun _ => false) m k b

/-- What an unlisted byte of a cleared memory reads as (02 R44, 06 R170). -/
def zeroByte (_ : Nat) : Byte := 0

/-- The `n` bytes from address `a`, least significant first, as a number. -/
def bytesGet (m : SMap Byte) (a : Nat) : Nat → Nat
  | 0 => 0
  | n + 1 => (smapGet zeroByte m a).toNat + 256 * bytesGet m (a + 1) n

/-- Stores the low `n` bytes of `v` from address `a` upward. -/
def bytesPut (m : SMap Byte) (a : Nat) : Nat → Nat → SMap Byte
  | 0, _ => m
  | n + 1, v => bytesPut (smapPut zeroByte m a (BitVec.ofNat 8 v)) (a + 1) n (v / 256)

/-- Applies `f` to the numbers `lo, lo + 1, ..., lo + n - 1` in turn. -/
def upto {σ : Type} (f : Nat → σ → σ) (lo : Nat) : Nat → σ → σ
  | 0, s => s
  | n + 1, s => upto f (lo + 1) n (f lo s)

end Sys2Proof.Machine
end

