-- ==== Sys2Proof/Machine/TileTypes.lean ====
section
/-! DEFINITION. What one tile holds (02, 04 to 07, 09, 11, 15): SRAM with its check, poison and eve bits, the
sequencer, the command queues, the operations in flight, the eve tags and ranges, the arrival tracker, the hazard
detector, the trace buffer and the register window. -/

namespace Sys2Proof.Machine

/-- A 64-byte line as it travels: its data and its poison marker (02 R43). -/
structure Line where
  data : LineBits
  poison : Bool
  deriving DecidableEq, Repr

/-- The zero line with the poison marker. -/
def Line.void : Line := ⟨0, true⟩
/-- The zero line without the marker. -/
def Line.zero : Line := ⟨0, false⟩

/-- An engine command in a command queue: its 128 bits, the word index of its first half, the scalar registers as
they stood when its second word decoded (02 R55), its nominal slot (02 R62), the slot at whose end it entered its queue (02 R53),
the eve range it belongs to and whether it is a re-executed command. -/
structure Cmd where
  bits : W128
  word : Nat
  sregs : SMap W64
  nominal : Nat
  entered : Nat
  range : Option Nat
  again : Bool
  deriving DecidableEq, Repr

/-- A fault record that the tile has raised and the FL block has yet to write: its class, its slot and the low half
of its DETAIL (14 Table 14-1). Empty between two steps. -/
structure Raised where
  cls : Nat
  slot : Nat
  detail : Nat
  injected : Bool
  deriving DecidableEq, Repr

/-- One operation in flight (02 R65): its command, its issue slot, its serial number on the tile, the cycles by which its writes stand behind their
earliest places (04 R107, 05 R129), the slot of its retirement, the end of its source phase, the operand lines it has read, by their place in its operand
order (a place not read holds the void line), the bits of the descriptors that its issue read, the units it has written of each destination, the upsets that
its datapath meets, the head and the pop count of its window queue at issue (05 R137), whether it has retired, and whether a masque corrupts it (14 Table 14-7). -/
structure Op where
  cmd : Cmd
  id : Nat
  issued : Nat
  shift : Nat
  retire : Nat
  srcEnd : Nat
  src : SMap Line
  descs : SMap Nat
  wrote : List Nat
  mx : List MxUpset
  vx : List VxUpset
  head0 : Nat
  pop0 : Nat
  retired : Bool
  injected : Bool
  deriving DecidableEq, Repr

/-- One use of a bank's engine port (02 R45). -/
structure Access where
  slot : Nat
  bank : Nat
  line : Nat
  eng : Engine
  isSrc : Bool
  queue : Option Nat
  deriving DecidableEq, Repr

/-- One open hardware loop: the first word of its body, the word after its body, and the passes left (02 R56). -/
structure LoopLevel where
  first : Nat
  stop : Nat
  left : Nat
  deriving DecidableEq, Repr

/-- What holds the sequencer (02 R53). A call names its routine, the slot in which it returns, the next of its engine
commands and what a remote-read service found in the READ line it popped (09 R240). -/
inductive SqHold where
  | free
  | barrier (b count : Nat)
  | full (eng : Engine)
  | call (routine until_ next : Nat) (read : List Nat)
  | entry
  deriving DecidableEq, Repr

/-- The sequencer: whether it fetches in this frame, whether its stream has ended, the slot in which the next word
decodes, that word's index, the loop levels from the innermost outward, and what holds it. -/
structure Seq where
  fetching : Bool
  ended : Bool
  at_ : Nat
  next : Nat
  loops : List LoopLevel
  hold : SqHold
  deriving DecidableEq, Repr

/-- One of the three engines: its command queue from the head on, the commands a re-execution has yet to issue (09 R251), the nominal slot of its last command in the frame,
its operations in flight in issue order, and the slot of its last issue. -/
structure Eng where
  queue : List Cmd
  redo : List Cmd
  last : Option Nat
  flight : List Op
  issuedAt : Option Nat
  deriving DecidableEq, Repr

/-- The states of an eve tag (09 Table 9-4). -/
inductive TagState where
  | free
  | eve
  | failed
  deriving DecidableEq, Repr

/-- One eve tag: its state and what its regular delivery recorded (09 R242); `owner` is the arrival entry of that delivery. -/
structure Tag where
  state : TagState
  queue : Nat
  first : Nat
  count : Nat
  owner : Nat
  deriving DecidableEq, Repr

/-- A queue's pointers and counts, as an eve range's OPEN records them (09 R248). -/
structure QSnap where
  head : Nat
  tail : Nat
  push : Nat
  pop : Nat
  deriving DecidableEq, Repr

/-- One range entry in use (09 R248 to R251): the first word after its OPEN, its descriptor's spans, the
register copy, the queue copies, the pending mask, whether it is closed and whether it has failed, the word of its
CLOSE, the loop depth of its OPEN, the net barrier counts and the queues its commands popped and pushed, and the slots
in which its first execution issued on each engine (15 R380), and each engine's last nominal slot at the OPEN. -/
structure Range where
  order : Nat
  first : Nat
  close : Nat
  closed : Bool
  failed : Bool
  mask : Nat
  spans : List (Nat × Nat)
  sregs : SMap W64
  queues : List QSnap
  depth : Nat
  net : SMap Int
  popped : SSet
  pushed : SSet
  live : Nat
  slots : SMap Nat
  bases : List Nat
  deriving DecidableEq, Repr

/-- One entry of the arrival tracker (06 R153): the queue, the ring position of the first reserved line, the number
of lines, the controller, the almanac's transfer there (none: the almanac has none for the request, and no line of it arrives), and which lines have been written. -/
structure Arrival where
  queue : Nat
  first : Nat
  count : Nat
  ctl : Nat
  xfer : Option Nat
  done : SSet
  deriving DecidableEq, Repr

/-- What the hazard detector keeps for a queue (07 R191): lines pushed or reserved and not popped, lines pushed or arrived and not popped, the ring
positions written since their last pop, those popped and not written since, and those reserved whose line has yet to arrive. -/
structure HzQueue where
  occ : Nat
  pushed : Nat
  written : SSet
  hist : SSet
  arriving : SSet
  deriving DecidableEq, Repr

/-- A trace record (15 Tables 15-3, 15-4). -/
structure TraceRec where
  frame : Nat
  slot : Nat
  tile : Nat
  kind : Nat
  eng : Nat
  data : Nat
  deriving DecidableEq, Repr

/-- A tile (02 R40). `now` is the slot the tile has reached in the running frame; `regs` is its register window
(02 R73 and the tables that extend it), keyed by offset; `again` is the range entry being re-executed and `saved` the scalar registers it
set aside (09 R251) when it began in slot `redoFrom`; `stop` is the slot after the last of its leap window (01 R20; 0 on a tile that the plan leaves out);
`signals` and `ovf` are the barriers signalled in the present slot and, of those signals, the ones that found a barrier at 65,535 (R68); `began` gives TAIL and push count at the
present slot's start for the queues that an arrival has moved in it (R45, 06 R155); `outbox` holds the source lines that MV has read and the mesh has yet to take, by operation and line; `mvHeld` says that MV's head has been held; `syncWait` is the time counter at the start of a vigil (11 R303). -/
structure Tile where
  regs : SMap W32
  mem : SMap Byte
  wrong : SMap (List Nat)
  poison : SSet
  eve : SSet
  sregs : SMap W64
  routes : SMap W32
  seq : Seq
  mx : Eng
  vx : Eng
  mv : Eng
  now : Nat
  stop : Nat
  ops : Nat
  signals : List Nat
  ovf : List Nat
  began : SMap (Option (Nat × Nat))
  outbox : List (Nat × Nat × Line)
  accesses : List Access
  dead : Bool
  withheld : Bool
  raised : List Raised
  tags : SMap Tag
  ranges : SMap (Option Range)
  openRange : Option Nat
  reexec : List Nat
  rangeCtr : Nat
  again : Option Nat
  saved : SMap W64
  redoFrom : Nat
  mvHeld : Bool
  tracker : List Arrival
  syncWait : Option W64
  frozen : Bool
  hz : SMap HzQueue
  hzFrame : Nat
  trace : List TraceRec
  slipFrom : Option Nat
  slipCause : Nat
  retired : Nat
  deriving DecidableEq, Repr

/-- The idle sequencer. -/
def Seq.idle : Seq := ⟨false, false, 0, 0, [], .free⟩
/-- An engine with nothing queued or in flight. -/
def Eng.idle : Eng := ⟨[], [], none, [], none⟩
/-- A free tag. -/
def Tag.free : Tag := ⟨.free, 0, 0, 0, 0⟩
/-- A queue the detector has seen nothing of. -/
def HzQueue.empty : HzQueue := ⟨0, 0, [], [], []⟩

/-- A tile after self-test: SRAM zero, no poison, no eve, nothing queued (02 R44). -/
def Tile.reset : Tile :=
  { regs := [], mem := [], wrong := [], poison := [], eve := [], sregs := [], routes := [], seq := .idle,
    mx := .idle, vx := .idle, mv := .idle, now := 0, stop := 0, ops := 0, signals := [], ovf := [], began := [],
    outbox := [], accesses := [], dead := false,
    withheld := false, raised := [], tags := [], ranges := [], openRange := none, reexec := [], rangeCtr := 0,
    again := none, saved := [], redoFrom := 0, mvHeld := false, tracker := [], syncWait := none, frozen := false, hz := [], hzFrame := 0, trace := [],
    slipFrom := none, slipCause := 0, retired := 0 }

end Sys2Proof.Machine
end

