-- ==== Sys2Proof/Machine/TileOps.lean ====
section
/-! DEFINITION. The shared operations on one tile: its register window, SRAM with its check code (02 R41 to R45), queues
(R48 to R50), barriers (R67, R68), the address generators (R70, R71), the eve rule on reads and writes (09 R244,
R245), the hazard detector (07 R191, R192), the event counters (15 R377) and the passing of slots (02 R63). -/

namespace Sys2Proof.Machine

/-! Register window. -/

def rTlId := 0x0
def rTlStatus := 0x4
def rTlInstr := 0x8
def rTlDesc := 0xC
def rTlScratch := 0x10
def rTlDelay := 0x14
def rTlSlip := 0x18
def rTlEccCe := 0x1C
def rTlEccUe := 0x20
def rTlEccLast := 0x24
def rTlPc := 0x28
def rTlInflight := 0x2C
def rTlBarrier (b : Nat) := 0x40 + 4 * b
def rTlQCfg (q : Nat) := 0x200 + 32 * q
def rTlQHist (q : Nat) := 0x204 + 32 * q
def rTlQPtr (q : Nat) := 0x208 + 32 * q
def rTlQPush (q : Nat) := 0x20C + 32 * q
def rTlQPop (q : Nat) := 0x210 + 32 * q
def rTlMxStatus := 0xA00
def rTlMxCheckCnt := 0xA04
def rTlMxSpreadCnt := 0xA08
def rTlMxLastCheck := 0xA0C
def rTlMxRetired := 0xA10
def rTlVxStatus := 0xB00
def rTlVxResidueCnt := 0xB04
def rTlVxWindowCnt := 0xB08
def rTlVxLastFault := 0xB0C
def rTlVxRetired := 0xB10
def rTlMvStatus := 0xC00
def rTlMvWaited := 0xC04
def rTlMvTrack := 0xC08
def rTlMvPoisonIn := 0xC0C
def rTlMvRetired := 0xC10
def rTlMeshStatus := 0xD00
def rTlMeshColl := 0xD04
def rTlMeshMisroute := 0xD08
def rTlMeshCross := 0xD0C
def rTlMeshLast := 0xD10
def rTlMeshLastSlot := 0xD14
def rTlMeshPad := 0xD20
def rTlHzStatus := 0xE00
def rTlHzCnt := 0xE04
def rTlHzFirst := 0xE08
def rTlHzFirstSlot := 0xE0C
def rTlEveStatus := 0xF00
def rTlEveReexec := 0xF04
def rTlEveReexecCyc := 0xF08
def rTlEveTags := 0xF0C
def rTlEveEntries := 0xF10
def rTlEveX := 0xF14
def rTlEveDead := 0xF18
def rTlEveEscape := 0xF1C
def rTlEvCnt (i : Nat) := 0x1000 + 4 * i
def rTlEvSel (i : Nat) := 0x1100 + 4 * i
def rTlLedger (e k : Nat) := 0x1200 + 64 * e + 8 * k
def rTlTraceCtrl := 0x1300
def rTlTraceLo := 0x1304
def rTlTraceHi := 0x1308
def rTlTraceCnt := 0x130C
def rTlTraceDrop := 0x1310

/-- The Reset column of the tile window (Table 2-7, Table 15-8): counter i counts event i, and the trace window is
open to every word; everything else is 0. -/
def tlReset (off : Nat) : W32 :=
  if 0x1100 ≤ off ∧ off < 0x1200 then BitVec.ofNat 32 ((off - 0x1100) / 4)
  else if off = rTlTraceHi then 0x1FFFF
  else 0

/-- A register of the tile window, as a number. -/
def Tile.get (tl : Tile) (off : Nat) : Nat := (smapGet tlReset tl.regs off).toNat

/-- Writes a register of the tile window. -/
def Tile.set (tl : Tile) (off v : Nat) : Tile := { tl with regs := smapPut tlReset tl.regs off (BitVec.ofNat 32 v) }

/-- Sets the bits of `mask`. -/
def Tile.orBits (tl : Tile) (off mask : Nat) : Tile := tl.set off (tl.get off ||| mask)

/-- Adds to a 32-bit counter, modulo 2^32 (00 R10). -/
def Tile.bump (tl : Tile) (off k : Nat) : Tile := tl.set off (tl.get off + k)

/-- Adds to (or, for a negative `k`, takes from) a 64-bit register pair. -/
def Tile.bump64 (tl : Tile) (off : Nat) (k : Int) : Tile :=
  let v : Int := (tl.get off : Int) + 2 ^ 32 * (tl.get (off + 4) : Int) + k
  let w := (v % 2 ^ 64).toNat
  (tl.set off w).set (off + 4) (w / 2 ^ 32)

/-- Status bits of TL_STATUS (Table 2-9). -/
def stRunning := 2 ^ 31
def stCommit := 2 ^ 30
def stAnchorMiss := 2 ^ 29
def stIllegal := 2 ^ 28
def stCollision := 2 ^ 27
def stAddrBound := 2 ^ 26
def stBarrierOvf := 2 ^ 25
def stSramUe := 2 ^ 24
def stPoisonScalar := 2 ^ 23
def stSlip := 2 ^ 22

/-- Whether TL_STATUS.COMMIT reads 1. -/
def Tile.committed (tl : Tile) : Bool := bitAt (tl.get rTlStatus) 30

/-! Event counters (15 R377, R378). -/

/-- Adds `k` events of `code` to counter `i`, and a carry into its chained partner. -/
def Tile.countAt (code k i : Nat) (tl : Tile) : Tile :=
  let sel := tl.get (rTlEvSel i)
  let chained := i % 2 = 1 ∧ bitAt sel 31
  if ¬ chained ∧ sel % 2 ^ 16 = code ∧ k ≠ 0 then
    let v := tl.get (rTlEvCnt i)
    let tl := tl.set (rTlEvCnt i) (v + k)
    if i % 2 = 0 ∧ bitAt (tl.get (rTlEvSel (i + 1))) 31 ∧ 2 ^ 32 ≤ v + k then
      tl.bump (rTlEvCnt (i + 1)) ((v + k) / 2 ^ 32)
    else tl
  else tl

/-- `k` events of `code` (Table 15-1), counted by every counter that selects it. -/
def Tile.event (tl : Tile) (code k : Nat) : Tile := upto (Tile.countAt code k) 0 64 tl

/-- Counts the conditions of `xs`, one element each (Table 3-3, codes 0x1C to 0x20). -/
def Tile.conds (tl : Tile) (xs : List Conds) : Tile :=
  upto (fun i tl => tl.event (0x1C + i) ((xs.filter (fun c => bitAt c i)).length)) 0 5 tl

/-! Faults. -/

/-- The tile raises a fault record (14 R356); a trace FAULT record follows from it at the flush. -/
def Tile.raiseInj (tl : Tile) (cls slot detail : Nat) (inj : Bool) : Tile :=
  { tl with raised := tl.raised ++ [⟨cls, slot, detail, inj⟩] }
def Tile.raise (tl : Tile) (cls slot detail : Nat) : Tile := tl.raiseInj cls slot detail false

/-- The engine's number in a DETAIL field (Table 14-1). -/
def engCode : Engine → Nat
  | .mx => 0 | .vx => 1 | .mv => 2 | .sq => 3

/-! Hazard detector (07 R190 to R192): it reports and changes nothing else, and only in debug mode. -/

/-- The running plan was loaded in debug mode. -/
def Tile.debug (tl : Tile) : Bool := bitAt (tl.get rTlHzStatus) 31

/-- Reports one hazard of the given kind (Table 7-3) on queue or barrier `x`. -/
def Tile.hazard (tl : Tile) (kind x : Nat) (eng : Engine) (slot : Nat) : Tile :=
  if tl.debug then
    let tl := (tl.bump rTlHzCnt 1).orBits rTlHzStatus (2 ^ (31 - kind))
    let tl := tl.event 0x35 1
    let tl := if tl.hzFrame = 0 then
      (tl.set rTlHzFirst (kind * 2 ^ 28 + x * 2 ^ 22 + engCode eng * 2 ^ 20)).set rTlHzFirstSlot slot else tl
    { tl with hzFrame := tl.hzFrame + 1 }
  else tl

/-- The commit flag is withheld for the frame: one that the tile has raised already falls (R23, R64, R68, R72; 07 R183). -/
def Tile.withhold (tl : Tile) : Tile := { tl.set rTlStatus (setBitsAt (tl.get rTlStatus) 30 1 0) with withheld := true }

/-- What the detector keeps for queue `q`. -/
def Tile.hzQ (tl : Tile) (q : Nat) : HzQueue := smapGet (fun _ => HzQueue.empty) tl.hz q
def Tile.setHzQ (tl : Tile) (q : Nat) (h : HzQueue) : Tile :=
  if tl.debug then { tl with hz := smapPut (fun _ => HzQueue.empty) tl.hz q h } else tl

/-! SRAM (02 R41 to R44). -/

/-- The 64 bytes of line `l` as written. -/
def Tile.lineData (tl : Tile) (l : Nat) : Nat := bytesGet tl.mem (64 * l) 64

/-- The wrong bits of a stored word: 0 to 63 data, 64 to 71 check bits. -/
def Tile.wrongOf (tl : Tile) (l w : Nat) : List Nat := smapGet (fun _ => []) tl.wrong (8 * l + w)

/-- The data a word's wrong bits turn into, applied to the line. -/
def flipBits (w : Nat) (bits : List Nat) (data : Nat) : Nat :=
  bits.foldl (fun d b => if b < 64 then d ^^^ 2 ^ (64 * w + b) else d) data

/-- The check of one word of a line that is being read (R43): the tile, the data and whether the word is
uncorrectable. On a line already poisoned an uncorrectable word raises no new fault. -/
def Tile.checkWord (slot l w : Nat) (tl : Tile) (data : Nat) : Tile × Nat × Bool :=
  let bad := tl.wrongOf l w
  let ce (tl : Tile) : Tile := (tl.bump rTlEccCe 1).event 0x18 1
  let ue (tl : Tile) : Tile :=
    if ssetHas tl.poison l then tl
    else (((tl.bump rTlEccUe 1).orBits rTlStatus stSramUe).set rTlEccLast (l * 2 ^ 17 + w)).event 0x19 1
      |>.raise 0x0101 slot (l + w * 2 ^ 16)
  match bad with
  | [] => (tl, data, false)
  | [_] => (ce tl, data, false)
  | [_, _] => (ue tl, flipBits w bad data, true)
  | _ =>
    match Config.eccMulti bad with
    | 0 => (tl, flipBits w bad data, false)
    | 1 => (ce tl, flipBits w [Config.eccMultiBit bad] (flipBits w bad data), false)
    | _ => (ue tl, flipBits w bad data, true)

/-- Checks the words of `mask` among the `k` words of a line from word `w` on. -/
def Tile.checkWords (slot l mask : Nat) : Nat → Nat → Tile → Nat → Tile × Nat × Bool
  | 0, _, tl, data => (tl, data, false)
  | k + 1, w, tl, data =>
    if bitAt mask w then
      let (tl, data, b) := tl.checkWord slot l w data
      let (tl, data, b') := Tile.checkWords slot l mask k (w + 1) tl data
      (tl, data, b || b')
    else Tile.checkWords slot l mask k (w + 1) tl data

/-- Reads the words of `mask` of line `l`: the data corrected, the poison marker when the line's poison bit is set or a
word is uncorrectable, which sets the poison bit (R43). -/
def Tile.readWords (tl : Tile) (slot l mask : Nat) : Tile × Line :=
  let (tl, data, ue) := Tile.checkWords slot l mask 8 0 tl (tl.lineData l)
  let p := ssetHas tl.poison l || ue
  ({ tl with poison := ssetSet tl.poison l p }, ⟨BitVec.ofNat 512 data, p⟩)

/-- Reads the whole of line `l`. -/
def Tile.readLine (tl : Tile) (slot l : Nat) : Tile × Line := tl.readWords slot l 255

/-- Stores the words of `mask` from `data` into line `l` (R42): a poisoned write sets the poison bit, and only a whole
good write clears it. -/
def Tile.writeLine (tl : Tile) (l mask data : Nat) (poison : Bool) : Tile :=
  let tl := upto (fun w tl =>
    if bitAt mask w then
      { tl with
        mem := bytesPut tl.mem (64 * l + 8 * w) 8 (bitsAt data (64 * w) 64)
        wrong := smapPut (fun _ => []) tl.wrong (8 * l + w) [] }
    else tl) 0 8 tl
  let tl := if poison then tl.event 0x1B 1 else tl
  if poison then { tl with poison := ssetSet tl.poison l true }
  else if mask % 256 = 255 then { tl with poison := ssetSet tl.poison l false }
  else tl

/-- The eve bit of line `l` (R42). -/
def Tile.eveBit (tl : Tile) (l : Nat) : Bool := ssetHas tl.eve l
def Tile.setEve (tl : Tile) (l : Nat) (b : Bool) : Tile := { tl with eve := ssetSet tl.eve l b }

/-! Bank ports (02 R45). -/

/-- An engine of the tile. -/
def Tile.eng (tl : Tile) : Engine → Eng
  | .mx => tl.mx | .vx => tl.vx | .mv => tl.mv | .sq => .idle
def Tile.setEng (tl : Tile) : Engine → Eng → Tile
  | .mx, e => { tl with mx := e }
  | .vx, e => { tl with vx := e }
  | .mv, e => { tl with mv := e }
  | .sq, _ => tl

/-- Two uses of one bank in one cycle that collide: VX's own reads of one line are shared (05 R130). -/
def accessClash (a b : Access) : Bool :=
  a.slot == b.slot && a.bank == b.bank && !(a.eng == .vx && b.eng == .vx && a.line == b.line && a.isSrc && b.isSrc)

/-- Records the collision of a losing access. -/
def Tile.collision (tl : Tile) (bank : Nat) (eng : Engine) (slot : Nat) : Tile :=
  ((tl.orBits rTlStatus stCollision).event 0x1A 1).raise 0x0102 slot (bank + engCode eng * 2 ^ 16)

/-- One access to a bank: the tile and whether the access loses. Accesses of one cycle come in the order of R45 and 06 R146: MV's arrival writes, which
are rows of their slot, then, as the cycle passes, MV's source reads, MX and VX. Of two arrival writes that meet in one bank, which the manual does not order, the
first row proceeds. DESIGN CHOICE (log 21). -/
def Tile.access (tl : Tile) (a : Access) : Tile × Bool :=
  if tl.accesses.any (accessClash a) then (tl.collision a.bank a.eng a.slot, true)
  else ({ tl with accesses := tl.accesses ++ [a] }, false)

/-! Queues (02 R48 to R50). -/

def Tile.qValid (tl : Tile) (q : Nat) : Bool := bitAt (tl.get (rTlQCfg q)) 31
def Tile.qDecoupled (tl : Tile) (q : Nat) : Bool := bitAt (tl.get (rTlQCfg q)) 30
def Tile.qBase (tl : Tile) (q : Nat) : Nat := bitsAt (tl.get (rTlQCfg q)) 16 14
def Tile.qDepth (tl : Tile) (q : Nat) : Nat := bitsAt (tl.get (rTlQCfg q)) 0 14 + 1
def Tile.qHist (tl : Tile) (q : Nat) : Nat := bitsAt (tl.get (rTlQHist q)) 0 14
def Tile.qHead (tl : Tile) (q : Nat) : Nat := bitsAt (tl.get (rTlQPtr q)) 16 14
def Tile.qTail (tl : Tile) (q : Nat) : Nat := bitsAt (tl.get (rTlQPtr q)) 0 14
def Tile.qPush (tl : Tile) (q : Nat) : Nat := tl.get (rTlQPush q)
def Tile.qPop (tl : Tile) (q : Nat) : Nat := tl.get (rTlQPop q)
def Tile.setPtr (tl : Tile) (q head tail : Nat) : Tile := tl.set (rTlQPtr q) (head * 2 ^ 16 + tail)

/-- The SRAM line of ring position `i` of queue `q`. -/
def Tile.qLine (tl : Tile) (q i : Nat) : Nat := tl.qBase q + i % tl.qDepth q

/-- Moves HEAD and the pop count on by `k` lines. -/
def Tile.advHead (tl : Tile) (q k : Nat) : Tile :=
  ((tl.setPtr q ((tl.qHead q + k) % tl.qDepth q) (tl.qTail q)).bump (rTlQPop q) k).event 0x12 k

/-- Moves TAIL on by `k` lines; a push also moves the push count. -/
def Tile.advTail (tl : Tile) (q k : Nat) : Tile := tl.setPtr q (tl.qHead q) ((tl.qTail q + k) % tl.qDepth q)
def Tile.advPush (tl : Tile) (q k : Nat) : Tile := ((tl.advTail q k).bump (rTlQPush q) k).event 0x13 k

/-- The detector's view of the pop of one line. -/
def Tile.hzPop (tl : Tile) (q : Nat) (eng : Engine) (slot : Nat) : Tile :=
  let h := tl.hzQ q
  let pos := tl.qHead q
  let tl := if h.pushed = 0 then tl.hazard 1 q eng slot else tl
  let tl := if ssetHas h.arriving pos then tl.hazard 2 q eng slot else tl
  tl.setHzQ q { h with
    occ := h.occ - 1, pushed := if ssetHas h.arriving pos then h.pushed else h.pushed - 1, hist := ssetSet h.hist pos true,
    written := ssetSet h.written pos false, arriving := ssetSet h.arriving pos false }

/-- The detector's view of lines pushed (`arrived`) or reserved at the tail. -/
def Tile.hzPush (tl : Tile) (q : Nat) (eng : Engine) (slot : Nat) (arrived : Bool) : Tile :=
  let h := tl.hzQ q
  let pos := tl.qTail q
  let tl := if tl.qDepth q - tl.qHist q < h.occ + 1 then tl.hazard 3 q eng slot else tl
  tl.setHzQ q { h with
    occ := h.occ + 1, pushed := h.pushed + b2n arrived, written := ssetSet h.written pos arrived, hist := ssetSet h.hist pos false,
    arriving := ssetSet h.arriving pos (!arrived) }

/-- An arrival of the present slot has moved queue `q`: where its TAIL and its push count stood as the slot began is kept. -/
def Tile.arriving (tl : Tile) (q : Nat) : Tile :=
  match smapGet (fun _ => none) tl.began q with
  | some _ => tl
  | none => { tl with began := smapPut (fun _ => none) tl.began q (some (tl.qTail q, tl.qPush q)) }

/-- The push count of queue `q` at the end of the slot before. -/
def Tile.qPushSeen (tl : Tile) (q : Nat) : Nat := match smapGet (fun _ => none) tl.began q with
  | some x => x.2
  | none => tl.qPush q

/-- The tile with every queue's TAIL where it stood as the slot began: the accesses of one cycle take the queues' ends from there (R45). -/
def Tile.heads (tl : Tile) : Tile := tl.began.foldl (fun tl e => match e.2 with
  | some x => tl.setPtr e.1 (tl.qHead e.1) x.1
  | none => tl) tl

/-! Barriers (02 R67, R68). -/

def Tile.barrier (tl : Tile) (b : Nat) : Nat := tl.get (rTlBarrier b)

/-- How often barrier `b` stands in a list of signals. -/
def timesIn (b : Nat) (l : List Nat) : Nat := (l.filter (· == b)).length

/-- The value a waiter in the current slot sees: what the barrier held at the end of the slot before, less what waits have taken in this one. -/
def Tile.barrierSeen (tl : Tile) (b : Nat) : Nat := tl.barrier b + timesIn b tl.ovf - timesIn b tl.signals

/-- A signal adds 1 (R67). One that finds the barrier at 65,535 waits for the end of the slot, since a wait of the same slot counts together with it (R68). -/
def Tile.signal (tl : Tile) (b : Nat) : Tile :=
  let tl := { tl.event 0x11 1 with signals := b :: tl.signals }
  if tl.barrier b < 65535 then tl.set (rTlBarrier b) (tl.barrier b + 1) else { tl with ovf := b :: tl.ovf }

/-- A wait subtracts its count in the cycle it issues or releases (R67), together with the signals of that cycle (R68). -/
def Tile.consume (tl : Tile) (b : Nat) : Nat → Tile
  | 0 => tl
  | k + 1 =>
    let tl := if tl.ovf.contains b then { tl with ovf := tl.ovf.erase b } else tl.set (rTlBarrier b) (tl.barrier b - 1)
    tl.consume b k

/-- The end of a slot: a signal that would still carry its barrier past 65,535 leaves it there, sets BARRIER_OVF and withholds the commit flag (R68). -/
def Tile.settle (tl : Tile) : Tile :=
  { tl.ovf.foldl (fun tl b => ((tl.orBits rTlStatus stBarrierOvf).raise 0x0107 tl.now b).withhold) tl with ovf := [], signals := [] }

/-! Scalar registers. -/

def Tile.s (tl : Tile) (i : Nat) : W64 := smapGet (fun _ => 0) tl.sregs i
def Tile.setS (tl : Tile) (i : Nat) (v : W64) : Tile := { tl with sregs := smapPut (fun _ => 0) tl.sregs i v }

/-! Command fields (Table 2-4). -/

def Cmd.f (c : Cmd) (lo len : Nat) : Nat := bitsAt c.bits.toNat lo len
def Cmd.anchored (c : Cmd) : Bool := c.bits.toNat.testBit 124
def Cmd.gap (c : Cmd) : Nat := c.f 112 12
def Cmd.waitEn (c : Cmd) : Bool := c.bits.toNat.testBit 111
def Cmd.waitB (c : Cmd) : Nat := c.f 107 4
def Cmd.waitCnt (c : Cmd) : Nat := c.f 104 3
def Cmd.sigEn (c : Cmd) : Bool := c.bits.toNat.testBit 103
def Cmd.sigB (c : Cmd) : Nat := c.f 99 4
def Cmd.op (c : Cmd) : Nat := c.f 96 3
/-- An S register as the command read it at dispatch (R55). -/
def Cmd.s (c : Cmd) (i : Nat) : Nat := (smapGet (fun _ => (0 : W64)) c.sregs i).toNat
/-- A 6-bit offset field: 0, or the named register's value as a signed number (R70). -/
def Cmd.offset (c : Cmd) (lo : Nat) : Int :=
  if bitAt (c.f lo 6) 5 then signedAt (c.s (c.f lo 5)) 64 else 0

/-! Address generators (02 R70, R71). -/

/-- The element size in bits that an ESIZE code names. -/
def esizeBits (e : Nat) : Nat := 4 * 2 ^ e

/-- The SRAM line of descriptor `d` (Table 2-5). -/
def Tile.descLine (tl : Tile) (d : Nat) : Nat := bitsAt (tl.get rTlDesc) 17 14 + d

/-- Descriptor `d` of the descriptor region, checked as any read is (R43). A poisoned line is used as it is delivered. DESIGN CHOICE (log 68). -/
def Tile.desc (tl : Tile) (d : Nat) : Nat := (tl.readLine 0 (tl.descLine d)).2.data.toNat

/-- Reads the descriptors that a command names, in the slot of its issue (log 68): the tile and their bits. -/
def Tile.readDescs (tl : Tile) (slot : Nat) : List Nat → Tile × SMap Nat
  | [] => (tl, [])
  | d :: ds =>
    let (tl, l) := tl.readLine slot (tl.descLine d)
    let (tl, m) := tl.readDescs slot ds
    (tl, smapPut (fun _ => 0) m d l.data.toNat)

/-- The number of lines of the descriptor region. -/
def Tile.descLines (tl : Tile) : Nat := bitsAt (tl.get rTlDesc) 0 15

/-- The iterations of level `l`. -/
def descCount (d l : Nat) : Nat := if l < bitsAt d 410 3 then bitsAt d (64 * l + 32) 20 + 1 else 1

/-- The walk's length. -/
def descLength (d : Nat) : Nat := (List.range 6).foldl (fun a l => a * descCount d l) 1

/-- The element index of walk address `i`, level 0 innermost. -/
def descElem (d : Nat) (off : Int) (i : Nat) : Int :=
  ((List.range 6).foldl (fun (a : Int × Nat) l =>
    (a.1 + ((a.2 % descCount d l : Nat) : Int) * signedAt (bitsAt d (64 * l) 32) 32, a.2 / descCount d l))
    ((bitsAt d 416 32 : Int) + off, i)).1

/-- The byte address of walk address `i` when it passes the checks of R71 for a unit of `width` bytes. -/
def descByte (d : Nat) (off : Int) (i width : Nat) : Option Nat :=
  let byte := descElem d off i * (esizeBits (bitsAt d 413 3) : Int) / 8
  if byte < 0 ∨ descLength d ≤ i then none
  else
    let b := byte.toNat
    if b % width = 0 ∧ 64 * bitsAt d 466 14 ≤ b ∧ b + width ≤ 64 * (bitsAt d 482 14 + 1) then some b else none

/-- A unit that fails R71. -/
def Tile.addrBound (tl : Tile) (d : Nat) (eng : Engine) (slot : Nat) : Tile :=
  ((tl.orBits rTlStatus stAddrBound).event 0x27 1).raise 0x0103 slot (d + engCode eng * 2 ^ 16)

/-! The eve rule (09 R244, R245). -/

/-- An ESCAPE: the line is replaced by the void line and recorded. -/
def Tile.escape (tl : Tile) (slot word : Nat) : Tile :=
  (((tl.orBits rTlEveStatus (2 ^ 31)).bump rTlEveEscape 1).event 0x32 1).raise 0x010D slot word

/-- A HOLD: the write of a range's command outside its spans is refused. -/
def Tile.holdLine (tl : Tile) (slot l : Nat) : Tile :=
  (((tl.orBits rTlEveStatus (2 ^ 30)).bump rTlEveEscape 1).event 0x32 1).raise 0x010E slot l

/-- Range entry `e`, if in use. -/
def Tile.range (tl : Tile) (e : Nat) : Option Range := smapGet (fun _ => none) tl.ranges e
def Tile.setRange (tl : Tile) (e : Nat) (r : Option Range) : Tile :=
  { tl with ranges := smapPut (fun _ => none) tl.ranges e r }
def Tile.modRange (tl : Tile) (e : Nat) (f : Range → Range) : Tile :=
  match tl.range e with
  | none => tl
  | some r => tl.setRange e (some (f r))

/-- Whether line `l` lies in one of the spans. -/
def inSpans (spans : List (Nat × Nat)) (l : Nat) : Bool := spans.any (fun p => p.1 ≤ l && l ≤ p.2)

/-- Reads one engine-port line for command `c` in slot `slot`; the last component says whether the access lost its bank. -/
def Tile.engRead (tl : Tile) (c : Cmd) (eng : Engine) (slot l : Nat) (q : Option Nat) : Tile × Line × Bool :=
  let (tl, lost) := tl.access ⟨slot, l % 32, l, eng, true, q⟩
  if lost then (tl, .void, true)
  else
    let tl := tl.event 0x15 1
    let (tl, v) := tl.readLine slot l
    if tl.eveBit l then
      match c.range with
      | some _ => (tl.event 0x2C 1, v, false)
      | none => (tl.escape slot c.word, .void, false)
    else (tl, v, false)

/-- A range's command records the queue that it pops (09 R251). -/
def Tile.notePop (tl : Tile) (c : Cmd) (q : Nat) : Tile := match c.range with
  | none => tl
  | some r => tl.modRange r (fun x => { x with popped := ssetSet x.popped q true })

/-- A range's command records the queue that it pushes (09 R251). -/
def Tile.notePush (tl : Tile) (c : Cmd) (q : Nat) : Tile := match c.range with
  | none => tl
  | some r => tl.modRange r (fun x => { x with pushed := ssetSet x.pushed q true })

/-- Pops one line of queue `q` for command `c` (R45, R48), `k` lines behind the head that the queue had in `heads`. -/
def Tile.popLine (tl heads : Tile) (c : Cmd) (eng : Engine) (slot q k : Nat) : Tile × Line :=
  let (tl, v, lost) := tl.engRead c eng slot (tl.qLine q (heads.qHead q + k)) (some q)
  let tl := tl.notePop c q
  if lost then (tl, v) else ((tl.hzPop q eng slot).advHead q 1, v)

/-- Descriptor `d` as the operation's issue read it. -/
def Op.desc (o : Op) (d : Nat) : Nat := smapGet (fun _ => 0) o.descs d

/-- Reads one scratch unit of `width` bytes at walk address `i` of descriptor `d` for operation `o` (R70, R71). -/
def Tile.scratchUnit (tl : Tile) (o : Op) (eng : Engine) (slot d : Nat) (off : Int) (i width : Nat) : Tile × Line :=
  match descByte (o.desc d) off i width with
  | none => (tl.addrBound d eng slot, .void)
  | some b =>
    let (tl, v, _) := tl.engRead o.cmd eng slot (b / 64) none
    (tl, v)

/-- Writes the words of `mask` of line `l` for command `c` (R45, R244, R245). -/
def Tile.engWrite (tl : Tile) (c : Cmd) (slot l mask data : Nat) (poison : Bool) : Tile :=
  match c.range with
  | none => (tl.event 0x16 1).writeLine l mask data poison
  | some e =>
    match tl.range e with
    | none => (tl.event 0x16 1).writeLine l mask data poison
    | some r =>
      if inSpans r.spans l then ((tl.event 0x16 1).writeLine l mask data poison).setEve l true
      else tl.holdLine slot l

/-- The operand line at place `i` of an operation. -/
def Op.line (o : Op) (i : Nat) : Line := smapGet (fun _ => Line.void) o.src i
def Op.setLine (o : Op) (i : Nat) (v : Line) : Op := { o with src := smapPut (fun _ => Line.void) o.src i v }

/-- Claims the bank of line `l` for a write of `eng` in slot `slot`: the tile and whether it loses. -/
def Tile.claim (tl : Tile) (eng : Engine) (slot l : Nat) : Tile × Bool := tl.access ⟨slot, l % 32, l, eng, false, none⟩

/-- Pushes the words of `mask` at the tail that queue `q` had in `heads` (R48, R188): nothing is written where the write loses its bank. -/
def Tile.pushUnit (tl heads : Tile) (c : Cmd) (eng : Engine) (slot q mask data : Nat) (poison : Bool) : Tile :=
  let l := tl.qLine q (heads.qTail q)
  let (tl, lost) := (tl.notePush c q).claim eng slot l
  if lost then tl else ((tl.hzPush q eng slot true).engWrite c slot l mask data poison).advPush q 1

/-- Writes the words of `mask` into scratch, at walk address `i` of descriptor `d`. -/
def Tile.storeUnit (tl : Tile) (o : Op) (eng : Engine) (slot d : Nat) (off : Int) (i mask data : Nat) (poison : Bool) : Tile :=
  match descByte (o.desc d) off i 64 with
  | none => tl.addrBound d eng slot
  | some b =>
    let (tl, lost) := tl.claim eng slot (b / 64)
    if lost then tl else tl.engWrite o.cmd slot (b / 64) mask data poison

/-- Runs `f` on every operation of a list in turn. -/
def eachOp (f : Op → Tile → Tile × Op) : List Op → Tile → Tile × List Op
  | [], tl => (tl, [])
  | o :: os, tl =>
    let (tl, o) := f o tl
    let (tl, os) := eachOp f os tl
    (tl, o :: os)

/-! The passing of slots (02 R63, 15 R379). -/

/-- The slot from which the head command of an engine is due, when it is one that D can move. -/
def Tile.dueOf (tl : Tile) (eng : Engine) : Option Nat :=
  match (tl.eng eng).queue with
  | [] => none
  | c :: _ => if c.anchored then none else some (c.nominal + tl.get rTlDelay + tl.get rTlEveX)

/-- The earliest of the three due slots. -/
def Tile.dueMin (tl : Tile) : Option Nat :=
  ([Engine.mx, .vx, .mv].filterMap tl.dueOf).foldl (fun a d => match a with
    | none => some d
    | some b => some (if d < b then d else b)) none

/-- What holds the head command of an engine: the ledger account (Table 15-2) and the trace cause (Table 15-4). -/
def Tile.heldBy (tl : Tile) (eng : Engine) : Nat × Nat :=
  match (tl.eng eng).queue with
  | [] => (2, 4)
  | c :: _ =>
    if c.waitEn && decide (tl.barrierSeen c.waitB < c.waitCnt) then (3, 1)
    else if eng = .mv ∧ c.op = 6 then (4, 2)
    else if eng = .mv ∧ c.op = 7 ∧ c.f 93 3 = 3 then (4, 3)
    else (5, 5)

/-- The ledger's engine number. -/
def ledgerEng : Engine → Nat
  | .mx => 0 | .vx => 1 | _ => 2

/-- How many of the slots `lo` to `hi - 1` lie below `a`. -/
def below (lo hi a : Nat) : Nat := (if hi < a then hi else a) - lo

/-- Charges `k` slots of an engine to an account (15 R379, R381). -/
def Tile.charge (tl : Tile) (eng : Engine) (acct : Nat) (k : Int) : Tile :=
  if k = 0 then tl else tl.bump64 (rTlLedger (ledgerEng eng) acct) k

/-- Charges an engine's slots from `now` to `t - 1`, of which those from `s` on were held when its head was due. Slots
counted in X in which nothing is due are REWORK (Table 15-2). -/
def Tile.chargeSpan (alen t s : Nat) (eng : Engine) (tl : Tile) : Tile :=
  let lo := if (tl.eng eng).issuedAt = some tl.now then tl.now + 1 else tl.now
  let held := match tl.dueOf eng with
    | none => false
    | some d => decide (d ≤ s ∧ s < t)
  let hs := if held then (if s < lo then lo else s) else t
  let (acct, _) := tl.heldBy eng
  let tl := tl.charge eng acct (below hs t alen)
  let tl := tl.charge eng (if tl.again.isSome then 1 else 0) (below lo hs alen)
  if held then
    match acct with
    | 3 => tl.event 0x10 (t - hs)
    | 4 => tl.event (if (tl.heldBy eng).2 = 2 then 0x0E else 0x0F) (t - hs)
    | _ => tl
  else tl

/-- Emits a trace record when the tile's trace control selects its kind (15 R382). -/
def Tile.emit (tl : Tile) (n frame kind eng slot data : Nat) : Tile :=
  let ctl := tl.get rTlTraceCtrl
  if bitAt ctl 31 && bitAt ctl kind then
    if tl.trace.length < 64 then
      (({ tl with trace := tl.trace ++ [TraceRec.mk frame slot n kind eng data] } : Tile).bump rTlTraceCnt 1).event 0x36 1
    else (tl.bump rTlTraceDrop 1).event 0x37 1
  else tl

/-- The trace record of a run of slips that ends before slot `t` (Table 15-4). -/
def Tile.endSlip (tl : Tile) (n frame t : Nat) : Tile :=
  match tl.slipFrom with
  | none => tl
  | some a =>
    { (tl.emit n frame 3 (engCode .sq) t (a + (t - a) * 2 ^ 32 + tl.slipCause * 2 ^ 64)) with slipFrom := none }

/-- The engine whose due command makes D grow first, for the slip's cause. -/
def Tile.slipEng (tl : Tile) (d : Nat) : Engine :=
  if tl.dueOf .mv = some d then .mv else if tl.dueOf .mx = some d then .mx else .vx

/-- D grows by `k` cycles: TL_DELAY, TL_SLIP_CNT and TL_STATUS.SLIP (R63). -/
def Tile.slip (tl : Tile) (k : Nat) : Tile :=
  if k = 0 then tl
  else (((tl.set rTlDelay (tl.get rTlDelay + k)).bump rTlSlip k).orBits rTlStatus stSlip).event 0x05 k

/-- The trace's view of a stretch of slots: D grew from `s` on, or not at all when `s = t`. -/
def Tile.traceSlip (tl : Tile) (n frame s t : Nat) : Tile :=
  let cause := (tl.heldBy (tl.slipEng (tl.dueMin.getD 0))).2
  if s = t then tl.endSlip n frame tl.now
  else
    match tl.slipFrom with
    | some _ =>
      if s = tl.now then tl
      else { tl.endSlip n frame tl.now with slipFrom := some s, slipCause := cause }
    | none => { tl with slipFrom := some s, slipCause := cause }

/-- Counts `k` cycles in X (09 R252). -/
def Tile.countX (tl : Tile) (k : Nat) : Tile :=
  ((tl.set rTlEveX (tl.get rTlEveX + k)).bump rTlEveReexecCyc k).event 0x31 k

end Sys2Proof.Machine
end

