-- ==== Sys2Proof/Machine/Legal.lean ====
section
/-! DEFINITION. Which engine commands are legal on a tile: the common fields (02 R61, Table 2-4), MX (04 R98), VX (05 R119 to
R122, R126), MV (06 R143, R144) and MV.SYNC (11 R295). A command that fails is an illegal instruction (02 Table 2-6). -/

namespace Sys2Proof.Machine

/-- A queue that a command may name. -/
def Tile.qOk (tl : Tile) (q : Nat) : Bool := tl.qValid q
/-- A descriptor inside the tile's descriptor region. -/
def Tile.adOk (tl : Tile) (d : Nat) : Bool := decide (d < tl.descLines)

/-- An anchor of the exact-sum accumulator (03 R85). -/
def anchorOk (a : Int) : Bool := decide (-2400 ≤ a ∧ a ≤ 2100)

/-! MX (04 Tables 4-1 to 4-3). -/

/-- A 7-bit MX operand specifier. -/
def Tile.mxSpecOk (tl : Tile) (s : Nat) : Bool := if bitAt s 6 then tl.qOk (s % 64) else tl.adOk (s % 64)

/-- The scale fields of an MX command whose mode has scales. -/
def mxScaled (mode : Nat) : Bool := decide (1 ≤ mode ∧ mode ≤ 3)

/-- The anchor of MX.MMS (Table 4-2). -/
def mxAnchor (b : Nat) : Int := signedAt (bitsAt b 29 13) 13

/-- R98. -/
def mxLegal (tl : Tile) (b : Nat) : Bool :=
  let mode := bitsAt b 92 4
  let asub := bitsAt b 91 1
  let bsub := bitsAt b 90 1
  let cfmt := bitsAt b 87 3
  let rm := bitsAt b 85 2
  let sat := bitsAt b 84 1
  let sp := bitsAt b 83 1
  let specs := tl.mxSpecOk (bitsAt b 56 7) && tl.mxSpecOk (bitsAt b 49 7) && tl.mxSpecOk (bitsAt b 42 7)
  let cOk := !(bitAt b 48 && tl.qDecoupled (bitsAt b 42 6))
  match bitsAt b 96 3 with
  | 0 => bitsAt b 0 96 == 0
  | 1 =>
    decide (mode ≤ 5) && !((mode == 3 || mode == 5) && (asub + bsub != 0)) && decide (cfmt ≤ 4)
      && (sat == 0 || cfmt == 3 || cfmt == 4) && sp == 0
      && (if mxScaled mode then tl.mxSpecOk (bitsAt b 35 7) && tl.mxSpecOk (bitsAt b 28 7) else bitsAt b 28 14 == 0)
      && bitsAt b 0 10 == 0 && specs && cOk
  | 2 =>
    (mode == 8 || mode == 9) && asub + bsub == 0 && cfmt == 0 && rm == 0 && sat == 0 && sp == 0
      && bitsAt b 28 14 == 0 && bitsAt b 0 10 == 0 && specs && cOk
  | 3 =>
    mode == 15 && bsub == 0 && (cfmt == 0 || cfmt == 5) && sat == 0 && decide (bitsAt b 75 8 ≤ 31)
      && anchorOk (mxAnchor b) && bitsAt b 28 1 == 0 && bitsAt b 0 10 == 0 && specs && cOk
  | _ => false

/-! VX (05 Tables 5-2 to 5-4). -/

/-- The kind of an 8-bit operand specifier. -/
def specKind (s : Nat) : Nat := bitsAt s 6 2
/-- The queue, descriptor or register it names. -/
def specIdx (s : Nat) : Nat := bitsAt s 0 6

/-- A queue that a VX command may name (R121, R122). -/
def Tile.vxQueueOk (tl : Tile) (q : Nat) : Bool :=
  tl.qOk q && tl.qBase q % 4 == 0 && tl.qDepth q % 8 == 0 && tl.qHist q % 8 == 0

/-- A specifier with its 6-bit offset field, as a source. -/
def Tile.vxSrcOk (tl : Tile) (s off : Nat) : Bool :=
  match specKind s with
  | 0 => tl.vxQueueOk (specIdx s) && !bitAt off 5
  | 1 => tl.adOk (specIdx s)
  | 2 => tl.vxQueueOk (specIdx s) && bitAt off 5
  | _ => !bitAt s 5

/-- A specifier as a destination. -/
def Tile.vxDstOk (tl : Tile) (s off : Nat) : Bool :=
  match specKind s with
  | 0 => tl.vxQueueOk (specIdx s) && !bitAt off 5 && !tl.qDecoupled (specIdx s)
  | 1 => tl.adOk (specIdx s)
  | _ => false

/-- The popped queues among some sources are different. -/
def popsDistinct (ss : List Nat) : Bool :=
  let qs := (ss.filter (fun s => specKind s == 0)).map specIdx
  decide qs.Nodup

/-- Every window's queue is popped by another operand of the command. -/
def windowsPopped (ss : List Nat) : Bool :=
  ss.all (fun s => specKind s != 2 || ss.any (fun t => specKind t == 0 && specIdx t == specIdx s))

/-- Whether VX.EW function `fn` reads B, and whether it reads C (Table 5-5). -/
def ewUsesB (fn : Nat) : Bool := !(fn == 0 || fn == 8 || fn == 0xD || fn == 0xE)
def ewUsesC (fn : Nat) : Bool := (4 ≤ fn && fn ≤ 6) || fn == 0x14

/-- The formats Table 5-5 allows a function. -/
def ewFmtOk (fn fmt : Nat) : Bool :=
  if fn ≤ 3 then fmt ≤ 5
  else if fn ≤ 8 then fmt ≤ 3
  else if fn ≤ 0xA then fmt ≤ 5
  else if fn ≤ 0xF then fmt ≤ 3
  else if fn ≤ 0x12 then fmt ≤ 5
  else if fn == 0x13 then fmt ≤ 3
  else if fn ≤ 0x18 then fmt ≤ 5
  else if fn ≤ 0x1B then fmt == 4 || fmt == 5
  else false

/-- The formats Table 5-8 allows a reduction. -/
def redFmtOk (fn fmt tfmt : Nat) : Bool :=
  match fn with
  | 0 => ((fmt == 0 || fmt == 1) && tfmt == fmt) || ((fmt == 4 || fmt == 5) && tfmt == 4)
  | 1 | 2 => fmt ≤ 5 && tfmt == fmt
  | 3 => fmt ≤ 3 && tfmt == fmt
  | 4 => (fmt == 0 || fmt == 1) && (tfmt == 0 || tfmt == 1 || tfmt == 0xE)
  | 5 => fmt == 0xE && (tfmt == 0 || tfmt == 1 || tfmt == 0xE)
  | _ => false

/-- R122, R126. VX.STN whose A is no window or whose B is no scratch operand is illegal here; R122 does not list it (DESIGN CHOICE, log entry 78). -/
def vxLegal (tl : Tile) (b : Nat) : Bool :=
  let fn := bitsAt b 91 5
  let fmt := bitsAt b 87 4
  let tfmt := bitsAt b 83 4
  let rm := bitsAt b 81 2
  let sat := bitsAt b 80 1
  let sa := bitsAt b 72 8
  let sb := bitsAt b 64 8
  let sd := bitsAt b 56 8
  let sc := bitsAt b 48 8
  let se := bitsAt b 40 8
  let aoff := bitsAt b 18 6
  match bitsAt b 96 3 with
  | 0 => bitsAt b 0 96 == 0
  | 1 =>
    let srcs := [sa] ++ (if ewUsesB fn then [sb] else []) ++ (if ewUsesC fn then [sc] else [])
    ewFmtOk fn fmt && tfmt == 0 && (sat == 0 || ((fmt == 4 || fmt == 5) && 1 ≤ fn && fn ≤ 3))
      && tl.vxSrcOk sa aoff
      && (if ewUsesB fn then tl.vxSrcOk sb (bitsAt b 12 6) else sb == 0)
      && (if ewUsesC fn then tl.vxSrcOk sc (bitsAt b 6 6) else sc == 0)
      && tl.vxDstOk sd (bitsAt b 0 6) && se == 0 && popsDistinct srcs && windowsPopped srcs
  | 2 =>
    let conv := fn == 0 && fmt ≤ 8 && tfmt ≤ 8 && (sat == 0 || tfmt == 7 || tfmt == 8) && se == 0
    let pack := fn == 1 && fmt ≤ 3 && 9 ≤ tfmt && tfmt ≤ 0xD && sat == 0 && tl.vxDstOk se (bitsAt b 6 6)
    let unpack := fn == 2 && 9 ≤ fmt && fmt ≤ 0xD && tfmt ≤ 3 && sat == 0 && tl.vxSrcOk se (bitsAt b 6 6)
      && popsDistinct [sa, se]
    (conv || pack || unpack) && tl.vxSrcOk sa aoff && tl.vxDstOk sd (bitsAt b 12 6) && sb == 0 && sc == 0
      && bitsAt b 0 6 == 0
  | 3 =>
    let g := bitsAt b 40 16 + 1
    redFmtOk fn fmt tfmt && (sat == 0 || (fn == 0 && fmt == 4)) && tl.vxSrcOk sa (bitsAt b 5 6)
      && tl.vxDstOk sd (bitsAt b 64 6) && bitsAt b 70 2 == 0 && anchorOk (signedAt (bitsAt b 11 13) 13)
      && bitsAt b 0 5 == 0 && (bitsAt b 24 16 + 1) % g == 0
  | 4 =>
    fn ≤ 0xB && fmt ≤ 3 && tfmt == 0 && rm == 0 && sat == 0 && tl.vxSrcOk sa aoff
      && tl.vxDstOk sd (bitsAt b 12 6) && sb == 0 && sc == 0 && se == 0 && bitsAt b 0 12 == 0
  | 5 =>
    fn == 0 && (fmt == 0 || fmt == 1) && tfmt == 0 && sat == 0 && specKind sa == 2 && tl.vxQueueOk (specIdx sa)
      && specKind sb == 1 && tl.adOk (specIdx sb) && tl.vxDstOk sd (bitsAt b 6 6) && sc == 0 && se == 0
      && bitsAt b 0 6 == 0
  | 6 =>
    ((fn == 0 && fmt == 4) || (fn == 1 && (fmt == 0 || fmt == 1))) && tfmt == 0 && rm == 0 && sat == 0
      && bitsAt b 78 2 == 0 && sb == 0 && tl.vxDstOk sd (bitsAt b 3 6) && sc == 0 && se == 0
      && bitsAt b 19 5 != 31 && bitsAt b 0 3 == 0
  | _ => false

/-! MV (06 Table 6-1) and MV.SYNC (11 Table 11-2). -/

/-- A source specifier of a sending command, with its offset field. -/
def Tile.mvSrcOk (tl : Tile) (s off : Nat) : Bool :=
  match specKind s with
  | 0 => tl.qOk (specIdx s) && !tl.qDecoupled (specIdx s) && !bitAt off 5
  | 1 => tl.adOk (specIdx s)
  | _ => false

/-- R295. -/
def syncLegal (b : Nat) (anchored : Bool) : Bool :=
  let incOk := bitsAt b 59 16 != 0
  match bitsAt b 93 3 with
  | 0 | 2 => anchored && incOk && bitsAt b 0 59 == 0
  | 1 => anchored && bitsAt b 0 65 == 0
  | 3 => !anchored && bitsAt b 0 34 == 0
  | 4 => anchored && incOk && bitsAt b 0 47 == 0
  | 5 => anchored && bitsAt b 59 6 == 0 && bitsAt b 0 47 == 0
  | _ => false

/-- R144. -/
def mvLegal (tl : Tile) (b : Nat) : Bool :=
  let anchored := b.testBit 124
  match bitsAt b 96 3 with
  | 0 => bitsAt b 0 96 == 0
  | 1 => anchored && tl.mvSrcOk (bitsAt b 88 8) (bitsAt b 34 6) && bitsAt b 83 5 == 0 && bitsAt b 0 34 == 0
  | 2 => anchored && tl.mvSrcOk (bitsAt b 88 8) (bitsAt b 29 6) && bitsAt b 0 29 == 0
  | 3 =>
    let q := bitsAt b 90 6
    anchored && tl.qOk q && tl.qDecoupled q && bitsAt b 0 21 == 0
  | 4 => anchored && tl.mvSrcOk (bitsAt b 88 8) (bitsAt b 13 6) && bitsAt b 0 6 == 0
  | 5 =>
    let q := bitsAt b 90 6
    anchored && tl.qOk q && tl.qDecoupled q && bitsAt b 0 14 == 0
      && decide ((bitsAt b 30 11 + 1) * (bitsAt b 20 10 + 1) ≤ 16384)
  | 6 => !anchored && tl.qOk (bitsAt b 90 6) && bitsAt b 0 52 == 0
  | _ => syncLegal b anchored

/-- The engine of a command (02 R61). -/
def cmdEng (b : Nat) : Option Engine :=
  match bitsAt b 125 2 with
  | 0 => some .mx | 1 => some .vx | 2 => some .mv | _ => none

/-- A legal engine command in the tile's present state (02 R61, R248): `first` when it is its engine's first of the frame. -/
def Tile.cmdLegal (tl : Tile) (b : Nat) : Bool :=
  match cmdEng b with
  | none => false
  | some e =>
    let first := (tl.eng e).last.isNone
    (first || bitsAt b 112 12 != 0) && !(b.testBit 111 && bitsAt b 104 3 == 0)
      && (match e with
        | .mx => mxLegal tl b
        | .vx => vxLegal tl b
        | _ => mvLegal tl b)
      && !(tl.openRange.isSome && (e == .mv || b.testBit 124))

end Sys2Proof.Machine
end

