-- ==== Sys2Proof/Machine/Mx.lean ====
section
/-! DEFINITION. The matrix engine on one tile (04): what an operation reads and writes in each cycle (R105), the value of every output
element, its checks and its records. -/

namespace Sys2Proof.Machine

/-- The fixed figures of an MX command (Tables 4-1, 4-3, 4-6). -/
structure MxPar where
  m : Nat
  p : Nat
  kp : Nat
  fa : Fmt
  fb : Fmt
  w : Nat
  ua : Nat
  us : Nat
  t : Nat
  u : Nat
  mask : Nat
  obits : Nat
  deriving DecidableEq, Repr

/-- The larger of two numbers. -/
def nmax (a b : Nat) : Nat := if a < b then b else a

/-- The smallest number of groups of `k` that hold `n`. -/
def cdiv (n k : Nat) : Nat := (n + k - 1) / k

/-- The slices of MX.MMS (R108). -/
def mxSlices (b : Nat) : Nat := if bitAt b 91 then 7 else 6

/-- The panel time of MX.MMS (R109). -/
def mmsTime (n m : Nat) : Nat :=
  nmax ((List.range n).foldl (fun a tb => a + nmax ((n - tb) * m) 24) 0) 192

/-- The words a mask of `k` low words names. -/
def lowWords (k : Nat) : Nat := 2 ^ k - 1

/-- Tables 4-1 and 4-3 for a command's bits. -/
def mxPar (b : Nat) : MxPar :=
  let m := bitsAt b 75 8 + 1
  let p := bitsAt b 63 12 + 1
  let asub := bitAt b 91
  let bsub := bitAt b 90
  let pick (s : Bool) (x y : Fmt) : Fmt := if s then y else x
  let cf := bitsAt b 87 3
  let op := bitsAt b 96 3
  let (u, mask, obits) : Nat × Nat × Nat :=
    match cf with
    | 0 => if op = 3 then (6, 255, 64) else (3, 255, 32)
    | 1 => (2, lowWords 4, 16)
    | 2 => (2, lowWords 4, 16)
    | 3 => (1, lowWords 6, 8)
    | 4 => (1, lowWords 6, 8)
    | _ => (48, 255, 512)
  let mk (kp h w ua us : Nat) (fa fb : Fmt) : MxPar := ⟨m, p, kp, fa, fb, w, ua, us, nmax (h * m) w, u, mask, obits⟩
  match bitsAt b 92 4 with
  | 0 => mk 32 1 24 (cdiv m 2) 0 (pick asub .e4m3 .e5m2) (pick bsub .e4m3 .e5m2)
  | 1 => mk 32 1 25 (cdiv m 2) (cdiv m 64) (pick asub .e4m3 .e5m2) (pick bsub .e4m3 .e5m2)
  | 2 => mk 32 1 25 (cdiv m 2) (cdiv m 64) (pick asub .e2m3 .e3m2) (pick bsub .e2m3 .e3m2)
  | 3 => mk 64 1 26 (cdiv m 2) (cdiv m 32) .e2m1 .e2m1
  | 4 => mk 32 2 48 m 0 (pick asub .bf16 .b16) (pick bsub .bf16 .b16)
  | 5 => mk 32 8 96 (2 * m) 0 .b32 .b32
  | 8 => mk 32 1 24 (cdiv m 2) 0 .i8 .i8
  | 9 => mk 64 1 24 (cdiv m 2) 0 .i4 .i4
  | _ => ⟨m, p, 32, .b64, .b64, 192, 4 * m, 0, mmsTime (mxSlices b) m, u, mask, obits⟩

/-- The output format of MX.MM (Table 4-3). -/
def mmOutFmt (b : Nat) : Fmt :=
  match bitsAt b 87 3 with
  | 1 => .bf16 | 2 => .b16 | 3 => .e4m3 | 4 => .e5m2 | _ => .b32

/-! Where an element lies (R99, R100, 03 R83). -/

/-- The unit of its panel's element stream and the bit in it at which element `k` of row (or column) `r` starts. -/
def mxPlace (f : Fmt) (kp r k : Nat) : Nat × Nat :=
  match f with
  | .e3m2 | .e2m3 =>
    let blk := r * (kp / 32) + k / 32
    (blk / 2, (blk % 2) * 192 + 6 * (k % 32))
  | _ =>
    let bit := (r * kp + k) * fmtBits f
    (bit / 512, bit % 512)

/-- The operand lines of an operation: B's units, then A's, then A's scale units, panel by panel within each. -/
def mxB (q : MxPar) (o : Op) (p i : Nat) : Line := o.line (p * q.w + i)
def mxA (q : MxPar) (o : Op) (p i : Nat) : Line := o.line (q.p * q.w + p * q.ua + i)
def mxS (q : MxPar) (o : Op) (p i : Nat) : Line := o.line (q.p * (q.w + q.ua) + p * q.us + i)

/-- A byte of a line. -/
def lineByte (l : Line) (i : Nat) : Nat := bitsAt l.data.toNat (8 * i) 8

/-- Element k of A's row m in panel p, with its block scale: the value and its poison. -/
def mxAElem (q : MxPar) (o : Op) (p m k : Nat) : Num × Bool :=
  let (u, bit) := mxPlace q.fa q.kp m k
  let l := mxA q o p u
  let raw := bitsAt l.data.toNat bit (fmtBits q.fa)
  if q.us = 0 then (decodeNum q.fa raw, l.poison)
  else
    let blk := m * (q.kp / 32) + k / 32
    let sl := mxS q o p (blk / 64)
    (scaledNum q.fa (lineByte sl (blk % 64)) raw, l.poison || sl.poison)

/-- Element k of B's column j in panel p. -/
def mxBElem (q : MxPar) (o : Op) (p j k : Nat) : Num × Bool :=
  let (u, bit) := mxPlace q.fb q.kp j k
  let l := mxB q o p u
  let raw := bitsAt l.data.toNat bit (fmtBits q.fb)
  if q.us = 0 then (decodeNum q.fb raw, l.poison)
  else
    let blk := j * (q.kp / 32) + k / 32
    let sl := mxB q o p (24 + blk / 64)
    (scaledNum q.fb (lineByte sl (blk % 64)) raw, l.poison || sl.poison)

/-- Whether any element of A's row m or B's column j is poisoned (03 R84, 04 R116). -/
def mxPoison (q : MxPar) (o : Op) (m j : Nat) : Bool :=
  (List.range q.p).any (fun p => (List.range q.kp).any (fun k => (mxAElem q o p m k).2 || (mxBElem q o p j k).2))

/-! MX.MM (R102, R103). -/

/-- The bits that upsets invert in c(m, j)'s accumulator (slice sum) after step (pass) `k`, in the checksum of row or column `i`, and in the output. -/
def accFlips (o : Op) (m j k : Nat) : List Nat :=
  o.mx.filterMap (fun u => match u with
    | .acc m' j' k' b => if m' = m ∧ j' = j ∧ k' = k then some b else none
    | _ => none)
def checkFlips (o : Op) (col : Bool) (i k : Nat) : List Nat :=
  o.mx.filterMap (fun u => match u with
    | .check c i' k' b => if c = col ∧ i' = i ∧ k' = k then some b else none
    | _ => none)
def outFlips (o : Op) (m j : Nat) : List Nat :=
  o.mx.filterMap (fun u => match u with
    | .out m' j' b => if m' = m ∧ j' = j then some b else none
    | _ => none)

/-- One accumulation step: the running binary32 sum, never −0 (R103; DEDUCED for a negative sum that rounds to zero, log entry 81), and the conditions so far. Upsets invert the bits `mask` of the sum. -/
def mmStep (mask : Nat) (s : Num × Conds) (x : Num × Conds) : Num × Conds :=
  let (r, f) := addNum 0 s.1 x.1
  let (b, g) := convNum .b32 0 false r
  (decodeNum .b32 ((if b = 2 ^ 31 then 0 else b) ^^^ mask), s.2 ||| x.2 ||| f ||| g)

/-- The exact x of step k: one product, or the sum of two in the mode that pairs them. -/
def mmPair (q : MxPar) (one : Nat → Num × Conds) (k : Nat) : Num × Conds :=
  if q.kp = 64 then
    let (a, fa) := one (2 * k)
    let (b, fb) := one (2 * k + 1)
    let (x, f) := addNum 0 a b
    (x, fa ||| fb ||| f)
  else one k

/-- The fold of R102 over all K: `one p k` is the product of element `k` of panel `p`. -/
def mmFold (q : MxPar) (flips : Nat → List Nat) (one : Nat → Nat → Num × Conds) : Num × Conds :=
  (List.range q.p).foldl (fun s p => (List.range 32).foldl (fun s k => mmStep (bitMask 32 (flips (32 * p + k))) s (mmPair q (one p) k)) s)
    (.fin false 0 0, 0)

/-- c(m, j) of MX.MM before the output conversion. -/
def mmSum (q : MxPar) (o : Op) (m j : Nat) : Num × Conds :=
  mmFold q (accFlips o m j) (fun p k => mulNum (mxAElem q o p m k).1 (mxBElem q o p j k).1)

/-- c(m, j) of MX.MM and its conditions. -/
def mmElem (q : MxPar) (o : Op) (m j : Nat) : Nat × Conds :=
  let b := o.cmd.bits.toNat
  let (s, f) := mmSum q o m j
  let (r, g) := convNum (mmOutFmt b) (bitsAt b 85 2) (bitAt b 84) s
  (r, f ||| g)

/-! MX.MMI (R104). -/

/-- The integer of an INT8 or INT4 element. -/
def numInt : Num → Int
  | .fin s m _ => if s then -(m : Int) else (m : Int)
  | _ => 0

/-- The exact sum over all K of the products `one p k`; upsets invert bits of the accumulator. -/
def mmiFold (q : MxPar) (flips : Nat → List Nat) (one : Nat → Nat → Int) : Int :=
  (List.range q.p).foldl (fun s p => (List.range q.kp).foldl (fun s k => (flips (q.kp * p + k)).foldl flipInt (s + one p k)) s) 0

/-- The exact integer sum c(m, j). -/
def mmiSum (q : MxPar) (o : Op) (m j : Nat) : Int :=
  mmiFold q (accFlips o m j) (fun p k => numInt (mxAElem q o p m k).1 * numInt (mxBElem q o p j k).1)

def mmiElem (q : MxPar) (o : Op) (m j : Nat) : Nat × Conds :=
  let x := mmiSum q o m j
  if x > intMax .i32 then (0x7FFFFFFF, cInvalid) else (intBits .i32 x, 0)

/-! MX.MMS (R108 to R111). -/

/-- The 32 elements of A's row m (or B's column j) in K-block p. -/
def mmsA (q : MxPar) (o : Op) (p m : Nat) : List (Num × Bool) := (List.range 32).map (mxAElem q o p m)
def mmsB (q : MxPar) (o : Op) (p j : Nat) : List (Num × Bool) := (List.range 32).map (mxBElem q o p j)

/-- Whether a six-slice block's spread exceeds 12 (R110). -/
def blockFlag (n : Nat) (xs : List (Num × Bool)) : Bool :=
  n == 6 && decide ((splitBlock (xs.map (·.1)) n).spread > 12)

/-- Sets the flags of R92 for the non-finite pairs of a block. -/
def addNonFinite (a : Acc) (xs ys : List Num) : Acc :=
  (List.zip xs ys).foldl (fun a p => match nonFinite p.1 p.2 with
    | some (.inf s) => if s then { a with ninf := true } else { a with pinf := true }
    | some _ => { a with nan := true }
    | none => a) a

/-- The bits that upsets invert in the slices of a block: the element, the slice and the bit. -/
def splitFlips (o : Op) (b : Bool) (p r : Nat) : List (Nat × Nat × Nat) :=
  o.mx.filterMap (fun u => match u with
    | .split b' p' r' k i bit => if b' = b ∧ p' = p ∧ r' = r then some (k, i, bit % 8) else none
    | _ => none)

/-- An INT8 slice whose bit `bit` has been inverted. -/
def flipSlice (x : Int) (bit : Nat) : Int := if bit = 7 then (if x < 0 then x + 128 else x - 128) else flipInt x bit

/-- The split of A's row `r` (`b` false) or of B's column `r` in panel `p`, before and after the upsets of its slices. -/
def mmsRaw (q : MxPar) (o : Op) (b : Bool) (p r : Nat) : Split :=
  splitBlock ((if b then mmsB q o p r else mmsA q o p r).map (·.1)) (mxSlices o.cmd.bits.toNat)
def mmsSplit (q : MxPar) (o : Op) (b : Bool) (p r : Nat) : Split :=
  (splitFlips o b p r).foldl (fun s x => { s with slices := s.slices.modify x.1 (fun l => l.modify x.2.1 (fun v => flipSlice v x.2.2)) })
    (mmsRaw q o b p r)

/-- The number of a panel's slice pass `w` among all the passes of an operation (R108). -/
def passNo (n p w : Nat) : Nat := p * (slicePairs n).length + w

/-- The slice sums d(m, j) of panel `p`, pass by pass (R108). -/
def mmsPasses (q : MxPar) (o : Op) (p m j : Nat) : List Int :=
  let n := mxSlices o.cmd.bits.toNat
  let sx := mmsSplit q o false p m
  let sy := mmsSplit q o true p j
  (slicePairs n).zipIdx.map (fun x => (accFlips o m j (passNo n p x.2)).foldl flipInt (sliceDot sx sy x.1.1 x.1.2))

/-- The bits that upsets invert in the recombined value of panel `p`, and in the accumulator, of c(m, j). -/
def valueFlips (o : Op) (p m j : Nat) : List Nat :=
  o.mx.filterMap (fun u => match u with
    | .value p' m' j' b => if p' = p ∧ m' = m ∧ j' = j then some b else none
    | _ => none)
def sumFlips (o : Op) (m j : Nat) : List Nat :=
  o.mx.filterMap (fun u => match u with
    | .sum m' j' b => if m' = m ∧ j' = j then some b else none
    | _ => none)

/-- c(m, j)'s accumulator after the last panel and the inputs that were off its grid. -/
def mmsRun (q : MxPar) (o : Op) (m j : Nat) : Acc × Nat :=
  let b := o.cmd.bits.toNat
  let n := mxSlices b
  (List.range q.p).foldl (fun (a : Acc × Nat) p =>
    let xs := mmsA q o p m
    let ys := mmsB q o p j
    let v := (valueFlips o p m j).foldl flipInt (recombine n (mmsPasses q o p m j))
    let (acc, low) := a.1.add (blockPair n v ((mmsRaw q o false p m).e + (mmsRaw q o true p j).e)) (xs.any (·.2) || ys.any (·.2))
    (addNonFinite acc (xs.map (·.1)) (ys.map (·.1)), a.2 + b2n low)) (Acc.fresh (mxAnchor b), 0)

/-- The same with the upsets of the accumulator itself. -/
def mmsAcc (q : MxPar) (o : Op) (m j : Nat) : Acc × Nat :=
  let (a, low) := mmsRun q o m j
  ({ a with v := (sumFlips o m j).foldl flipInt a.v }, low)

/-- FP_INVALID for a signalling NaN among c(m, j)'s inputs, once for the element (03 R78; DEDUCED, log entry 80). -/
def mmsSnan (q : MxPar) (o : Op) (m j : Nat) : Conds :=
  if (List.range q.p).any (fun p => (mmsA q o p m).any (fun x => isSnan x.1) || (mmsB q o p j).any (fun x => isSnan x.1)) then cInvalid else 0

/-- c(m, j) of MX.MMS: an image, or binary64 rounded once. -/
def mmsElem (q : MxPar) (o : Op) (m j : Nat) : Nat × Conds :=
  let b := o.cmd.bits.toNat
  let a := (mmsAcc q o m j).1
  let (v, c) := if bitsAt b 87 3 = 5 then (a.image, 0) else a.round .b64 (bitsAt b 85 2)
  (v, c ||| mmsSnan q o m j)

/-- The output element (m, j) of any MX operation: its bits and its conditions. -/
def mxElem (q : MxPar) (o : Op) (m j : Nat) : Nat × Conds :=
  let (v, c) := match o.cmd.op with
    | 1 => mmElem q o m j
    | 2 => mmiElem q o m j
    | _ => mmsElem q o m j
  (v ^^^ bitMask q.obits (outFlips o m j), c)

/-! The checks (R112 to R115). An operation without an upset passes them all: the identities of the integer sums are exact, and the tolerance of Table
4-8 exceeds the rounding error for every finite input (R113). -/

/-- A sum formed in binary32 under RNE, in the order of the list (R112). -/
def sumB32 (xs : List Num) : Num := (xs.foldl (fun s x => mmStep 0 s (x, 0)) (.fin false 0 0, 0)).1

/-- σ(k) and α(k) of a panel: B's element `k` over the columns; ρ(k) and ρ′(k): A's over the rows. -/
def mmSigma (q : MxPar) (o : Op) (p k : Nat) : Num := sumB32 ((List.range 48).map (fun j => (mxBElem q o p j k).1))
def mmAlpha (q : MxPar) (o : Op) (p k : Nat) : Num := sumB32 ((List.range 48).map (fun j => absNum (mxBElem q o p j k).1))
def mmRho (q : MxPar) (o : Op) (p k : Nat) : Num := sumB32 ((List.range q.m).map (fun m => (mxAElem q o p m k).1))
def mmRhoAbs (q : MxPar) (o : Op) (p k : Nat) : Num := sumB32 ((List.range q.m).map (fun m => absNum (mxAElem q o p m k).1))

/-- cs(m) and mag(m), cr(j) and magc(j) of MX.MM. -/
def mmCs (q : MxPar) (o : Op) (m : Nat) : Num := (mmFold q (checkFlips o false m) (fun p k => mulNum (mxAElem q o p m k).1 (mmSigma q o p k))).1
def mmMag (q : MxPar) (o : Op) (m : Nat) : Num := (mmFold q (fun _ => []) (fun p k => mulNum (absNum (mxAElem q o p m k).1) (mmAlpha q o p k))).1
def mmCr (q : MxPar) (o : Op) (j : Nat) : Num := (mmFold q (checkFlips o true j) (fun p k => mulNum (mmRho q o p k) (mxBElem q o p j k).1)).1
def mmMagc (q : MxPar) (o : Op) (j : Nat) : Num := (mmFold q (fun _ => []) (fun p k => mulNum (mmRhoAbs q o p k) (absNum (mxBElem q o p j k).1))).1

/-- A finite binary32 value in units of 2^−149; none where it is not finite. -/
def unitsB32 : Num → Option Int
  | .fin s m e => some (alignTo s m e (-149))
  | _ => none

/-- Whether the sum of `xs` is further from `c` than Table 4-8 allows, `k` being the factor and `g` the magnitude sum; a check with a value that is not
finite passes (R113). -/
def beyondTolerance (k : Nat) (xs : List Num) (c g : Num) : Bool :=
  match xs.mapM unitsB32, unitsB32 c, unitsB32 g with
  | some us, some c, some g => decide ((k : Int) * (g + 2 ^ 23) < ((us.foldl (· + ·) 0 - c).natAbs : Int) * 2 ^ 22)
  | _, _, _ => false

/-- Row `m`'s check and column `j`'s check of MX.MMI: the sums differ. -/
def mmiRowBad (q : MxPar) (o : Op) (m : Nat) : Bool :=
  ((List.range 48).map (mmiSum q o m)).foldl (· + ·) 0 != mmiFold q (checkFlips o false m) (fun p k =>
    numInt (mxAElem q o p m k).1 * ((List.range 48).map (fun j => numInt (mxBElem q o p j k).1)).foldl (· + ·) 0)
def mmiColBad (q : MxPar) (o : Op) (j : Nat) : Bool :=
  ((List.range q.m).map (fun m => mmiSum q o m j)).foldl (· + ·) 0 != mmiFold q (checkFlips o true j) (fun p k =>
    ((List.range q.m).map (fun m => numInt (mxAElem q o p m k).1)).foldl (· + ·) 0 * numInt (mxBElem q o p j k).1)

/-- Slice `i` of element `k` of a split block. -/
def Split.at (s : Split) (k i : Nat) : Int := (s.slices.getD k []).getD i 0

/-- Row `m`'s check and column `j`'s check of slice pass `w` of panel `p` of MX.MMS: the sums differ. -/
def mmsRowBad (q : MxPar) (o : Op) (p w m : Nat) : Bool :=
  let n := mxSlices o.cmd.bits.toNat
  let ij := (slicePairs n).getD w (0, 0)
  let sx := mmsSplit q o false p m
  let cols := (List.range 48).map (mmsSplit q o true p)
  let cs := (List.range 32).foldl (fun a k => a + sx.at k ij.1 * cols.foldl (fun s y => s + y.at k ij.2) 0) 0
  (List.range 48).foldl (fun a j => a + (mmsPasses q o p m j).getD w 0) 0 != (checkFlips o false m (passNo n p w)).foldl flipInt cs
def mmsColBad (q : MxPar) (o : Op) (p w j : Nat) : Bool :=
  let n := mxSlices o.cmd.bits.toNat
  let ij := (slicePairs n).getD w (0, 0)
  let sy := mmsSplit q o true p j
  let rows := (List.range q.m).map (mmsSplit q o false p)
  let cr := (List.range 32).foldl (fun a k => a + rows.foldl (fun s x => s + x.at k ij.1) 0 * sy.at k ij.2) 0
  (List.range q.m).foldl (fun a m => a + (mmsPasses q o p m j).getD w 0) 0 != (checkFlips o true j (passNo n p w)).foldl flipInt cr

/-- Some slice pass of some panel fails. -/
def anyPass (q : MxPar) (o : Op) (f : Nat → Nat → Bool) : Bool :=
  (List.range q.p).any (fun p => (List.range (slicePairs (mxSlices o.cmd.bits.toNat)).length).any (f p))

/-- The checksum of row `m`, and of column `j`, fails (R112, Table 4-8). -/
def mxRowBad (q : MxPar) (o : Op) (m : Nat) : Bool :=
  match o.cmd.op with
  | 1 => beyondTolerance (q.kp * q.p + 64) ((List.range 48).map (fun j => (mmSum q o m j).1)) (mmCs q o m) (mmMag q o m)
  | 2 => mmiRowBad q o m
  | _ => anyPass q o (fun p w => mmsRowBad q o p w m)
def mxColBad (q : MxPar) (o : Op) (j : Nat) : Bool :=
  match o.cmd.op with
  | 1 => beyondTolerance (q.kp * q.p + q.m + 64) ((List.range q.m).map (fun m => (mmSum q o m j).1)) (mmCr q o j) (mmMagc q o j)
  | 2 => mmiColBad q o j
  | _ => anyPass q o (fun p w => mmsColBad q o p w j)

/-- Some element of a block does not recompose from its slices (R115). -/
def mxSplitBad (q : MxPar) (o : Op) (b : Bool) (p r : Nat) : Bool :=
  let whole (l : List Int) : Int := l.foldl (fun a s => a * 256 + s) 0
  o.cmd.op == 3 && (List.zip (mmsSplit q o b p r).slices (mmsRaw q o b p r).slices).any (fun x => whole x.1 != whole x.2)

/-- A stage check of c(m, j) fails: the residue modulo 255 of a recombined value or of the accumulator, or the parity across the output stages (R115). -/
def mxStageBad (q : MxPar) (o : Op) (m j : Nat) : Bool :=
  let changed (v : Int) (bits : List Nat) : Bool := decide ((bits.foldl flipInt v - v) % 255 ≠ 0)
  (o.cmd.op == 3 && ((List.range q.p).any (fun p => changed (recombine (mxSlices o.cmd.bits.toNat) (mmsPasses q o p m j)) (valueFlips o p m j))
      || changed (mmsRun q o m j).1.v (sumFlips o m j)))
    || (outFlips o m j).length % 2 == 1

/-- Whether a failing check marks output element (m, j) poisoned (R114, R115): its row's, a stage's, or a split's of a block that reaches it. -/
def mxHit (q : MxPar) (o : Op) (m j : Nat) : Bool :=
  !o.mx.isEmpty && (mxRowBad q o m || mxStageBad q o m j || (List.range q.p).any (fun p => mxSplitBad q o false p m || mxSplitBad q o true p j))

/-- A failing check: a row's or a column's checksum, a stage check of one output, the split check of a block of A's row or of B's column. -/
inductive MxFail where
  | row (i : Nat)
  | col (j : Nat)
  | stage (i j : Nat)
  | splitA (i : Nat)
  | splitB (j : Nat)
  deriving DecidableEq, Repr

/-- The failing checks of an operation in the order in which they are found. The manual orders columns only, after every row and in increasing j (R117);
the rest is a DESIGN CHOICE (log entry 65): the splits panel by panel, A's before B's, then row by row the row check and the stage checks of the row's
elements. -/
def mxFails (q : MxPar) (o : Op) : List MxFail :=
  if o.mx.isEmpty then []
  else
    (List.range q.p).flatMap (fun p => ((List.range q.m).filter (mxSplitBad q o false p)).map .splitA
        ++ ((List.range 48).filter (mxSplitBad q o true p)).map .splitB)
      ++ (List.range q.m).flatMap (fun m => (if mxRowBad q o m then [.row m] else [])
        ++ ((List.range 48).filter (mxStageBad q o m)).map (.stage m))
      ++ ((List.range 48).filter (mxColBad q o)).map .col

/-- Whether output element (m, j) is written poisoned: by its inputs, by a failing check, or as spread-affected. -/
def mxMarked (q : MxPar) (o : Op) (m j : Nat) : Bool :=
  let b := o.cmd.bits.toNat
  mxPoison q o m j || mxHit q o m j
    || (o.cmd.op == 3 && bitAt b 83 &&
        (List.range q.p).any (fun p => blockFlag (mxSlices b) (mmsA q o p m) || blockFlag (mxSlices b) (mmsB q o p j)))

/-- The columns that unit `i` of a row holds. -/
def mxCols (q : MxPar) (i : Nat) : List Nat :=
  let per := 512 / q.obits
  (List.range per).filterMap (fun k => if per * i + k < 48 then some (per * i + k) else none)

/-- Unit `i` of output row `m`: each element's bits, conditions and mark. -/
def mxUnitElems (q : MxPar) (o : Op) (m i : Nat) : List (Nat × Conds × Bool) :=
  (mxCols q i).map (fun j => let (v, f) := mxElem q o m j; (v, f, mxMarked q o m j))

/-- The data of a unit of elements. -/
def packElems (obits : Nat) (es : List (Nat × Conds × Bool)) : Nat :=
  (List.range es.length).foldl (fun a k => a + (es.getD k (0, 0, false)).1 * 2 ^ (obits * k)) 0

/-! The accesses of a cycle (R105, Table 4-6). -/

/-- Reads unit `i` of an MX operand: a queue pop or a 64-byte scratch unit. -/
def Tile.mxRead (tl heads : Tile) (o : Op) (slot spec : Nat) (off : Int) (i : Nat) : Tile × Line :=
  if bitAt spec 6 then tl.popLine heads o.cmd .mx slot (spec % 64) 0 else tl.scratchUnit o .mx slot (spec % 64) off i 64

/-- Unit `r` of panel `p` of the B stream in its cycle: in a mode with scales, units 24 to W − 1 of a panel come from BSC. -/
def mxReadB (heads : Tile) (slot p r : Nat) (q : MxPar) (o : Op) (tl : Tile) : Tile × Op :=
  let b := o.cmd.bits.toNat
  let (tl, l) :=
    if q.us ≠ 0 ∧ 24 ≤ r then tl.mxRead heads o slot (bitsAt b 28 7) 0 (p * (q.w - 24) + (r - 24))
    else tl.mxRead heads o slot (bitsAt b 49 7) (o.cmd.offset 16) (p * (if q.us = 0 then q.w else 24) + r)
  (tl, o.setLine (p * q.w + r) l)

/-- Unit `r` of panel `p` of the A stream. -/
def mxReadA (heads : Tile) (slot p r : Nat) (q : MxPar) (o : Op) (tl : Tile) : Tile × Op :=
  let (tl, l) := tl.mxRead heads o slot (bitsAt o.cmd.bits.toNat 56 7) (o.cmd.offset 22) (p * q.ua + r)
  (tl, o.setLine (q.p * q.w + p * q.ua + r) l)

/-- Unit `r` of panel `p` of A's scale stream. -/
def mxReadS (heads : Tile) (slot p r : Nat) (q : MxPar) (o : Op) (tl : Tile) : Tile × Op :=
  let (tl, l) := tl.mxRead heads o slot (bitsAt o.cmd.bits.toNat 35 7) 0 (p * q.us + r)
  (tl, o.setLine (q.p * (q.w + q.ua) + p * q.us + r) l)

/-- The operand reads of operation `o` in cycle `slot`: B, then A, then A's scales (R106); a cycle of the array phase is counted (R105, 15 Table 15-1). -/
def mxReadAt (heads : Tile) (slot : Nat) (o : Op) (tl : Tile) : Tile × Op :=
  let q := mxPar o.cmd.bits.toNat
  let x := slot - (o.issued + 4)
  let p := x / q.t
  let r := x % q.t
  let tl := if o.cmd.op = 0 ∨ slot < o.issued + 4 ∨ q.w + q.p * q.t ≤ x then tl else tl.event 0x09 1
  if o.cmd.op = 0 ∨ slot < o.issued + 4 ∨ q.p ≤ p then (tl, o)
  else
    let (tl, o) := if r < q.w then mxReadB heads slot p r q o tl else (tl, o)
    let (tl, o) := if r < q.ua then mxReadA heads slot p r q o tl else (tl, o)
    if r < q.us then mxReadS heads slot p r q o tl else (tl, o)

/-- The C write of operation `o` in cycle `slot`, in C order; a saturated element of MX.MMI sets INT_RANGE (Table 4-5). -/
def mxWriteAt (heads : Tile) (slot : Nat) (o : Op) (tl : Tile) : Tile × Op :=
  let q := mxPar o.cmd.bits.toNat
  let first := o.retire + 1 - q.m * q.u
  if o.cmd.op = 0 ∨ slot < first ∨ o.retire < slot then (tl, o)
  else
    let idx := slot - first
    let m := idx / q.u
    let i := idx % q.u
    let cs := bitsAt o.cmd.bits.toNat 42 7
    let es := mxUnitElems q o m i
    let mask := if i + 1 = q.u then q.mask else 255
    let poison := es.any (fun e => e.2.2)
    let tl := tl.conds (es.map (fun e => e.2.1))
    let tl := if o.cmd.op = 2 ∧ (mxCols q i).any (fun j => decide (mmiSum q o m j > intMax .i32)) then tl.orBits rTlMxStatus (2 ^ 28) else tl
    (if bitAt cs 6 then tl.pushUnit heads o.cmd .mx slot (cs % 64) mask (packElems q.obits es) poison
      else tl.storeUnit o .mx slot (cs % 64) (o.cmd.offset 10) idx mask (packElems q.obits es) poison, o)

/-- MX's accesses in cycle `slot`; `heads` is the tile as the cycle begins. -/
def Tile.mxCycle (heads : Tile) (slot : Nat) (tl : Tile) : Tile :=
  let (tl, fl) := eachOp (mxWriteAt heads slot) tl.mx.flight tl
  let (tl, fl) := eachOp (mxReadAt heads slot) fl tl
  { tl with mx := { tl.mx with flight := fl } }

/-! Checks and records at retirement (R110, R114, R115). -/

/-- The record of the last failing check (Table 4-9). -/
def lastCheck (kind idx word : Nat) : Nat := kind * 2 ^ 31 + (idx % 256) * 2 ^ 23 + word % 2 ^ 17

/-- One failing check: count, status and last record (R114, R115). A block of B's column has no row: TL_MX_LAST_CHECK then names row 0 (DESIGN CHOICE,
log entry 65). -/
def Tile.mxCheck (word : Nat) (e : MxFail) (tl : Tile) : Tile :=
  let tl := (tl.bump rTlMxCheckCnt 1).event 0x24 (match e with
    | .row _ => 1 | .col _ => 1 | _ => 0)
  match e with
  | .row i => (tl.orBits rTlMxStatus (2 ^ 31)).set rTlMxLastCheck (lastCheck 0 i word)
  | .col j => (tl.orBits rTlMxStatus (2 ^ 30)).set rTlMxLastCheck (lastCheck 1 j word)
  | .stage i _ => (tl.orBits rTlMxStatus (2 ^ 27)).set rTlMxLastCheck (lastCheck 0 i word)
  | .splitA i => (tl.orBits rTlMxStatus (2 ^ 27)).set rTlMxLastCheck (lastCheck 0 i word)
  | .splitB _ => (tl.orBits rTlMxStatus (2 ^ 27)).set rTlMxLastCheck (lastCheck 0 0 word)

/-- A number no greater than `m`. -/
def satTo (m x : Nat) : Nat := if x < m then x else m

/-- The checks of a retiring operation and their one fault record (R114). -/
def Tile.mxChecks (tl : Tile) (t : Nat) (q : MxPar) (o : Op) : Tile :=
  let fails := mxFails q o
  let tl := fails.foldl (fun tl e => tl.mxCheck (o.cmd.word) e) tl
  if fails.isEmpty then tl
  else tl.raiseInj 0x0108 t (o.cmd.word % 2 ^ 17 + satTo 255 fails.length * 2 ^ 17) o.injected

/-- The spread events of a six-slice operation: the flagged blocks of A and B (R110). -/
def mmsFlags (q : MxPar) (o : Op) : Nat :=
  let n := mxSlices o.cmd.bits.toNat
  (List.range q.p).foldl (fun a p =>
    a + ((List.range q.m).filter (fun m => blockFlag n (mmsA q o p m))).length
      + ((List.range 48).filter (fun j => blockFlag n (mmsB q o p j))).length) 0

/-- What an MX.MMS operation records at retirement beside its checks: spread, off-grid inputs and range events. -/
def Tile.mmsRecords (tl : Tile) (t : Nat) (o : Op) (q : MxPar) : Tile :=
  let word := o.cmd.word % 2 ^ 17
  let flags := mmsFlags q o
  let tl := if flags = 0 then tl else
    (((tl.event 0x23 flags).bump rTlMxSpreadCnt flags).orBits rTlMxStatus (2 ^ 29)).raise 0x0109 t
      (word + satTo (2 ^ 15 - 1) flags * 2 ^ 17)
  let accs := (List.range q.m).flatMap (fun m => (List.range 48).map (mmsAcc q o m))
  let tl := tl.event 0x21 (accs.foldl (fun a x => a + x.2) 0)
  if bitsAt o.cmd.bits.toNat 87 3 = 5 then tl
  else
    let bad := accs.filter (fun x => x.1.range)
    if bad.isEmpty then tl
    else (tl.event 0x22 bad.length).raise 0x010C t (word + b2n (bad.any (fun x => x.1.high)) * 2 ^ 17
      + b2n (bad.any (fun x => x.1.ovf)) * 2 ^ 18 + b2n (bad.any (fun x => x.1.mismatch)) * 2 ^ 19)

end Sys2Proof.Machine
end

