-- ==== Sys2Proof/Machine/FnMath.lean ====
section
/-! DEFINITION. The transcendental functions of VX.FN (05 R134, R135): each function's value to more than 200 bits, by series in fixed point, and the
results that Table 5-9 allows; which of those the reference model gives, the manual leaves to that model. -/

namespace Sys2Proof.Machine

/-! Fixed point. Numbers with 400 fraction bits; π has 1600, so that the largest binary64 argument is reduced exactly enough (R134). -/

def fixBits : Nat := 400
def fixOne : Nat := 2 ^ 400

/-- The magnitude m·2^e in fixed point, rounded down. -/
def toFix (m : Nat) (e : Int) : Nat := if 0 ≤ e + 400 then m * 2 ^ (e + 400).toNat else m / 2 ^ (-(e + 400)).toNat

/-- t/(2k+1) + t·z/(2k+3) + …, the tail of the series of atanh; `z` is the square of the argument. -/
def atanhSeries (z : Nat) : Nat → Nat → Nat → Nat
  | 0, _, _ => 0
  | f + 1, k, t => t / (2 * k + 1) + atanhSeries z f (k + 1) (t * z / fixOne)

/-- The natural logarithm of y, 1 ≤ y < 2: 2·atanh((y − 1) / (y + 1)). -/
def lnFix (y : Nat) : Nat :=
  let z := (y - fixOne) * fixOne / (y + fixOne)
  2 * atanhSeries (z * z / fixOne) 130 0 z

def ln2Fix : Nat := 2 * atanhSeries (fixOne / 9) 130 0 (fixOne / 3)

/-- The natural logarithm of m·2^e, m ≠ 0. -/
def lnOf (m : Nat) (e : Int) : Int :=
  let k := Nat.log2 m
  (e + (k : Int)) * (ln2Fix : Int) + (lnFix (m * fixOne / 2 ^ k) : Int)

/-- t + t·r/n + t·r²/(n(n+1)) + …, the tail of the series of e^r. -/
def expSeries (r : Nat) : Nat → Nat → Nat → Nat
  | 0, _, _ => 0
  | f + 1, n, t => t + expSeries r f (n + 1) (t * r / fixOne / n)

/-- e^x as m·2^e: the integer multiples of ln 2 go into the exponent. -/
def expFix (x : Int) : Nat × Int :=
  (expSeries (x % (ln2Fix : Int)).toNat 100 1 fixOne, x / (ln2Fix : Int) - 400)

/-- e^x − 1. -/
def expm1Fix (x : Int) : Int :=
  let (m, e) := expFix x
  (toFix m e : Int) - (fixOne : Int)

/-- The series of the sine from the term t of degree n on; `z` is the square of the argument. -/
def sinSeries (z : Nat) : Nat → Nat → Nat → Int
  | 0, _, _ => 0
  | f + 1, n, t => (t : Int) - sinSeries z f (n + 2) (t * z / fixOne / ((n + 1) * (n + 2)))

/-- The sine of r, 0 ≤ r ≤ π/2. -/
def sinFix (r : Nat) : Nat := (sinSeries (r * r / fixOne) 60 1 r).toNat

/-- The arc tangent of 1/n, with 1600 fraction bits. -/
def atanSeries (n : Nat) : Nat → Nat → Nat → Int
  | 0, _, _ => 0
  | f + 1, k, t => ((t / (2 * k + 1) : Nat) : Int) - atanSeries n f (k + 1) (t / (n * n))

/-- π with 1600 fraction bits: 16·atan(1/5) − 4·atan(1/239). -/
def piFix : Nat := (16 * atanSeries 5 350 0 (2 ^ 1600 / 5) - 4 * atanSeries 239 110 0 (2 ^ 1600 / 239)).toNat

/-- 2/√π. -/
def erfScale : Nat := isqrt (2 ^ (2 * 400 + 2 + 1600) / piFix)

/-- x + x·(2x²)/3 + x·(2x²)²/15 + …: √π/2 · e^(x²) · erf x. -/
def erfSeries (z : Nat) : Nat → Nat → Nat → Nat
  | 0, _, _ => 0
  | f + 1, n, t => t + erfSeries z f (n + 1) (t * z / fixOne / (2 * n + 3))

/-! Values. -/

/-- A value of VX.FN: sign, magnitude m·2^e. -/
abbrev FnVal := Bool × Nat × Int

/-- A fixed-point number as a value. -/
def ofFix (v : Int) : FnVal := (decide (v < 0), v.natAbs, -400)

/-- sin x (`quarter` 0) and cos x (`quarter` 1) for x = ±m·2^e: the argument in quarter turns, exactly reduced. -/
def circular (quarter : Nat) (s : Bool) (m : Nat) (e : Int) : FnVal :=
  let x := m * 2 ^ (e + 1601).toNat
  let q := x / piFix + quarter
  let r := x % piFix
  let v := if q % 2 = 0 then sinFix (r / 2 ^ 1201) else sinFix ((piFix - r) / 2 ^ 1201)
  ((quarter == 0 && s) != decide (2 ≤ q % 4), v, -400)

/-- f(x) for x = ±m·2^e, not 0 and inside the domain, to a relative error below 2^−200. An argument below 2^−130 and one beyond every exponent take
the function's limit. -/
def fnValue (fn : Nat) (s : Bool) (m : Nat) (e : Int) : FnVal :=
  let l := numLog m e
  let tiny := decide (l < -130)
  let a := toFix m e
  let x : Int := if s then -(a : Int) else (a : Int)
  let far := decide (11 ≤ l)
  match fn with
  | 0 => if far then (false, 1, if s then -5000 else 5000) else let (v, k) := expFix x; (false, v, k)
  | 1 =>
    if far then (false, 1, if s then -5000 else 5000)
    else (false, expSeries ((x % (fixOne : Int)).toNat * ln2Fix / fixOne) 100 1 fixOne, x / (fixOne : Int) - 400)
  | 2 => if tiny then (s, m, e) else if far then (if s then (true, 1, 0) else (false, 1, 5000)) else ofFix (expm1Fix x)
  | 3 => ofFix (lnOf m e)
  | 4 => ofFix (lnOf m e * (fixOne : Int) / (ln2Fix : Int))
  | 5 =>
    if tiny then (s, m, e)
    else if 0 ≤ e then ofFix (lnOf (m * 2 ^ e.toNat + 1) 0)
    else ofFix (lnOf (if s then 2 ^ (-e).toNat - m else 2 ^ (-e).toNat + m) e)
  | 6 =>
    let odd : Nat := if e % 2 = 0 then 0 else 1
    (false, isqrt (2 ^ 1200 / (m * 2 ^ odd)), -600 - (e - (odd : Int)) / 2)
  | 7 => if tiny then (s, m, e) else circular 0 s m e
  | 8 => if tiny then (false, 1, 0) else circular 1 s m e
  | 9 =>
    if tiny then (s, m, e) else if 8 ≤ l then (s, 1, 0)
    else
      let v := (expm1Fix (2 * (a : Int))).toNat
      (s, v * fixOne / (v + 2 * fixOne), -400)
  | 10 =>
    if tiny then (false, 1, -1) else if far then (if s then (false, 1, -5000) else (false, 1, 0))
    else
      let (v, k) := expFix (-x)
      let n := 2 ^ (-k).toNat
      let d := n + v * 2 ^ k.toNat
      let sh := 400 + Nat.log2 d
      (false, n * 2 ^ sh / d, -(sh : Int))
  | _ =>
    if tiny then (s, m * erfScale, e - 400) else if 9 * fixOne ≤ a then (s, 1, 0)
    else
      let (v, k) := expFix (-((a * a / fixOne : Nat) : Int))
      (s, v * (erfScale * erfSeries (2 * a * a / fixOne) 400 0 a), k - 800)

/-- Whether f(x) is a dyadic number: e^x and its kind never are for x ≠ 0. -/
def fnExact (fn : Nat) (s : Bool) (m : Nat) (e : Int) : Bool :=
  let pow := decide (m = 2 ^ Nat.log2 m)
  match fn with
  | 1 => decide (0 ≤ e) || decide (m % 2 ^ (-e).toNat = 0)
  | 3 => !s && magEq m e 1 0
  | 4 => pow
  | 6 => pow && decide (numLog m e % 2 = 0)
  | _ => false

/-! The results that the bound allows (Table 5-9). -/

/-- The bound in units of the last place, in binary64 and in binary32. -/
def fnUlps (fn : Nat) (f : Fmt) : Nat :=
  match fn with
  | 2 | 5 => if f = .b64 then 2 else 1
  | 7 | 8 | 9 | 10 | 11 => 2
  | _ => 1

/-- The number that the magnitude bits `c` spell, as m·2^e; the bits of infinity spell the power of two above the range. -/
def ordVal (f : Fmt) (c : Nat) : Nat × Int :=
  let ex := c / 2 ^ fmtFrac f
  let fr := c % 2 ^ fmtFrac f
  if ex = 0 then (fr, 1 - (fmtBias f : Int) - (fmtFrac f : Int))
  else (2 ^ fmtFrac f + fr, (ex : Int) - (fmtBias f : Int) - (fmtFrac f : Int))

/-- Whether the magnitude bits `c` lie within `b` units in the last place of the value m·2^e; the 2^−40 of a unit beside it covers the error of
`fnValue`. -/
def within (f : Fmt) (b m : Nat) (e : Int) (c : Nat) : Bool :=
  let (n, g) := ordVal f c
  let emin : Int := 1 - (fmtBias f : Int)
  let u := (if numLog m e < emin then emin else numLog m e) - (fmtFrac f : Int)
  let lo := if e ≤ g then (if e ≤ u then e else u) else if g ≤ u then g else u
  let d := (alignTo false m e lo - alignTo false n g lo).natAbs
  decide (d * 2 ^ 40 ≤ b * (2 ^ 40 + 1) * 2 ^ (u - lo).toNat)

/-- The magnitude bits that the bound allows for the value m·2^e, m ≠ 0; the bits of infinity stand for a result beyond the range (R135). -/
def fnCands (f : Fmt) (b m : Nat) (e : Int) : List Nat :=
  if (fmtBias f : Int) + 1 < numLog m e then [fmtInf f]
  else
    let (dm, dq) := roundSig 0 false m e (fmtFrac f + 1) (some (1 - (fmtBias f : Int) - (fmtFrac f : Int)))
    let c := packMag f dm dq
    ((List.range 7).filterMap (fun i => if c + i < 3 then none else some (c + i - 3))).filter (fun x => decide (x ≤ fmtInf f) && within f b m e x)

/-- The conditions of the result with magnitude bits `c` for the exact value m·2^e (R77, R79, R135). -/
def fnConds (f : Fmt) (exact : Bool) (m : Nat) (e : Int) (c : Nat) : Conds :=
  let (n, g) := ordVal f c
  let (um, uq) := roundSig 0 false m e (fmtFrac f + 1) none
  if fmtInf f ≤ c then cOverflow ||| cInexact
  else if exact && magEq m e n g then 0
  else if c < 2 ^ fmtFrac f ∨ (c = 2 ^ fmtFrac f ∧ magLt um uq 1 (1 - (fmtBias f : Int))) then cUnderflow ||| cInexact
  else cInexact

/-- A function's result in binary64 or binary32 for x = ±m·2^e, whose bits are `a`: one of those that the bound allows, which one the reference model
says (R134; log entry 4). A zero value's sign is open too. -/
def fnResult (fn : Nat) (f : Fmt) (a : Nat) (s : Bool) (m : Nat) (e : Int) : Nat × Conds :=
  let pick := Config.vxFn fn (if f = .b64 then 0 else 1) a
  let (neg, v, g) := fnValue fn s m e
  let sign := 2 ^ (fmtBits f - 1)
  if v = 0 then
    (([0, 1, sign, sign + 1] : List Nat).getD (pick % 4) 0, if pick % 2 = 0 then 0 else cUnderflow ||| cInexact)
  else
    let cs := fnCands f (fnUlps fn f) v g
    let c := cs.getD (pick % cs.length) (fmtInf f)
    ((if neg then sign else 0) + c, fnConds f (fnExact fn s m e) v g c)

end Sys2Proof.Machine
end

