-- ==== Sys2Proof/Machine/VxMath.lean ====
section
/-! DEFINITION. What the vector engine computes (05): elementwise functions, reductions, transcendental functions and
the random number generator, on the bits of single elements. -/

namespace Sys2Proof.Machine

/-- The element format of a format code (Table 5-3); an image code has none. -/
def fmtOf (code : Nat) : Fmt :=
  match code with
  | 0 => .b64 | 1 => .b32 | 2 => .b16 | 3 => .bf16 | 4 => .i32 | 5 => .i8 | 6 => .i4 | 7 => .e4m3 | 8 => .e5m2
  | 9 => .e4m3 | 10 => .e5m2 | 11 => .e2m3 | 12 => .e3m2 | _ => .e2m1

/-- The all-ones element of a true mask result (R123). -/
def maskBits (f : Fmt) (b : Bool) : Nat := if b then 2 ^ fmtBits f - 1 else 0

/-- FP_INVALID for a signalling NaN operand (R124). -/
def snanCond (f : Fmt) (a b : Nat) : Conds :=
  if !fmtInt f && (isSnan (decodeNum f a) || isSnan (decodeNum f b)) then cInvalid else 0

/-- Order of two elements: integers, or floats with −0 below +0 (R124). -/
def elemLt (f : Fmt) (a b : Nat) : Bool := numLt true (decodeNum f a) (decodeNum f b)

/-- MIN (`max = false`) and MAX, MINNUM and MAXNUM (`num`) (R124). -/
def minMax (f : Fmt) (max num : Bool) (a b : Nat) : Nat × Conds :=
  let x := decodeNum f a
  let y := decodeNum f b
  let c := snanCond f a b
  if isNan x && isNan y then (fmtNan f, c)
  else if isNan x then (if num then b else fmtNan f, c)
  else if isNan y then (if num then a else fmtNan f, c)
  else if numLt true y x then (if max then a else b, c) else (if max then b else a, c)

/-- An exact integer result under SAT (R125). -/
def intResult (f : Fmt) (sat : Bool) (v : Int) : Nat × Conds := (intBits f (if sat then intClamp f v else v), 0)

/-- The element's two's-complement value. -/
def elemInt (f : Fmt) (b : Nat) : Int := signedAt b (fmtBits f)

/-- A shift of an integer element by the low bits of another (Table 5-5). -/
def elemShift (f : Fmt) (fn a b : Nat) : Nat :=
  let n := b % fmtBits f
  match fn with
  | 0x19 => (a * 2 ^ n) % 2 ^ fmtBits f
  | 0x1A => a / 2 ^ n
  | _ => intBits f (elemInt f a / 2 ^ n)

/-- `d` added to the integer significand of an exact result: what an upset in a residue-checked stage does to it (R138). -/
def bumpNum (d : Int) (x : Num × Conds) : Num × Conds :=
  match x.1 with
  | .fin s m e =>
    if d = 0 then x
    else
      let v := (if s then -(m : Int) else (m : Int)) + d
      (.fin (decide (v < 0)) v.natAbs e, x.2)
  | _ => x

/-- VX.EW on one element position (Table 5-5, R123 to R125); `d` is what an upset adds to the exact result of an arithmetic function. -/
def ewElem (fn : Nat) (f : Fmt) (rm : Nat) (sat : Bool) (d : Int) (a b c : Nat) : Nat × Conds :=
  let x := decodeNum f a
  let y := decodeNum f b
  let z := decodeNum f c
  let sign := 2 ^ (fmtBits f - 1)
  match fn with
  | 0x00 => (a, 0)
  | 0x01 => if fmtInt f then intResult f sat (elemInt f a + elemInt f b + d) else finish f rm (bumpNum d (addNum rm x y))
  | 0x02 => if fmtInt f then intResult f sat (elemInt f a - elemInt f b + d) else finish f rm (bumpNum d (addNum rm x (negNum y)))
  | 0x03 => if fmtInt f then intResult f sat (elemInt f a * elemInt f b + d) else finish f rm (bumpNum d (mulNum x y))
  | 0x04 => finish f rm (bumpNum d (fmaNum rm x y z))
  | 0x05 => finish f rm (bumpNum d (fmaNum rm x y (negNum z)))
  | 0x06 => finish f rm (bumpNum d (fmaNum rm (negNum x) y z))
  | 0x07 => finish f rm (divNum x y)
  | 0x08 => finish f rm (sqrtNum x)
  | 0x09 => minMax f false false a b
  | 0x0A => minMax f true false a b
  | 0x0B => minMax f false true a b
  | 0x0C => minMax f true true a b
  | 0x0D => (a % sign, 0)
  | 0x0E => ((a + sign) % (2 * sign), 0)
  | 0x0F => (a % sign + (b / sign) * sign, 0)
  | 0x10 => (maskBits f (!isNan x && !isNan y && !numLt false x y && !numLt false y x), snanCond f a b)
  | 0x11 => (maskBits f (numLt false x y), snanCond f a b)
  | 0x12 => (maskBits f (!isNan x && !isNan y && !numLt false y x), snanCond f a b)
  | 0x13 => (maskBits f (isNan x || isNan y), snanCond f a b)
  | 0x14 => (if sign ≤ a then b else c, 0)
  | 0x15 => (a &&& b, 0)
  | 0x16 => (a ||| b, 0)
  | 0x17 => (a ^^^ b, 0)
  | 0x18 => (a &&& (2 * sign - 1 - b), 0)
  | _ => (elemShift f fn a b, 0)

/-- The step interval r and the latency L of VX.EW (Table 5-5). -/
def ewTime (fn : Nat) (f : Fmt) : Nat × Nat :=
  let cls : Nat := match f with
    | .b64 => 0 | .b32 => 1 | .i32 => 3 | .i8 => 4 | _ => 2
  let pick (a b c d e : Nat) : Nat := match cls with
    | 0 => a | 1 => b | 2 => c | 3 => d | _ => e
  match fn with
  | 1 | 2 => (1, pick 5 4 4 2 2)
  | 3 => (1, pick 6 4 4 3 3)
  | 4 | 5 | 6 => (1, pick 6 4 4 2 2)
  | 7 | 8 => (pick 8 4 2 2 2, pick 28 16 10 10 10)
  | _ => (1, 2)

/-! Transcendental functions (R134, R135). -/

/-- 1.0, −1.0 and 0.5 in a float format. -/
def fmtOne (f : Fmt) : Nat := fmtBias f * 2 ^ fmtFrac f
def fmtSign (f : Fmt) : Nat := 2 ^ (fmtBits f - 1)
def fmtHalf (f : Fmt) : Nat := (fmtBias f - 1) * 2 ^ fmtFrac f

/-- The special results of Table 5-10; none for a finite input inside the domain. -/
def fnSpecial (fn : Nat) (f : Fmt) (x : Num) : Option (Nat × Conds) :=
  let nan := fmtNan f
  let inf := fmtInf f
  let zero (s : Bool) : Nat := if s then fmtSign f else 0
  match x with
  | .nan sig => some (nan, if sig then cInvalid else 0)
  | .inf false =>
    match fn with
    | 6 => some (0, 0)
    | 7 | 8 => some (nan, cInvalid)
    | 9 | 0xB | 0xA => some (fmtOne f, 0)
    | _ => some (inf, 0)
  | .inf true =>
    match fn with
    | 0 | 1 => some (0, 0)
    | 2 => some (fmtSign f + fmtOne f, 0)
    | 9 | 0xB => some (fmtSign f + fmtOne f, 0)
    | 0xA => some (0, 0)
    | _ => some (nan, cInvalid)
  | .fin s m e =>
    if m = 0 then
      match fn with
      | 0 | 1 | 8 => some (fmtOne f, 0)
      | 3 | 4 => some (fmtSign f + inf, cDivZero)
      | 6 => some (zero s + inf, cDivZero)
      | 0xA => some (fmtHalf f, 0)
      | _ => some (zero s, 0)
    else
      match fn with
      | 3 | 4 | 6 => if s then some (nan, cInvalid) else none
      | 5 =>
        if s then
          if magEq m e 1 0 then some (fmtSign f + inf, cDivZero)
          else if magLt 1 0 m e then some (nan, cInvalid) else none
        else none
      | _ => none

/-- VX.FN on one element: the special results, or a result that the bound allows (R134, R135); the 16-bit results are the binary32 evaluation rounded
once. -/
def fnElem (fn : Nat) (f : Fmt) (a : Nat) : Nat × Conds :=
  match fnSpecial fn f (decodeNum f a), decodeNum f a with
  | some r, _ => r
  | none, .fin s m e =>
    match f with
    | .b16 | .bf16 =>
      let (r, c) := fnResult fn .b32 (convNum .b32 0 false (.fin s m e)).1 s m e
      let (b, d) := convNum f 0 false (decodeNum .b32 r)
      (b, c ||| d)
    | _ => fnResult fn f a s m e
  | none, _ => (fmtNan f, 0)

/-- The step interval and latency of VX.FN (R134). -/
def fnTime (f : Fmt) : Nat × Nat :=
  match f with
  | .b64 => (2, 30) | .b32 => (1, 18) | _ => (2, 20)

/-! Reductions (R131). -/

/-- A float addition under RM, on bits, with the conditions so far; `d` is what an upset adds to the exact sum. -/
def addBits (f : Fmt) (rm : Nat) (d : Int) (a b : Nat × Conds) : Nat × Conds :=
  let (r, c) := finish f rm (bumpNum d (addNum rm (decodeNum f a.1) (decodeNum f b.1)))
  (r, a.2 ||| b.2 ||| c)

/-- Adds neighbours: one level of the final tree. -/
def pairUp (f : Fmt) (rm : Nat) : List (Nat × Conds) → List (Nat × Conds)
  | a :: b :: xs => addBits f rm 0 a b :: pairUp f rm xs
  | xs => xs

/-- Adds neighbours `k` times over. -/
def treeSum (f : Fmt) (rm : Nat) : Nat → List (Nat × Conds) → List (Nat × Conds)
  | 0, xs => xs
  | k + 1, xs => treeSum f rm k (pairUp f rm xs)

/-- The eight running sums of one lane over a group's steps. Upsets in step i add `adds i` to the exact sum and invert the bits `flips i` of the
running value. -/
def laneSums (f : Fmt) (rm : Nat) (flips : Nat → Nat) (adds : Nat → Int) (xs : List Nat) : List (Nat × Conds) :=
  (List.range 8).map (fun q =>
    (List.range xs.length).foldl (fun s i =>
      if i % 8 = q then
        let r := addBits f rm (adds i) s (xs.getD i 0, 0)
        (r.1 ^^^ flips i, r.2)
      else s) (0, 0))

/-- The sum of a group: `steps` lists each step's elements (R131); the upsets go by step and lane. -/
def sumGroup (f : Fmt) (rm : Nat) (flips : Nat → Nat → Nat) (adds : Nat → Nat → Int) (steps : List (List Nat)) : Nat × Conds :=
  let lanes := (steps.headD []).length
  let t := (List.range lanes).map (fun l =>
    (treeSum f rm 3 (laneSums f rm (fun i => flips i l) (fun i => adds i l) (steps.map (fun s => s.getD l 0)))).headD (0, 0))
  (treeSum f rm 6 t).headD (0, 0)

/-- MAX, MIN and MAXABS of a group. -/
def extremeGroup (fn : Nat) (f : Fmt) (xs : List Nat) : Nat × Conds :=
  let ys := if fn = 3 then xs.map (fun x => if isNan (decodeNum f x) then x else x % fmtSign f) else xs
  let snan := if ys.any (fun x => !fmtInt f && isSnan (decodeNum f x)) then cInvalid else 0
  match ys with
  | [] => (0, 0)
  | y :: rest =>
    let r := rest.foldl (fun a x => (minMax f (fn != 2) false a x).1) (minMax f (fn != 2) false y y).1
    (r, snan)

/-- Table 5-7. -/
def redLatency (fn fmt tfmt : Nat) : Nat :=
  match fn with
  | 0 => if fmt = 0 then 45 else if fmt = 1 then 49 else 10
  | 1 | 2 | 3 => 12
  | _ => if tfmt = 0xE then 20 else 26

/-! The random number generator (R140). -/

/-- The low 32 bits. -/
def w32 (n : Nat) : Nat := n % 2 ^ 32
/-- Rotates a 32-bit word left by 16. -/
def rotl16 (n : Nat) : Nat := w32 (n * 65536) + n / 65536

/-- The generator's rounds: words x0 to x3 and the round keys a and b. -/
def rngRounds : Nat → Nat × Nat × Nat × Nat → Nat → Nat → Nat × Nat × Nat × Nat
  | 0, x, _, _ => x
  | k + 1, (x0, x1, x2, x3), a, b =>
    let p := 0x10100101 * x0
    let q := 0x01001011 * x2
    let n0 := x1 ^^^ (q / 2 ^ 32) ^^^ a
    let n2 := x3 ^^^ (p / 2 ^ 32) ^^^ b
    let n1 := w32 (w32 p + n0)
    let n3 := w32 (w32 q + n2)
    rngRounds k (n0, rotl16 n3, n2, rotl16 n1) (w32 (a + 0x3D5A96E1)) (w32 (b + 0xB4C32F79))

/-- Four words of the generator. -/
def rng (k0 k1 k2 k3 v u c : Nat) : Nat × Nat × Nat × Nat :=
  rngRounds 10 (w32 c, w32 (c / 2 ^ 32) ^^^ k2, v, u ^^^ k3) k0 k1

/-- Word i (0 to 3) of a block. -/
def rngWord (x : Nat × Nat × Nat × Nat) (i : Nat) : Nat :=
  match i with
  | 0 => x.1 | 1 => x.2.1 | 2 => x.2.2.1 | _ => x.2.2.2

end Sys2Proof.Machine
end

