-- ==== Sys2Proof/Machine/Vx.lean ====
section
/-! DEFINITION. The vector engine on one tile (05): the operands of each command and the cycles in which it reads and writes them
(R118, R127, R128, R133, R136, R137), the elements it writes, its checks and its records (R138). -/

namespace Sys2Proof.Machine

/-- One operand of a VX command: its specifier, the low bit of its offset field, the elements a 64-byte unit holds and
the bits of one element. -/
structure VxSide where
  spec : Nat
  off : Nat
  epl : Nat
  ebits : Nat
  deriving DecidableEq, Repr

/-- The fixed figures of a VX command: its steps, the step interval, the latency, the source elements of a step, its
sources in rank order and its destinations. -/
structure VxPar where
  n : Nat
  r : Nat
  lat : Nat
  per : Nat
  srcs : List VxSide
  dsts : List VxSide
  deriving DecidableEq, Repr

/-- Elements in a line and bits of an element, by format code (R127, R83). -/
def codeEpl (code : Nat) : Nat :=
  match code with
  | 0 => 8 | 1 => 16 | 2 => 32 | 3 => 32 | 4 => 16 | 6 => 128 | 0xD => 128 | 0xE => 1 | _ => 64
def codeBits (code : Nat) : Nat := if code = 0xE then 512 else fmtBits (fmtOf code)

/-- Four times the bytes that R127 counts for one element of a format. -/
def codeQuarters (code : Nat) : Nat :=
  match code with
  | 0 => 32 | 1 => 16 | 2 => 8 | 3 => 8 | 4 => 16 | 6 => 2 | 0xB => 3 | 0xC => 3 | 0xD => 2 | _ => 4

/-- The side of an operand in format `code`. -/
def vxSide (spec off code : Nat) : VxSide := ⟨spec, off, codeEpl code, codeBits code⟩

/-- Elements per full-width step. -/
def codePer (code : Nat) : Nat := 4 * codeEpl code

def vxFunc (b : Nat) : Nat := bitsAt b 91 5
def vxFmt (b : Nat) : Nat := bitsAt b 87 4
def vxTfmt (b : Nat) : Nat := bitsAt b 83 4
def vxRm (b : Nat) : Nat := bitsAt b 81 2
def vxSat (b : Nat) : Bool := bitAt b 80
/-- The steps of one group of VX.RED. -/
def redG (b : Nat) : Nat := bitsAt b 40 16 + 1
/-- The taps of VX.STN. -/
def stnTaps (b : Nat) : Nat := bitsAt b 18 6 + 1

/-- Tables 5-1, 5-2, 5-5, 5-7 and R127, R134, R137, R141 for a command's bits. -/
def vxPar (b : Nat) : VxPar :=
  let n := bitsAt b 24 16 + 1
  let fn := vxFunc b
  let fmt := vxFmt b
  let tfmt := vxTfmt b
  let sa := bitsAt b 72 8
  let sb := bitsAt b 64 8
  let sd := bitsAt b 56 8
  let sc := bitsAt b 48 8
  let se := bitsAt b 40 8
  match bitsAt b 96 3 with
  | 1 =>
    let (r, l) := ewTime fn (fmtOf fmt)
    ⟨n, r, l, codePer fmt,
      [vxSide sa 18 fmt] ++ (if ewUsesB fn then [vxSide sb 12 fmt] else [])
        ++ (if ewUsesC fn then [vxSide sc 6 fmt] else []), [vxSide sd 0 fmt]⟩
  | 2 =>
    let per := 1024 / nmax (codeQuarters fmt) (codeQuarters tfmt)
    let scale : VxSide := ⟨se, 6, 2048, 8⟩
    ⟨n, 1, if fn = 0 then 3 else 5, per, [vxSide sa 18 fmt] ++ (if fn = 2 then [scale] else []),
      [vxSide sd 12 tfmt] ++ (if fn = 1 then [scale] else [])⟩
  | 3 => ⟨n, 1, redLatency fn fmt tfmt, codePer fmt, [vxSide sa 5 fmt], [vxSide sd 64 tfmt]⟩
  | 4 =>
    let (r, l) := fnTime (fmtOf fmt)
    ⟨n, r, l, codePer fmt, [vxSide sa 18 fmt], [vxSide sd 12 fmt]⟩
  | 5 => ⟨n, 1, if fmt = 0 then 6 else 4, codePer fmt, [vxSide sb 12 fmt, vxSide sa 0 fmt], [vxSide sd 6 fmt]⟩
  | _ => ⟨n, 1, 14, codePer fmt, [], [vxSide sd 3 fmt]⟩

/-! Reading (R120, R130, R136). -/

/-- The source reads of one cycle: the tile, the tile as the cycle began, what this cycle has already read by line, the operation's operand lines,
and whether a line of the group at hand has been read. -/
structure VxRead where
  tl : Tile
  heads : Tile
  seen : List (Nat × Line × Bool)
  src : SMap Line
  kept : Bool
  deriving DecidableEq, Repr

/-- Operand line `idx` holds `v`. -/
def VxRead.put (x : VxRead) (idx : Nat) (v : Line) : VxRead := { x with src := smapPut (fun _ => Line.void) x.src idx v }

/-- Reads one line, sharing what the cycle has already read (R130). -/
def VxRead.line (x : VxRead) (c : Cmd) (idx slot l : Nat) (q : Option Nat) : VxRead :=
  match x.seen.find? (fun e => e.1 == l) with
  | some (_, v, lost) => { x.put idx v with kept := x.kept || !lost }
  | none =>
    let (tl, v, lost) := x.tl.engRead c .vx slot l q
    { x.put idx v with tl := tl, seen := (l, v, lost) :: x.seen, kept := x.kept || !lost }

/-- The pop of a group of `k` lines as one queue operation: it moves the pointer when any line of the group proceeds (R45). -/
def Tile.popGroup (tl : Tile) (c : Cmd) (eng : Engine) (slot q k : Nat) (kept : Bool) : Tile :=
  let tl := tl.notePop c q
  if kept then upto (fun _ tl => (tl.hzPop q eng slot).advHead q 1) 0 k tl else tl

/-- An out-of-range window (R136). -/
def Tile.windowFault (tl : Tile) (c : Cmd) (slot step q : Nat) : Tile :=
  ((((tl.bump rTlVxWindowCnt 1).orBits rTlVxStatus (2 ^ 30)).set rTlVxLastFault
    (2 ^ 31 + (step % 2 ^ 14) * 2 ^ 17 + c.word % 2 ^ 17)).event 0x26 1).raise 0x010B slot
    (c.word % 2 ^ 17 + q * 2 ^ 17)

/-- The detector's view of a window's line at ring position `pos`, `rel` lines from the head (Table 7-3). -/
def Tile.hzWindow (tl : Tile) (q pos : Nat) (rel : Int) (slot : Nat) : Tile :=
  let h := tl.hzQ q
  if rel < 0 then
    if ssetHas h.hist pos then tl
    else if ssetHas h.written pos then tl.hazard 5 q .vx slot else tl.hazard 4 q .vx slot
  else if ssetHas h.written pos then tl else tl.hazard 4 q .vx slot

/-- The lines a window with shift σ reads, counted from δ: the first and how many (R136). -/
def windowSpan (sigma : Int) : Int × Nat :=
  if sigma < 0 then (-1, 5) else if sigma = 0 then (0, 4) else (0, 5)

/-- Reads a window of queue `q` whose P is ring position `p0` and stands `prel` lines from the head: five lines, of which the
unread ones are zero. An out-of-range window leaves them void. -/
def VxRead.window (x : VxRead) (c : Cmd) (idx slot step q epl p0 : Nat) (prel delta sigma : Int) : VxRead :=
  let tl := x.tl.event 0x14 1
  let (s, k) := windowSpan sigma
  let lo := prel + delta + s
  let hi := lo + (k : Int) - 1
  let depth := tl.qDepth q
  let cap : Int := (depth : Int) - (tl.qHist q : Int)
  if (epl : Int) ≤ (sigma.natAbs : Int) ∨ lo < -(tl.qHist q : Int) ∨ cap - 1 < hi then
    { x with tl := tl.windowFault c slot step q }
  else
    let x := upto (fun w (x : VxRead) =>
      let pos := (((p0 : Int) + delta + s + (w : Int)) % (depth : Int)).toNat
      let x := { x with tl := x.tl.hzWindow q pos (lo + (w : Int)) slot }
      x.line c (idx + w) slot (x.tl.qLine q pos) none) 0 k { x with tl := tl }
    upto (fun w (x : VxRead) => x.put (idx + w) Line.zero) k (5 - k) x

/-- δ and σ of a window in VX.EW: bits 15:0 and 23:16 of the S register its offset field names (R136). -/
def windowDelta (c : Cmd) (off : Nat) : Int := signedAt (c.s (c.f off 5)) 16
def windowSigma (c : Cmd) (off : Nat) : Int := signedAt (bitsAt (c.s (c.f off 5)) 16 8) 8

/-- The elements in a line of an operand; a line of block scales holds 64. -/
def lineElems (s : VxSide) : Nat := if s.epl = 2048 then 64 else s.epl

/-- The lines an operand reads over `n` steps. -/
def sideCount (q : VxPar) (s : VxSide) : Nat :=
  match specKind s.spec with
  | 0 => cdiv (q.n * q.per) s.epl
  | 1 => cdiv (q.n * q.per) s.epl
  | 2 => 5 * q.n
  | _ => 0

/-- Step `i` of operand `s`, whose lines start at `base` among the operation's: the units first needed in this step, or
the window. -/
def VxRead.side (x : VxRead) (o : Op) (slot i : Nat) (q : VxPar) (base : Nat) (s : VxSide) : VxRead :=
  let c := o.cmd
  let lo := cdiv (i * q.per) s.epl
  let k := cdiv ((i + 1) * q.per) s.epl - lo
  let qn := specIdx s.spec
  let head := x.heads.qHead qn
  match specKind s.spec with
  | 0 =>
    let x := upto (fun j (x : VxRead) => x.line c (base + lo + j) slot (x.tl.qLine qn (head + j)) (some qn)) 0 k { x with kept := false }
    { x with tl := x.tl.popGroup c .vx slot qn k x.kept }
  | 1 => upto (fun j (x : VxRead) =>
      match descByte (o.desc qn) (c.offset s.off) j 64 with
      | none => { x with tl := x.tl.addrBound qn .vx slot }
      | some b => x.line c (base + j) slot (b / 64) none) lo k x
  | 2 => x.window c (base + 5 * i) slot i qn (lineElems s) head 0 (windowDelta c s.off) (windowSigma c s.off)
  | _ => x

/-- Step `i` of every operand in rank order. -/
def vxSides (o : Op) (slot i : Nat) (q : VxPar) : Nat → List VxSide → VxRead → VxRead
  | _, [], x => x
  | base, s :: ss, x => vxSides o slot i q (base + sideCount q s) ss (x.side o slot i q base s)

/-- The tap units of VX.STN. -/
def stnUnits (b : Nat) : Nat := cdiv (stnTaps b) 4

/-- The fields of tap entry k in its unit (R137): coefficient, δ and σ. -/
def tapCoef (fmt : Nat) (l : Line) (k : Nat) : Nat :=
  bitsAt l.data.toNat (128 * (k % 4)) (if fmt = 0 then 64 else 32)
def tapDelta (l : Line) (k : Nat) : Int := signedAt (bitsAt l.data.toNat (128 * (k % 4) + 64) 16) 16
def tapSigma (l : Line) (k : Nat) : Int := signedAt (bitsAt l.data.toNat (128 * (k % 4) + 80) 8) 8

/-- The outputs of VX.STN's batch β. -/
def stnBatch (n beta : Nat) : Nat := satTo 8 (n - 8 * beta)

/-- The place among the operation's lines of the window that output i reads at tap k: windows lie in the order of their
cycles after the tap units. -/
def stnWindow (b n i k : Nat) : Nat :=
  let t := stnTaps b
  let beta := i / 8
  stnUnits b + 5 * (8 * beta * t + k * stnBatch n beta + i % 8)

/-- Lines of queue `q` popped since the operation issued. -/
def Op.popped (o : Op) (tl : Tile) (q : Nat) : Nat := (tl.qPop q + 2 ^ 32 - o.pop0) % 2 ^ 32

/-- The source reads of VX.STN in its `y`-th cycle (R137): a tap unit, or tap k's window for output i, which pops four lines at the last tap. -/
def stnRead (o : Op) (q : VxPar) (slot y : Nat) (x : VxRead) : VxRead :=
  let c := o.cmd
  let b := c.bits.toNat
  let t := stnTaps b
  let d := specIdx (bitsAt b 64 8)
  let qn := specIdx (bitsAt b 72 8)
  if y < stnUnits b then
    match descByte (o.desc d) (c.offset 12) y 64 with
    | none => { x with tl := x.tl.addrBound d .vx slot }
    | some a => x.line c y slot (a / 64) none
  else
    let w := y - stnUnits b
    let k := w % (8 * t) / 8
    let i := 8 * (w / (8 * t)) + w % 8
    if q.n ≤ i then x
    else
      let l := o.line (k / 4)
      let x := x.window c (stnWindow b q.n i k) slot i qn (codeEpl (vxFmt b)) (o.head0 + 4 * i)
        (4 * (i : Int) - (o.popped x.heads qn : Int)) (tapDelta l k) (tapSigma l k)
      if k + 1 = t then { x with tl := x.tl.popGroup c .vx slot qn 4 true } else x

/-- The source reads of operation `o` in cycle `slot`. -/
def vxReadAt (heads : Tile) (slot : Nat) (o : Op) (tl : Tile) : Tile × Op :=
  let q := vxPar o.cmd.bits.toNat
  let y := slot - (o.issued + 4)
  if o.cmd.op = 0 ∨ slot < o.issued + 4 ∨ o.srcEnd < slot then (tl, o)
  else
    let x : VxRead := ⟨tl, heads, [], o.src, false⟩
    let x :=
      if o.cmd.op = 5 then stnRead o q slot y x
      else if y % q.r = 0 then vxSides o slot (y / q.r) q 0 q.srcs x
      else x
    (x.tl, { o with src := x.src })

/-! Elements (R118, R127, R136). -/

/-- The bit in a unit at which element `e` starts. -/
def elemBit (ebits e : Nat) : Nat :=
  if ebits = 6 then (e / 32) * 192 + 6 * (e % 32) else ebits * e

/-- Element `j` of a window with shift σ, whose five lines start at `base`: its bits and its poison. A window whose shift is out of range is the zero
poisoned vector (R136). -/
def windowElem (o : Op) (base epl ebits : Nat) (sigma : Int) (j : Nat) : Nat × Bool :=
  if epl ≤ sigma.natAbs then (0, true)
  else
    let e := (sigma + (j : Int) + (if sigma < 0 then (epl : Int) else 0)).toNat
    let l := o.line (base + e / epl)
    (bitsAt l.data.toNat (elemBit ebits (e % epl)) ebits, l.poison)

/-- Element `j` of step `i` of operand `s`, whose lines start at `base`: its bits and its poison. A broadcast takes the low bits of the register, as many
as the element has: also for a 4-bit or 6-bit element or an image, where R120 names 64, 32, 16 and 8 only (DESIGN CHOICE, log entry 77). -/
def vxElem (q : VxPar) (o : Op) (base : Nat) (s : VxSide) (i j : Nat) : Nat × Bool :=
  match specKind s.spec with
  | 2 => windowElem o (base + 5 * i) s.epl s.ebits (windowSigma o.cmd s.off) j
  | 3 => (bitsAt (o.cmd.s (specIdx s.spec)) 0 s.ebits, false)
  | _ =>
    let e := i * q.per + j
    let l := o.line (base + e / s.epl)
    (bitsAt l.data.toNat (elemBit s.ebits (e % s.epl)) s.ebits, l.poison)

/-- Element `j` of step `i` of source number `k`; 0 for an operand the function does not use. -/
def vxSrc (q : VxPar) (o : Op) (k i j : Nat) : Nat × Bool :=
  match q.srcs[k]? with
  | none => (0, false)
  | some s => vxElem q o ((q.srcs.take k).foldl (fun a x => a + sideCount q x) 0) s i j

/-- Whether lane `l` produces element `e` of a step of `per` elements (Table 5-1). -/
def inLane (per l e : Nat) : Bool :=
  let lo := l * per / 64
  decide (lo ≤ e) && decide (e < nmax ((l + 1) * per / 64) (lo + 1))

/-! Upsets (R138). -/

/-- Whether a command's results come from residue-checked stages: the arithmetic functions of VX.EW, the sums of VX.RED, VX.STN. -/
def vxResidue (b : Nat) : Bool :=
  match bitsAt b 96 3 with
  | 1 => decide (1 ≤ vxFunc b ∧ vxFunc b ≤ 6)
  | 3 => decide (vxFunc b = 0 ∨ 4 ≤ vxFunc b)
  | 5 => true
  | _ => false

/-- The step and the lane of an upset. -/
def upStep : VxUpset → Nat
  | .flip i _ _ => i
  | .add i _ _ => i
def upLane : VxUpset → Nat
  | .flip _ l _ => l
  | .add _ l _ => l

/-- Whether the checks find an upset of command `b`: an odd number of inverted bits, or a change that is not a multiple of 255. -/
def upCaught (b : Nat) (u : VxUpset) : Bool :=
  decide (upLane u < 64) && (match u with
    | .flip _ _ m => oddBits 32 m
    | .add _ _ d => vxResidue b && decide (d % 255 ≠ 0))

/-- Whether a failing check hit element `e` of step `i`. -/
def laneHit (q : VxPar) (o : Op) (i e : Nat) : Bool :=
  o.vx.any (fun u => upCaught o.cmd.bits.toNat u && upStep u == i && inLane q.per (upLane u) e)

/-- The bits of element `e`, of `ebits` bits in a step of `per`, that the bits `mask` of lane `l`'s word are. Several lanes share a wide element. -/
def elemMask (per ebits l mask e : Nat) : Nat :=
  if per < 64 then (mask % 2 ^ 32 * 2 ^ (32 * (l % (64 / per)))) % 2 ^ ebits
  else bitsAt (mask % 2 ^ 32) (ebits * (e - l * per / 64)) ebits

/-- The bits that upsets invert in element `e` of step `i`. -/
def elemFlips (q : VxPar) (o : Op) (ebits i e : Nat) : Nat :=
  o.vx.foldl (fun a u => match u with
    | .flip i' l m => if i' = i ∧ l < 64 ∧ inLane q.per l e then a ^^^ elemMask q.per ebits l m e else a
    | .add _ _ _ => a) 0

/-- What upsets add to the exact result of element `e` of step `i`, the first of its lane. -/
def elemAdds (q : VxPar) (o : Op) (i e : Nat) : Int :=
  o.vx.foldl (fun a u => match u with
    | .add i' l d => if i' = i ∧ l < 64 ∧ e = l * q.per / 64 then a + d else a
    | .flip _ _ _ => a) 0

/-- A result element with the bits that upsets invert. -/
def hitBits (q : VxPar) (o : Op) (ebits i e v : Nat) : Nat := v ^^^ elemFlips q o ebits i e

/-- One result element: its bits, its conditions, its poison. -/
abbrev VxOut := Nat × Conds × Bool

/-- Step `i` of VX.EW. -/
def ewStep (q : VxPar) (o : Op) (i : Nat) : List VxOut :=
  let b := o.cmd.bits.toNat
  let fn := vxFunc b
  let cAt := if ewUsesB fn then 2 else 1
  (List.range q.per).map (fun j =>
    let x := vxSrc q o 0 i j
    let y := if ewUsesB fn then vxSrc q o 1 i j else (0, false)
    let z := if ewUsesC fn then vxSrc q o cAt i j else (0, false)
    let (v, f) := ewElem fn (fmtOf (vxFmt b)) (vxRm b) (vxSat b) (elemAdds q o i j) x.1 y.1 z.1
    (hitBits q o (codeBits (vxFmt b)) i j v, f, x.2 || y.2 || z.2 || laneHit q o i j))

/-- Step `i` of VX.FN. -/
def fnStep (q : VxPar) (o : Op) (i : Nat) : List VxOut :=
  let b := o.cmd.bits.toNat
  (List.range q.per).map (fun j =>
    let x := vxSrc q o 0 i j
    let (v, f) := fnElem (vxFunc b) (fmtOf (vxFmt b)) x.1
    (hitBits q o (codeBits (vxFmt b)) i j v, f, x.2 || laneHit q o i j))

/-- Step `i` of VX.CVT CONVERT. -/
def cvtStep (q : VxPar) (o : Op) (i : Nat) : List VxOut :=
  let b := o.cmd.bits.toNat
  (List.range q.per).map (fun j =>
    let x := vxSrc q o 0 i j
    let (v, f) := convNum (fmtOf (vxTfmt b)) (vxRm b) (vxSat b) (decodeNum (fmtOf (vxFmt b)) x.1)
    (hitBits q o (codeBits (vxTfmt b)) i j v, f, x.2 || laneHit q o i j))

/-- Step `i` of VX.CVT UNPACK: element j takes scale j div 32 of the step. -/
def unpackStep (q : VxPar) (o : Op) (i : Nat) : List VxOut :=
  let b := o.cmd.bits.toNat
  (List.range q.per).map (fun j =>
    let x := vxSrc q o 0 i j
    let sc := match q.srcs[1]? with
      | none => (0, false)
      | some s =>
        let base := (q.srcs.take 1).foldl (fun a x => a + sideCount q x) 0
        let blk := (i * q.per + j) / 32
        match specKind s.spec with
        | 2 =>
          let v := vxElem { q with per := 64 } o base { s with epl := 64 } i (j / 32)
          v
        | 3 => (bitsAt (o.cmd.s (specIdx s.spec)) 0 8, false)
        | _ =>
          let l := o.line (base + blk / 64)
          (lineByte l (blk % 64), l.poison)
    let (v, f) := convNum (fmtOf (vxTfmt b)) (vxRm b) false (scaledNum (fmtOf (vxFmt b)) sc.1 x.1)
    (hitBits q o (codeBits (vxTfmt b)) i j v, f, x.2 || sc.2 || laneHit q o i j))

/-- One block of VX.CVT PACK: block `k` of step `i` as its elements and its scale. -/
def packBlk (q : VxPar) (o : Op) (i k : Nat) : List VxOut × VxOut :=
  let b := o.cmd.bits.toNat
  let xs := (List.range 32).map (fun e => vxSrc q o 0 i (32 * k + e))
  let p := (List.range 32).any (fun e => (xs.getD e (0, false)).2 || laneHit q o i (32 * k + e))
  let (s, es, fs) := packBlock (fmtOf (vxTfmt b)) (vxRm b) (xs.map (fun x => decodeNum (fmtOf (vxFmt b)) x.1))
  ((List.range 32).map (fun e => (hitBits q o (codeBits (vxTfmt b)) i (32 * k + e) (es.getD e 0), fs.getD e 0, p)), (s, 0, p))

/-- Output `i` of VX.STN; an upset that adds to a result adds to the last tap's. -/
def stnStep (q : VxPar) (o : Op) (i : Nat) : List VxOut :=
  let b := o.cmd.bits.toNat
  let fmt := vxFmt b
  let f := fmtOf fmt
  let epl := codeEpl fmt
  (List.range q.per).map (fun (j : Nat) =>
    let r := (List.range (stnTaps b)).foldl (fun (s : Nat × Conds × Bool) k =>
      let tap := o.line (k / 4)
      let x := windowElem o (stnWindow b q.n i k) epl (codeBits fmt) (tapSigma tap k) j
      let (v, c) := finish f (vxRm b) (bumpNum (if k + 1 = stnTaps b then elemAdds q o i j else 0)
        (fmaNum (vxRm b) (decodeNum f (tapCoef fmt tap k)) (decodeNum f x.1) (decodeNum f s.1)))
      (v, s.2.1 ||| c, s.2.2 || tap.poison || x.2)) (0, 0, false)
    (hitBits q o (codeBits fmt) i j r.1, r.2.1, r.2.2 || laneHit q o i j))

/-- The inputs of VX.RNG (R141): the seed's words, v, u and C. `tid` is TL_ID's virtual index. -/
def rngBlock (o : Op) (v c : Nat) : Nat × Nat × Nat × Nat :=
  let b := o.cmd.bits.toNat
  let s0 := o.cmd.s (bitsAt b 19 5)
  let s1 := o.cmd.s (bitsAt b 19 5 + 1)
  rng (w32 s0) (s0 / 2 ^ 32) (w32 s1) (s1 / 2 ^ 32) v (w32 (o.cmd.s (bitsAt b 14 5))) c

/-- The virtual tile index that VX.RNG takes for v when VIDX is disabled: VY and VX of TL_ID. -/
def Tile.virtualIndex (tl : Tile) : Nat := bitsAt (tl.get rTlId) 8 11

/-- Step `i` of VX.RNG. -/
def rngStep (q : VxPar) (o : Op) (vid : Nat) (i : Nat) : List VxOut :=
  let b := o.cmd.bits.toNat
  let v := if bitAt b 77 then w32 (o.cmd.s (bitsAt b 72 5)) else vid
  let base := o.cmd.s (bitsAt b 9 5)
  let words := (List.range 16).map (fun g => rngBlock o v ((base + 16 * i + g) % 2 ^ 64))
  let word (e : Nat) : Nat := rngWord (words.getD (e / 4) (0, 0, 0, 0)) (e % 4)
  (List.range q.per).map (fun e =>
    let x := match vxFmt b with
      | 4 => word e
      | 1 => (roundFin .b32 0 false false (word e / 2 ^ 8) (-24)).1
      | _ => (roundFin .b64 0 false false (word (2 * e + 1) * 2 ^ 21 + word (2 * e) / 2 ^ 11) (-53)).1
    (hitBits q o (codeBits (vxFmt b)) i e x, 0, laneHit q o i e))

/-! Reductions (R131, R132). -/

/-- The elements of step `i`. -/
def redElems (q : VxPar) (o : Op) (i : Nat) : List (Nat × Bool) := (List.range q.per).map (vxSrc q o 0 i)

/-- Group `g`'s accumulator and the inputs that were off its grid. Upsets invert bits of an element's term and add to V. -/
def redAcc (q : VxPar) (o : Op) (g : Nat) : Acc × Nat :=
  let b := o.cmd.bits.toNat
  let k := redG b
  let fresh := Acc.fresh (signedAt (bitsAt b 11 13) 13)
  (List.range k).foldl (fun (a : Acc × Nat) d =>
    (List.range q.per).foldl (fun (a : Acc × Nat) j =>
      let x := vxSrc q o 0 (g * k + d) j
      let v := hitBits q o (codeBits (vxFmt b)) (g * k + d) j x.1
      let (acc, low) :=
        if vxFunc b = 5 then
          let im := Acc.ofImage v
          (a.1.combine { im with poison := im.poison || x.2 }, false)
        else a.1.add (decodeNum (fmtOf (vxFmt b)) v) x.2
      ({ acc with v := acc.v + elemAdds q o (g * k + d) j }, a.2 + b2n low)) a) (fresh, 0)

/-- FP_INVALID for a signalling NaN that ESUM adds in group `g`, once for the group (03 R78; DEDUCED, log entry 80). -/
def redSnan (q : VxPar) (o : Op) (g : Nat) : Conds :=
  let b := o.cmd.bits.toNat
  let k := redG b
  if vxFunc b = 4 ∧ (List.range k).any (fun d => (redElems q o (g * k + d)).any (fun x => isSnan (decodeNum (fmtOf (vxFmt b)) x.1))) then cInvalid else 0

/-- An integer whose low 32 bits are inverted by `mask`. -/
def flipWord (mask : Nat) (v : Int) : Int := v + ((((v % 2 ^ 32).toNat ^^^ mask : Nat) : Int) - v % 2 ^ 32)

/-- What lane `l` adds to an integer sum over group `g`: its running value, step by step, with the upsets of the lane. -/
def laneTotal (q : VxPar) (o : Op) (g l : Nat) : Int :=
  let b := o.cmd.bits.toNat
  (List.range (redG b)).foldl (fun a d =>
    let i := g * redG b + d
    let s := ((List.range q.per).filter (inLane q.per l)).foldl (fun a j => a + elemInt (fmtOf (vxFmt b)) (vxSrc q o 0 i j).1) a
    o.vx.foldl (fun s u => if upStep u = i ∧ upLane u = l then (match u with
      | .flip _ _ m => flipWord (m % 2 ^ 32) s
      | .add _ _ x => s + x) else s) s) 0

/-- The result of group `g`: its bits, its conditions and its poison (R131, R132, R138). -/
def redGroup (q : VxPar) (o : Op) (g : Nat) : VxOut :=
  let b := o.cmd.bits.toNat
  let k := redG b
  let f := fmtOf (vxFmt b)
  let hit := o.vx.any (fun u => upCaught b u && upStep u / k == g)
  let steps := (List.range k).map (fun d => redElems q o (g * k + d))
  let p := hit || steps.any (fun s => s.any (·.2))
  match vxFunc b with
  | 0 =>
    if fmtInt f then
      let (r, c) := intResult .i32 (vxSat b) ((List.range 64).foldl (fun a l => a + laneTotal q o g l) 0)
      (r, c, p)
    else
      let (r, c) := sumGroup f (vxRm b) (fun d l => elemFlips q o (fmtBits f) (g * k + d) l) (fun d l => elemAdds q o (g * k + d) l)
        (steps.map (fun s => s.map (·.1)))
      (r, c, p)
  | 4 | 5 =>
    let a := (redAcc q o g).1
    let a := { a with poison := a.poison || hit }
    let p := p || a.poison
    let (r, c) := if vxTfmt b = 0xE then (a.image, 0) else a.round (fmtOf (vxTfmt b)) (vxRm b)
    (r, c ||| redSnan q o g, p)
  | fn =>
    let (r, c) := extremeGroup fn f ((List.range k).flatMap (fun d =>
      (List.range q.per).map (fun j => hitBits q o (fmtBits f) (g * k + d) j (vxSrc q o 0 (g * k + d) j).1)))
    (r, c, p)

/-! Destinations (R127, R128, R133, R137). -/

/-- The elements that destination `side` of an operation takes from step `i`. -/
def vxStep (q : VxPar) (o : Op) (vid : Nat) (side i : Nat) : List VxOut :=
  match o.cmd.op with
  | 1 => ewStep q o i
  | 2 =>
    match vxFunc o.cmd.bits.toNat with
    | 0 => cvtStep q o i
    | 2 => unpackStep q o i
    | _ => (List.range (q.per / 32)).flatMap (fun k =>
        let x := packBlk q o i k
        if side = 0 then x.1 else [x.2])
  | 4 => fnStep q o i
  | 5 => stnStep q o i
  | _ => rngStep q o vid i

/-- Elements `lo` to `hi - 1` of destination `side`. -/
def vxOutRange (q : VxPar) (o : Op) (vid : Nat) (side lo hi : Nat) : List VxOut :=
  if o.cmd.op = 3 then (List.range (hi - lo)).map (fun g => redGroup q o (lo + g))
  else
    let per := if side = 0 then q.per else q.per / 32
    let i := lo / per
    (((List.range (cdiv hi per - i)).flatMap (fun d => vxStep q o vid side (i + d))).drop (lo - i * per)).take (hi - lo)

/-- The elements of destination `d` an operation writes in all, and in one unit. -/
def outTotal (b : Nat) (q : VxPar) (d : VxSide) : Nat :=
  if bitsAt b 96 3 = 3 then q.n / redG b else if d.epl = 2048 then q.n * q.per / 32 else q.n * q.per
def outEpl (d : VxSide) : Nat := lineElems d

/-- The units of destination `d`. -/
def outUnits (b : Nat) (q : VxPar) (d : VxSide) : Nat := cdiv (outTotal b q d) (outEpl d)

/-- The slot, counted from the issue slot, in which unit `k` of destination `d` is written. -/
def outSlot (b : Nat) (q : VxPar) (d : VxSide) (k : Nat) : Nat :=
  match bitsAt b 96 3 with
  | 3 =>
    let g := satTo ((k + 1) * d.epl) (q.n / redG b) - 1
    4 + redG b * (g + 1) - 1 + q.lat
  | 5 =>
    let i := k / 4
    let t := stnTaps b
    4 + stnUnits b + 8 * t * (i / 8) + 8 * (t - 1) + i % 8 + q.lat
  | _ =>
    let step := satTo (cdiv ((k + 1) * d.epl) q.per - 1) (q.n - 1)
    4 + q.r * step + q.lat

/-- The first and last slots, counted from the issue slot, of all the writes. -/
def outFirst (b : Nat) (q : VxPar) : Nat :=
  q.dsts.foldl (fun a d => satTo a (outSlot b q d 0)) (outSlot b q (q.dsts.headD ⟨0, 0, 1, 1⟩) 0)
def outLast (b : Nat) (q : VxPar) : Nat := q.dsts.foldl (fun a d => nmax a (outSlot b q d (outUnits b q d - 1))) 0

/-- The last cycle of the source phase, counted from the issue slot. -/
def srcLast (b : Nat) (q : VxPar) : Nat :=
  if bitsAt b 96 3 = 5 then 3 + stnUnits b + 8 * stnTaps b * cdiv q.n 8 else 4 + q.r * (q.n - 1)

/-- A unit of `epl` elements as its data, its mask and its poison: a partly filled unit writes only the words its elements
reach, with 0 where no element lies (R127). -/
def unitOf (d : VxSide) (es : List VxOut) : Nat × Nat × Bool :=
  let data := (List.range es.length).foldl (fun a k => a + (es.getD k (0, 0, false)).1 * 2 ^ elemBit d.ebits k) 0
  let words := if es.length = outEpl d then 8 else cdiv (elemBit d.ebits (es.length - 1) + d.ebits) 64
  (data, lowWords words, es.any (fun e => e.2.2))

/-- How many units from `k` on fall in the slot of unit `k`. -/
def groupLen (b : Nat) (q : VxPar) (d : VxSide) (k : Nat) : Nat :=
  ((List.range 4).filter (fun j => decide (k + j < outUnits b q d) && outSlot b q d (k + j) == outSlot b q d k)).length

/-- Writes the units of one group, which fall in one cycle: the lines of a push are one queue operation, which moves TAIL when any of them proceeds (R45). -/
def vxWriteGroup (heads : Tile) (slot : Nat) (d : VxSide) (k : Nat) (units : List (Nat × Nat × Bool)) (o : Op) (tl : Tile) : Tile :=
  let qn := specIdx d.spec
  let m := units.length
  if specKind d.spec = 0 then
    let step := fun (j : Nat) (x : Tile × Bool) =>
      let (data, mask, p) := units.getD j (0, 0, false)
      let l := x.1.qLine qn (heads.qTail qn + j)
      let (tl, lost) := x.1.claim .vx slot l
      if lost then (tl, x.2) else (tl.engWrite o.cmd slot l mask data p, true)
    let (tl, kept) := upto step 0 m (tl.notePush o.cmd qn, false)
    if kept then upto (fun _ tl => (tl.hzPush qn .vx slot true).advPush qn 1) 0 m tl else tl
  else
    upto (fun j (tl : Tile) =>
      let (data, mask, p) := units.getD j (0, 0, false)
      tl.storeUnit o .vx slot qn (o.cmd.offset d.off) (k + j) mask data p) 0 m tl

/-- The writes of operation `o` to destination `side` in cycle `slot`; `vid` is the tile's virtual index. -/
def vxWriteAt (heads : Tile) (slot side : Nat) (o : Op) (tl : Tile) : Tile × Op :=
  let b := o.cmd.bits.toNat
  let q := vxPar b
  match q.dsts[side]? with
  | none => (tl, o)
  | some d =>
    let k := o.wrote.getD side 0
    if o.cmd.op = 0 ∨ outUnits b q d ≤ k ∨ o.issued + o.shift + outSlot b q d k ≠ slot then (tl, o)
    else
      let m := nmax 1 (groupLen b q d k)
      let lo := k * outEpl d
      let es := vxOutRange q o tl.virtualIndex side lo (satTo (outTotal b q d) ((k + m) * outEpl d))
      let units := (List.range m).map (fun j => unitOf d ((es.drop (outEpl d * j)).take (outEpl d)))
      (vxWriteGroup heads slot d k units o (tl.conds (es.map (fun e => e.2.1))), { o with wrote := o.wrote.set side (k + m) })

/-- VX's accesses in cycle `slot`, in the order of R130: D, the sources, E. `heads` is the tile as the cycle begins. -/
def Tile.vxCycle (heads : Tile) (slot : Nat) (tl : Tile) : Tile :=
  let (tl, fl) := eachOp (vxWriteAt heads slot 0) tl.vx.flight tl
  let (tl, fl) := eachOp (vxReadAt heads slot) fl tl
  let (tl, fl) := eachOp (vxWriteAt heads slot 1) fl tl
  { tl with vx := { tl.vx with flight := fl } }

/-! Checks and records at retirement (R86, R88, R138). -/

/-- The failing steps of an operation, in order. -/
def failSteps (q : VxPar) (o : Op) : List Nat :=
  (List.range q.n).filter (fun i => o.vx.any (fun u => upCaught o.cmd.bits.toNat u && upStep u == i))

/-- The checks of a retiring operation (R138): one record in the retirement cycle. -/
def Tile.vxChecks (tl : Tile) (t : Nat) (o : Op) (steps : List Nat) : Tile :=
  match steps.getLast? with
  | none => tl
  | some i =>
    let k := steps.length
    ((((tl.bump rTlVxResidueCnt k).event 0x25 k).orBits rTlVxStatus (2 ^ 31)).set rTlVxLastFault
      ((i % 2 ^ 14) * 2 ^ 17 + o.cmd.word % 2 ^ 17)).raiseInj 0x010A t
      (o.cmd.word % 2 ^ 17 + satTo (2 ^ 15 - 1) k * 2 ^ 17) o.injected

/-- What ESUM and ECOMB record: inputs off the grid and range events (R86, R88). -/
def Tile.redRecords (tl : Tile) (t : Nat) (o : Op) (q : VxPar) : Tile :=
  let b := o.cmd.bits.toNat
  let accs := (List.range (q.n / redG b)).map (redAcc q o)
  let tl := tl.event 0x21 (accs.foldl (fun a x => a + x.2) 0)
  if vxTfmt b = 0xE then tl
  else
    let bad := accs.filter (fun x => x.1.range)
    if bad.isEmpty then tl
    else (tl.event 0x22 bad.length).raise 0x010C t (o.cmd.word % 2 ^ 17 + b2n (bad.any (fun x => x.1.high)) * 2 ^ 17
      + b2n (bad.any (fun x => x.1.ovf)) * 2 ^ 18 + b2n (bad.any (fun x => x.1.mismatch)) * 2 ^ 19)

end Sys2Proof.Machine
end

