-- ==== Sys2Proof/Machine/Cycle.lean ====
section
/-! DEFINITION. The passing of slots on a tile (02 R45, R63): the engines' accesses of each cycle, the growth of D, the slots charged (15 R379). -/

namespace Sys2Proof.Machine

/-! MV's source reads (06 R146). -/

/-- Where a sending command finds its source specifier, its offset field and its lines, in this order (06 Table 6-1). -/
def mvSpec (c : Cmd) : Nat := c.f 88 8
def mvOff (c : Cmd) : Nat := match c.op with
  | 1 => 34
  | 2 => 29
  | _ => 13
/-- The lines that a sending command reads; 0 for every other command. -/
def mvLen (c : Cmd) : Nat := match c.op with
  | 1 => c.f 52 14 + 1
  | 2 => c.f 47 7 + 1
  | 4 => c.f 25 14 + 1
  | _ => 0

/-- Reads source line `i` of operation `o`, the `k`-th of its cycle, and puts it into the tile's outbox. An eve line is an ESCAPE and goes out as the
void line (06 R149). -/
def mvReadLine (heads : Tile) (slot i k : Nat) (o : Op) (tl : Tile) : Tile × Op :=
  let spec := mvSpec o.cmd
  let (tl, l) :=
    if specKind spec = 0 then tl.popLine heads o.cmd .mv slot (specIdx spec) k
    else tl.scratchUnit o .mv slot (specIdx spec) (o.cmd.offset (mvOff o.cmd)) i 64
  ({ tl with outbox := tl.outbox ++ [(o.id, i, l)] }, o.setLine i l)

/-- The source reads of operation `o` in cycle `slot`: two lines per cycle from its issue slot + 2 (06 Table 6-2); a line is handed to the router in the
cycle after. -/
def mvReadAt (heads : Tile) (slot : Nat) (o : Op) (tl : Tile) : Tile × Op :=
  let len := mvLen o.cmd
  let out := satTo len (2 * (slot - (o.issued + 2))) - satTo len (2 * (slot - (o.issued + 3)))
  let tl := if slot < o.issued + 3 then tl else tl.event 0x0B out
  if slot < o.issued + 2 then (tl, o)
  else
    let i := 2 * (slot - (o.issued + 2))
    let (tl, o) := if i < len then mvReadLine heads slot i 0 o tl else (tl, o)
    if i + 1 < len then mvReadLine heads slot (i + 1) 1 o tl else (tl, o)

/-- MV's source reads in cycle `slot`; `heads` is the tile as the cycle begins. -/
def Tile.mvCycle (heads : Tile) (slot : Nat) (tl : Tile) : Tile :=
  let (tl, fl) := eachOp (mvReadAt heads slot) tl.mv.flight tl
  { tl with mv := { tl.mv with flight := fl } }

/-! Cycles. -/

/-- The engines' accesses of cycle `slot`, in the order of 02 R45: MV, MX, VX; the arrival writes of the cycle stand already in its list. Queue ends are where they
stood as the cycle began. -/
def Tile.cycle (slot : Nat) (tl : Tile) : Tile :=
  let heads := tl.heads
  { Tile.vxCycle heads slot (Tile.mxCycle heads slot (Tile.mvCycle heads slot tl)) with began := [] }

/-- The last cycle in which an operation in flight has an access. -/
def Tile.lastCycle (tl : Tile) : Nat := (tl.mv.flight ++ tl.mx.flight ++ tl.vx.flight).foldl (fun a o => nmax a o.retire) 0

/-- The accesses of the cycles `now` to `t - 1`. -/
def Tile.work (tl : Tile) (t : Nat) : Tile :=
  if tl.mx.flight.isEmpty && tl.vx.flight.isEmpty && tl.mv.flight.isEmpty then { tl with began := [] }
  else { upto Tile.cycle tl.now (satTo (t - tl.now) (tl.lastCycle + 1 - tl.now)) tl with began := [] }

/-- The engine without the operations that have retired: they leave flight with the cycle of their retirement (02 R65). -/
def Eng.drop (e : Eng) : Eng := { e with flight := e.flight.filter (fun o => !o.retired) }

/-- Whether an engine pops queue `q` in cycle `t` (02 R45). -/
def Tile.enginePops (tl : Tile) (q t : Nat) : Bool := (tl.cycle t).qPop q != tl.qPop q

/-- Leaves the slots `now` to `t - 1` behind: their accesses happen, D grows over those in which some due command stood at the head of its
queue (R63), and each engine's slots are charged. From `stop` on, the slot after its leap window, the tile is idle (01 R26, R28). -/
def Tile.pass (tl : Tile) (n frame alen t : Nat) : Tile :=
  if t ≤ tl.now then tl
  else
    let idle := decide (tl.stop ≤ tl.now)
    let tl := (if idle then tl else tl.work t).settle
    let s := if idle || tl.again.isSome then t else match tl.dueMin with
      | none => t
      | some d => let a := if d < tl.now then tl.now else d; if a < t then a else t
    let tl := ((tl.chargeSpan alen t s .mx |> Tile.chargeSpan alen t s .vx) |> Tile.chargeSpan alen t s .mv)
    let tl := tl.event 0x00 (below tl.now t alen)
    let tl := tl.event 0x01 ((t - tl.now) - below tl.now t alen)
    let tl := tl.event 0x3D (t - tl.now)
    let tl := if tl.seq.hold = .free ∨ idle then tl else tl.event 0x03 (t - tl.now)
    let k := if tl.again.isSome && !idle then t - tl.now else 0
    let tl := (tl.traceSlip n frame s t).slip (t - s)
    let tl := if k = 0 then tl else tl.countX k
    { tl with
      mvHeld := tl.mvHeld || (decide (s < t) && (match tl.dueOf .mv with
        | none => false
        | some d => decide (d ≤ t)))
      mx := tl.mx.drop, vx := tl.vx.drop, mv := tl.mv.drop
      now := t, accesses := tl.accesses.filter (fun a => decide (t ≤ a.slot)) }

/-- The FRAME trace record and the end of a run of slips at slot A (R382, Table 15-4). -/
def Tile.atEnd (tl : Tile) (n frame alen : Nat) : Tile :=
  (tl.endSlip n frame alen).emit n frame 7 3 alen
    (tl.get rTlDelay + tl.get rTlEveX * 2 ^ 32 + tl.retired * 2 ^ 64)

/-- Brings the tile to slot `t`, past the end of its own leap window where that lies before it. -/
def Tile.passStop (tl : Tile) (n frame alen t : Nat) : Tile :=
  if tl.now < tl.stop ∧ tl.stop ≤ t then (tl.pass n frame alen tl.stop).pass n frame alen t else tl.pass n frame alen t

/-- Brings the tile to slot `t` of a frame of almanac length `alen`. -/
def Tile.advance (tl : Tile) (n frame alen t : Nat) : Tile :=
  if tl.now < alen ∧ alen ≤ t then ((tl.passStop n frame alen alen).atEnd n frame alen).pass n frame alen t
  else tl.passStop n frame alen t

end Sys2Proof.Machine
end

