-- ==== Sys2Proof/Machine/Sequencer.lean ====
section
/-! DEFINITION. The sequencer of a tile (02 R51 to R58, Table 2-3; 09 R248): fetching, decoding and the effect of each
instruction on the tile, and the entry of an engine command into its command queue (R53, R61 to R63). -/

namespace Sys2Proof.Machine

/-- The two-operand scalar functions (Table 2-3, opcodes 0x10 to 0x18). -/
inductive AluOp where
  | add
  | sub
  | mul
  | and
  | or
  | xor
  | shl
  | shr
  | sra
  deriving DecidableEq, Repr

/-- A sequencer instruction (Tables 2-3 and 9-6). -/
inductive SqIns where
  | nop
  | endStream
  | loop (c len : Nat)
  | call (r : Nat)
  | hold (b k : Nat)
  | seti (d : Nat) (imm : W32)
  | sethi (d : Nat) (imm : W32)
  | addi (d a : Nat) (imm : W32)
  | alu (op : AluOp) (d a b : Nat)
  | pops (d q w : Nat)
  | eveOpen (sen : Bool) (a desc : Nat)
  | eveClose
  deriving DecidableEq, Repr

/-- What the word at the sequencer's next index is: past the region; illegal; a first half whose command its second word shows to be illegal, with the
index that its record names and the last word decoded; an instruction; a command. -/
inductive SqDec where
  | past
  | illegal
  | second (idx last : Nat)
  | ins (i : SqIns)
  | command (bits : Nat)
  deriving DecidableEq, Repr

/-- Opcodes 0x10 to 0x18. -/
def aluOf (code : Nat) : Option AluOp :=
  match code with
  | 0x10 => some .add | 0x11 => some .sub | 0x12 => some .mul | 0x13 => some .and | 0x14 => some .or
  | 0x15 => some .xor | 0x16 => some .shl | 0x17 => some .shr | 0x18 => some .sra | _ => none

/-- Scalar arithmetic on 64-bit two's-complement values, modulo 2^64 (R54). -/
def aluRun (op : AluOp) (x y : W64) : W64 :=
  match op with
  | .add => x + y
  | .sub => x - y
  | .mul => x * y
  | .and => x &&& y
  | .or => x ||| y
  | .xor => x ^^^ y
  | .shl => x <<< (y.toNat % 64)
  | .shr => x >>> (y.toNat % 64)
  | .sra => x.sshiftRight (y.toNat % 64)

/-- Whether every bit of a word outside the opcode and the named fields is 0. -/
def fieldsOnly (w : Nat) (fields : List (Nat × Nat)) : Bool :=
  fields.foldl (fun a f => a - bitsAt w f.1 f.2 * 2 ^ f.1) (bitsAt w 0 56) == 0

/-- The decoding of a word whose bit 63 is clear; none for an illegal word (Tables 2-3 and 9-6). -/
def sqDecode (w : Nat) : Option SqIns :=
  let d := bitsAt w 48 5
  let a := bitsAt w 40 5
  let imm := BitVec.ofNat 32 w
  match bitsAt w 56 7 with
  | 0x00 => if fieldsOnly w [] then some .nop else none
  | 0x01 => if fieldsOnly w [] then some .endStream else none
  | 0x02 => if fieldsOnly w [(48, 5), (0, 16)] ∧ bitsAt w 0 16 ≠ 0 then some (.loop d (bitsAt w 0 16)) else none
  | 0x03 => if fieldsOnly w [(0, 8)] then some (.call (bitsAt w 0 8)) else none
  | 0x04 =>
    if fieldsOnly w [(48, 4), (44, 3)] ∧ bitsAt w 44 3 ≠ 0 then some (.hold (bitsAt w 48 4) (bitsAt w 44 3)) else none
  | 0x08 => if fieldsOnly w [(48, 5), (0, 32)] then some (.seti d imm) else none
  | 0x09 => if fieldsOnly w [(48, 5), (0, 32)] then some (.sethi d imm) else none
  | 0x0A => if fieldsOnly w [(48, 5), (40, 5), (0, 32)] then some (.addi d a imm) else none
  | 0x20 =>
    if fieldsOnly w [(48, 5), (40, 6), (32, 3)] then some (.pops d (bitsAt w 40 6) (bitsAt w 32 3)) else none
  | 0x30 =>
    if fieldsOnly w [(50, 1), (40, 5), (0, 6)] then some (.eveOpen (bitAt w 50) a (bitsAt w 0 6)) else none
  | 0x31 => if fieldsOnly w [] then some .eveClose else none
  | c =>
    match aluOf c with
    | some op => if fieldsOnly w [(48, 5), (40, 5), (32, 5)] then some (.alu op d a (bitsAt w 32 5)) else none
    | none => none

/-- The spans of an eve range descriptor (Table 9-7). -/
def rangeSpans (d : Nat) : List (Nat × Nat) :=
  (List.range 4).filterMap (fun s =>
    if bitAt d (64 * (s + 1) + 63) then some (bitsAt d (64 * (s + 1)) 14, bitsAt d (64 * (s + 1) + 32) 14) else none)

/-- The descriptor that an SQ.EVE_OPEN names. -/
def Tile.openIdx (tl : Tile) (sen : Bool) (a desc : Nat) : Nat := (desc + (if sen then (tl.s a).toNat % 64 else 0)) % 64
/-- Its bits. -/
def Tile.openDesc (tl : Tile) (sen : Bool) (a desc : Nat) : Nat := tl.desc (tl.openIdx sen a desc)

/-- Whether two lists of spans share a line. -/
def spansMeet (a b : List (Nat × Nat)) : Bool := a.any (fun p => b.any (fun q => p.1 ≤ q.2 && q.1 ≤ p.2))

/-- Whether an SQ.EVE_CLOSE stands among the `k` words from `idx` on (Table 9-6). -/
def Tile.closesIn (tl : Tile) : Nat → Nat → Bool
  | 0, _ => false
  | k + 1, idx =>
    let l := (tl.readWords 0 (bitsAt (tl.get rTlInstr) 17 14 + idx / 8) (2 ^ (idx % 8))).2
    let w := bitsAt l.data.toNat (64 * (idx % 8)) 64
    if bitAt w 63 then (match k with
      | 0 => false
      | j + 1 => tl.closesIn j (idx + 2))
    else sqDecode w == some .eveClose || tl.closesIn k (idx + 1)

/-- Whether an instruction is legal where the sequencer stands (02 R56, R58; 09 R248). `defined` says whether the library
defines the routine an SQ.CALL names. -/
def Tile.insLegal (tl : Tile) (defined : Nat → Bool) (i : SqIns) : Bool :=
  match i with
  | .loop _ len =>
    decide (tl.seq.loops.length < 4) &&
      (match tl.seq.loops with
        | [] => true
        | l :: _ => decide (tl.seq.next + 1 + len ≤ l.stop))
      && (tl.openRange.isNone || !tl.closesIn len (tl.seq.next + 1))
  | .call r => bitAt (tl.get rTlId) 30 && defined r && tl.openRange.isNone
  | .hold _ _ => tl.openRange.isNone
  | .pops _ _ _ => tl.openRange.isNone
  | .endStream => tl.openRange.isNone
  | .eveOpen sen a desc =>
    tl.openRange.isNone &&
      tl.ranges.all (fun e => match e.2 with
        | none => true
        | some r => !spansMeet r.spans (rangeSpans (tl.openDesc sen a desc)))
  | .eveClose =>
    match tl.openRange with
    | none => false
    | some e => match tl.range e with
      | none => false
      | some r => r.depth == tl.seq.loops.length
  | _ => true

/-- Fetches word `idx` of the instruction region through the sequencer port: none past the region (Table 2-6). -/
def Tile.fetchWord (tl : Tile) (slot idx : Nat) : Tile × Option (Nat × Bool) :=
  let reg := tl.get rTlInstr
  if 8 * bitsAt reg 0 15 ≤ idx then (tl, none)
  else
    let (tl, l) := tl.readWords slot (bitsAt reg 17 14 + idx / 8) (2 ^ (idx % 8))
    (tl.event 0x17 1, some (bitsAt l.data.toNat (64 * (idx % 8)) 64, l.poison))

/-- Fetches and decodes what stands at the sequencer's next index, at a slot in which it may decode. -/
def Tile.sqFetch (tl : Tile) (slot : Nat) (defined : Nat → Bool) : Tile × SqDec :=
  match tl.fetchWord slot tl.seq.next with
  | (tl, none) => (tl, .past)
  | (tl, some (w, poisoned)) =>
    if poisoned then (tl, .illegal)
    else if bitAt w 63 then
      if tl.seq.next % 2 = 1 then (tl, .illegal)
      else
        match tl.fetchWord (slot + 1) (tl.seq.next + 1) with
        | (tl, none) => (tl, .second (tl.seq.next + 1) tl.seq.next)
        | (tl, some (w2, poisoned2)) =>
          let b := w * 2 ^ 64 + w2
          if poisoned2 then (tl, .second (tl.seq.next + 1) (tl.seq.next + 1))
          else if !tl.cmdLegal b then (tl, .second tl.seq.next (tl.seq.next + 1))
          else (tl, .command b)
    else
      match sqDecode w with
      | none => (tl, .illegal)
      | some i => if tl.insLegal defined i then (tl, .ins i) else (tl, .illegal)

/-- Whether the sequencer decodes its next word in slot `t`. -/
def Tile.sqReady (tl : Tile) (t : Nat) : Bool :=
  tl.seq.fetching && tl.seq.hold == .free && tl.seq.at_ == t && !tl.frozen

/-- The word after `next`, with the back-edges taken there: innermost levels whose passes are done close, the first
with passes left goes back to its first word at a cost of one cycle (R53, R56). A body whose last word is the first half of an engine command has no word
after it at which the level could close: the level stays open and the stream runs on. DESIGN CHOICE (log 70): the manual does not say. -/
def loopBack : Nat → List LoopLevel → Nat × List LoopLevel × Nat
  | next, [] => (next, [], 0)
  | next, l :: ls =>
    if next = l.stop then
      if 1 < l.left then (l.first, { l with left := l.left - 1 } :: ls, 1) else loopBack next ls
    else (next, l :: ls, 0)

/-- The sequencer goes on at word `next` after decoding in slot `at_`. -/
def Tile.seqGo (tl : Tile) (at_ next : Nat) : Tile :=
  let (n, ls, c) := loopBack next tl.seq.loops
  { tl with seq := { tl.seq with at_ := at_ + 1 + c, next := n, loops := ls, hold := .free } }

/-- The last word decoded (TL_SQ_PC) and its count. -/
def Tile.decoded (tl : Tile) (idx k : Nat) : Tile := (tl.set rTlPc (idx % 2 ^ 17)).event 0x02 k

/-- Runs the instruction at the sequencer's next index in slot `t` when it is one that `f` gives an effect: `f`'s
function changes the tile, and the sequencer goes on at the index it gives. -/
def Tile.sqDo (tl : Tile) (t : Nat) (defined : Nat → Bool) (f : SqIns → Option ((Tile → Tile) × Nat)) : Tile :=
  if tl.sqReady t then
    match tl.sqFetch t defined with
    | (tl', .ins i) =>
      match f i with
      | some (g, skip) => (g (tl'.decoded tl.seq.next 1)).seqGo t (tl.seq.next + 1 + skip)
      | none => tl
    | _ => tl
  else tl

/-- Sign extension of a 32-bit immediate (Table 2-3). -/
def immExt (imm : W32) : W64 := imm.signExtend 64

/-- SQ.LOOP (R56): a count of 0 skips the body. -/
def Tile.sqLoop (tl : Tile) (t : Nat) (defined : Nat → Bool) : Tile :=
  tl.sqDo t defined (fun i => match i with
    | .loop c len =>
      let n := (tl.s c).toNat
      if n = 0 then some (id, len)
      else some (fun tl' => { tl' with seq := { tl'.seq with
        loops := ⟨tl.seq.next + 1, tl.seq.next + 1 + len, n⟩ :: tl'.seq.loops } }, 0)
    | _ => none)

/-- The two-operand scalar instructions (R54). -/
def Tile.sqAlu (tl : Tile) (t : Nat) (defined : Nat → Bool) (op : AluOp) : Tile :=
  tl.sqDo t defined (fun i => match i with
    | .alu o d a b => if o = op then some (fun tl' => tl'.setS d (aluRun op (tl.s a) (tl.s b)), 0) else none
    | _ => none)

/-- The pop of SQ.POPS (R54): one line through the sequencer port; a poisoned one gives a fault record. An engine's pop
of the same queue in the same cycle makes it the loser, which delivers the void line and moves no pointer (R45). Outside every
range, an eve line is an ESCAPE (09 Table 9-5). A queue whose VALID is 0, which no rule makes illegal here, pops with the BASE and DEPTH that TL_Q_CFG
holds. DESIGN CHOICE (log 72). -/
def Tile.popLineSq (tl : Tile) (t q idx : Nat) : Tile × Line :=
  let l := tl.qLine q (tl.qHead q)
  let (tl, v) :=
    if tl.enginePops q t then (tl.collision (l % 32) .sq t, Line.void)
    else
      let (tl, v) := (tl.event 0x17 1).readLine t l
      let eve := tl.eveBit l
      let tl := (tl.hzPop q .sq t).advHead q 1
      if eve then (tl.escape t idx, .void) else (tl, v)
  (if v.poison then (tl.orBits rTlStatus stPoisonScalar).raise 0x0104 t idx else tl, v)

/-- SQ.POPS takes word `w` of the line popped, or 0 (R54). -/
def Tile.popScalar (tl : Tile) (t d q w idx : Nat) : Tile :=
  let (tl, v) := tl.popLineSq t q idx
  tl.setS d (if v.poison then 0 else BitVec.ofNat 64 (bitsAt v.data.toNat (64 * w) 64))

def Tile.sqPops (tl : Tile) (t : Nat) (defined : Nat → Bool) : Tile :=
  tl.sqDo t defined (fun i => match i with
    | .pops d q w => some (fun tl' => tl'.popScalar t d q w tl.seq.next, 0)
    | _ => none)

/-- SQ.END (R51). -/
def Tile.sqEnd (tl : Tile) (t : Nat) (defined : Nat → Bool) : Tile :=
  tl.sqDo t defined (fun i => match i with
    | .endStream => some (fun tl' => { tl' with seq := { tl'.seq with fetching := false, ended := true } }, 0)
    | _ => none)

/-- What holds the sequencer at the instruction it has just decoded. -/
def Tile.sqHoldOn (tl : Tile) (h : SqHold) (idx k : Nat) : Tile :=
  let tl := tl.decoded idx k
  { tl with seq := { tl.seq with hold := h } }

/-- SQ.HOLD (R53, R67): the sequencer holds until SQ_HOLD_RELEASE. -/
def Tile.sqHold (tl : Tile) (t : Nat) (defined : Nat → Bool) : Tile :=
  if tl.sqReady t then
    match tl.sqFetch t defined with
    | (tl', .ins (.hold b k)) => tl'.sqHoldOn (.barrier b k) tl.seq.next 1
    | _ => tl
  else tl

/-- The registers S16 to S23 on a routine's entry, its arguments. -/
def Tile.args (tl : Tile) : List W64 := (List.range 8).map (fun i => tl.s (16 + i))

/-- SQ.CALL of a routine of `len` cycles (R58): the sequencer is held for exactly that long. A remote-read service pops its READ line from the queue that
`queue` finds in its arguments, and `view` is what it makes of the line (09 R240); it pops in the cycle of the call (DESIGN CHOICE, log 82). -/
def Tile.sqCall (tl : Tile) (t : Nat) (defined : Nat → Bool) (len : Nat → Nat) (queue : Nat → List W64 → Option Nat)
    (view : Nat → List W64 → Line → List Nat) : Tile :=
  if tl.sqReady t then
    match tl.sqFetch t defined with
    | (tl', .ins (.call r)) =>
      let (tl', read) := match queue r tl.args with
        | none => (tl', [])
        | some q => let (x, l) := tl'.popLineSq t q tl.seq.next; (x, view r tl.args l)
      (tl'.sqHoldOn (.call r (t + len r) 0 read) tl.seq.next 1).event 0x04 1
    | _ => tl
  else tl

/-- The end of a routine (R58): it leaves its results among S16 to S31, as the library fixes them; S0 to S15 stay. `writes`
is the mask of S16 to S31 that the routine changes; `cmds` lists the dispatch cycles of its engine commands, all of which have gone by then; a time event
loads what `times` holds, the work frame count and the shape index, which no other class sees (Table 2-10). The declared length counts from the cycle in which SQ.CALL decodes: the next word decodes exactly that many cycles after it. DESIGN CHOICE (log 71). -/
def Tile.sqCallReturn (tl : Tile) (t version : Nat) (writes : Nat → Nat) (cmds : Nat → List Nat) (times : Nat → List Nat) : Tile :=
  match tl.seq.hold with
  | .call r until_ next read =>
    if t = until_ ∧ (cmds r).length ≤ next ∧ tl.frozen = false then
      let a := tl.args
      let tl := upto (fun i tl' =>
        if bitAt (writes r) i then tl'.setS (16 + i) (Config.routineResult version r a (times r ++ read) (16 + i)) else tl') 0 16 tl
      tl.seqGo (t - 1) (tl.seq.next + 1)
    else tl
  | _ => tl

/-- A queue's pointers and counts (09 R248). -/
def Tile.snap (tl : Tile) (q : Nat) : QSnap := ⟨tl.qHead q, tl.qTail q, tl.qPush q, tl.qPop q⟩

/-- The lowest free range entry. -/
def Tile.freeEntry (tl : Tile) : Option Nat := (List.range 16).find? (fun e => (tl.range e).isNone)

/-- The state of an eve tag (09 R242). -/
def Tile.tag (tl : Tile) (g : Nat) : Tag := smapGet (fun _ => Tag.free) tl.tags g
def Tile.setTag (tl : Tile) (g : Nat) (v : Tag) : Tile := { tl with tags := smapPut (fun _ => Tag.free) tl.tags g v }

/-- The tags of a mask that are not FREE. -/
def Tile.liveTags (tl : Tile) (mask : Nat) : Nat :=
  (List.range 16).foldl (fun a g => if bitAt mask g && (tl.tag g).state != .free then a + 2 ^ g else a) 0

/-- SQ.EVE_OPEN (09 R248): the lowest free entry takes the word after it, the register copy, the queue copies and the
pending mask. With no entry free the sequencer is held. -/
def Tile.sqEveOpen (tl : Tile) (t : Nat) (defined : Nat → Bool) : Tile :=
  let ready := tl.sqReady t
    || (tl.seq.fetching && tl.seq.hold == .entry && decide (tl.seq.at_ ≤ t) && !tl.frozen)
  if ready then
    match ({ tl with seq := { tl.seq with hold := .free } } : Tile).sqFetch t defined with
    | (tl', .ins (.eveOpen sen a desc)) =>
      match tl.freeEntry with
      | none => if tl.seq.hold = .entry then tl else tl'.sqHoldOn .entry tl.seq.next 1
      | some e =>
        let (tl', line) := tl'.readLine t (tl.descLine (tl.openIdx sen a desc))
        let d := line.data.toNat
        let r : Range := ⟨tl.rangeCtr, tl.seq.next + 1, 0, false, false, tl.liveTags (bitsAt d 0 16), rangeSpans d,
          tl.sregs, (List.range 64).map tl.snap, tl.seq.loops.length, [], [], [], 0, [],
          [tl.mx.last.getD 0, tl.vx.last.getD 0, tl.mv.last.getD 0]⟩
        let tl' := if tl.seq.hold = .entry then tl else tl'.decoded tl.seq.next 1
        (({ tl' with openRange := some e, rangeCtr := tl.rangeCtr + 1 } : Tile).setRange e (some r)).seqGo t
          (tl.seq.next + 1)
    | _ => tl
  else tl

/-- SQ.EVE_CLOSE (09 R248): the open range becomes pending. -/
def Tile.sqEveClose (tl : Tile) (t : Nat) (defined : Nat → Bool) : Tile :=
  tl.sqDo t defined (fun i => match i with
    | .eveClose =>
      some ((fun tl' => match tl.openRange with
        | none => tl'
        | some e => ({ tl' with openRange := none } : Tile).modRange e
            (fun r => { r with closed := true, close := tl.seq.next })), 0)
    | _ => none)

/-- An illegal word (02 R52, R72): the sequencer stops fetching, ILLEGAL is set, the commit flag is withheld. A command that its second word shows to be
illegal is found in the slot in which that word decodes. -/
def Tile.illegal (tl : Tile) (t idx : Nat) : Tile :=
  let tl := ((tl.orBits rTlStatus stIllegal).raise 0x0106 t (idx % 2 ^ 17)).withhold
  { tl with seq := { tl.seq with fetching := false, hold := .free } }

def Tile.sqIllegal (tl : Tile) (t : Nat) (defined : Nat → Bool) : Tile :=
  if tl.sqReady t then
    match tl.sqFetch t defined with
    | (tl', .past) => tl'.illegal t tl.seq.next
    | (tl', .illegal) => (tl'.decoded tl.seq.next 1).illegal t tl.seq.next
    | _ => tl
  else if 0 < t ∧ tl.sqReady (t - 1) then
    match tl.sqFetch (t - 1) defined with
    | (tl', .second idx last) => (tl'.decoded last (last + 1 - tl.seq.next)).illegal t idx
    | _ => tl
  else tl

/-! Dispatch (02 R53, R55, R61 to R63). -/

/-- The capacity of a command queue. -/
def cmdQueueCap : Nat := 512

/-- A command enters its engine's queue at the end of slot `t`: its nominal slot, and the rise of D when it comes late. -/
def Tile.enqueue (tl : Tile) (alen t bits word : Nat) (eng : Engine) : Tile :=
  let e := tl.eng eng
  let nom := (e.last.getD 0) + bitsAt bits 112 12
  let c : Cmd := ⟨BitVec.ofNat 128 bits, word, tl.sregs, nom, t, tl.openRange, false⟩
  let empty := e.queue.isEmpty
  let tl := tl.setEng eng { e with queue := e.queue ++ [c], last := some nom }
  let tl := match tl.openRange with
    | none => tl
    | some r => tl.modRange r (fun x => { x with live := x.live + 1 })
  let due := nom + tl.get rTlDelay + tl.get rTlEveX
  if !c.anchored ∧ empty ∧ due ≤ t then
    let late := t + 1 - due
    let tl := (tl.charge eng 2 (below due (t + 1) alen)).charge eng 0 (-(below due (t + 1) alen : Int))
    let tl := match tl.slipFrom with
      | some _ => tl
      | none => { tl with slipFrom := some due, slipCause := 4 }
    tl.slip late
  else tl

/-- A decoded engine command enters the tail of its engine's queue in slot `t`, two cycles after its first word
decodes; a full queue holds the sequencer until an entry frees. -/
def Tile.dispatch (tl : Tile) (alen t : Nat) (defined : Nat → Bool) : Tile :=
  let base : Tile := { tl with seq := { tl.seq with hold := .free } }
  let onTime := tl.seq.hold == .free && tl.seq.at_ + 2 == t
  let held := (match tl.seq.hold with | .full _ => true | _ => false) && decide (tl.seq.at_ + 2 ≤ t)
  if tl.seq.fetching && (onTime || held) && !tl.frozen then
    match base.sqFetch tl.seq.at_ defined with
    | (tl', .command b) =>
      match cmdEng b with
      | none => tl
      | some eng =>
        let tl' := if held then base else tl'.decoded (tl.seq.next + 1) 2
        if cmdQueueCap ≤ (tl.eng eng).queue.length then
          { tl' with seq := { tl'.seq with hold := .full eng } }
        else (tl'.enqueue alen t b tl.seq.next eng).seqGo (t - 1) (tl.seq.next + 2)
    | _ => tl
  else tl

/-- A command that a resident routine dispatches in slot `t` of its call (R58, R60): `cmds r` lists the dispatch cycles of
routine `r` counted from the call, and the library fixes the commands, which obey every rule of a stream's. An illegal one stops the fetching. A full queue
holds the sequencer: what is left of the routine moves later with the command. The command reads the S registers as they stood before the call, since the routine's own
writes are known at its return only. DESIGN CHOICE (log 69). -/
def Tile.routineDispatch (tl : Tile) (alen t version : Nat) (len : Nat → Nat) (cmds : Nat → List Nat) : Tile :=
  match tl.seq.hold with
  | .call r until_ next read =>
    match (cmds r)[next]? with
    | none => tl
    | some off =>
      let due := until_ - len r + off
      if t < due ∨ tl.frozen = true then tl
      else
        let b := (Config.routineCommand version r tl.args read next).toNat
        match cmdEng b with
        | none => tl.illegal t tl.seq.next
        | some eng =>
          if !tl.cmdLegal b then tl.illegal t tl.seq.next
          else if cmdQueueCap ≤ (tl.eng eng).queue.length then tl
          else
            let tl := tl.enqueue alen t b tl.seq.next eng
            { tl with seq := { tl.seq with hold := .call r (until_ + (t - due)) (next + 1) read } }
  | _ => tl

/-! Issue (02 R62 to R65, R67). -/

/-- The operations of an engine that occupy its in-flight places: one that retires in the current slot still does. -/
def Eng.inFlight (e : Eng) : Nat := (e.flight.filter (fun o => o.cmd.op != 0)).length

/-- The in-flight limit of R65. -/
def flightLimit : Engine → Nat
  | .mx => 2 | .vx => 2 | .mv => 4 | .sq => 0

/-- Whether a command occupies an in-flight place: the NOPs and MV.SYNC do not (04 R98, 05 R122, 06 R144, 11 R295). -/
def holdsPlace (eng : Engine) (op : Nat) : Bool := !(op == 0 || (eng == .mv && op == 7))

/-- The conditions of R62 that engine `eng` and command `c` must meet in slot `t`, other than its due slot and the engine
chapter's own. `taken` is what waiters that go before it take from each barrier in the slot (R67). -/
def Tile.mayIssue (tl : Tile) (taken : Nat → Nat) (eng : Engine) (t : Nat) (c : Cmd) : Bool :=
  let e := tl.eng eng
  e.issuedAt != some t && (!holdsPlace eng c.op || decide (e.inFlight < flightLimit eng))
    && (!c.waitEn || decide (c.waitCnt + taken c.waitB ≤ tl.barrierSeen c.waitB)) && !tl.frozen

/-- The command that engine `eng` can issue in slot `t` beside waiters that take `taken`: its head, or the head of a re-execution. An anchored command due
now goes first, then a re-executed one, then a regular one with ANCHOR clear (R62 to R64, 09 R251). -/
def Tile.canIssueBeside (tl : Tile) (taken : Nat → Nat) (eng : Engine) (t : Nat) : Option Cmd :=
  let e := tl.eng eng
  let head := e.queue.head?.filter (fun c => tl.mayIssue taken eng t c && decide (c.entered < t) &&
    (if c.anchored then c.nominal == t && !tl.dead
     else decide (c.nominal + tl.get rTlDelay + tl.get rTlEveX ≤ t)))
  let redo := e.redo.head?.filter (fun c => tl.mayIssue taken eng t c && decide (c.entered < t) && decide (c.nominal ≤ t))
  match head, redo with
  | some c, none => some c
  | none, some d => some d
  | some c, some d => if c.anchored then some c else some d
  | none, none => none

/-- An engine chapter's own conditions on an issue, beside R62: the tile, the engine and its command. -/
abbrev Further := Tile → Engine → Cmd → Bool

/-- `taken` with what engine `eng` takes when it can issue in slot `t`. -/
def Tile.wouldTake (tl : Tile) (further : Further) (taken : Nat → Nat) (eng : Engine) (t b : Nat) : Nat :=
  match tl.canIssueBeside taken eng t with
  | some c => taken b + (if further tl eng c && c.waitEn && c.waitB == b then c.waitCnt else 0)
  | none => taken b

/-- What the waiters before `eng` in the order MV, MX, VX, SQ.HOLD take from each barrier in slot `t` (R67); one that has gone in the slot has taken its
count already. -/
def Tile.takenBefore (tl : Tile) (further : Further) (t : Nat) : Engine → Nat → Nat
  | .mv => fun _ => 0
  | .mx => tl.wouldTake further (fun _ => 0) .mv t
  | .vx => tl.wouldTake further (tl.wouldTake further (fun _ => 0) .mv t) .mx t
  | .sq => tl.wouldTake further (tl.wouldTake further (tl.wouldTake further (fun _ => 0) .mv t) .mx t) .vx t

/-- The command that engine `eng` can issue in slot `t`. -/
def Tile.canIssue (tl : Tile) (further : Further) (eng : Engine) (t : Nat) : Option Cmd :=
  tl.canIssueBeside (tl.takenBefore further t eng) eng t

/-- A held SQ.HOLD releases when its barrier holds its count, and subtracts it (R67). One whose barrier already holds the count can release in the cycle in
which it decodes. DESIGN CHOICE (log 73). -/
def Tile.sqHoldRelease (tl : Tile) (further : Further) (t : Nat) : Tile :=
  match tl.seq.hold with
  | .barrier b k =>
    if k + tl.takenBefore further t .sq b ≤ tl.barrierSeen b ∧ tl.seq.at_ ≤ t ∧ tl.frozen = false then (tl.consume b k).seqGo t (tl.seq.next + 1)
    else tl
  | _ => tl

/-- What selects ISSUE and RETIRE records (15 R382): the engine mask and the word window. -/
def Tile.traced (tl : Tile) (eng : Engine) (c : Cmd) : Bool :=
  bitAt (tl.get rTlTraceCtrl) (8 + engCode eng) && decide (tl.get rTlTraceLo ≤ c.word)
    && decide (c.word ≤ tl.get rTlTraceHi)

/-- The head command of `eng` leaves its queue in slot `t`: its wait is subtracted, its slot charged and counted. -/
def Tile.takeHead (tl : Tile) (n frame alen : Nat) (eng : Engine) (t : Nat) (c : Cmd) : Tile :=
  let e := tl.eng eng
  let tl := tl.setEng eng (if c.again then { e with redo := e.redo.tail, issuedAt := some t }
    else { e with queue := e.queue.tail, issuedAt := some t })
  let tl := if eng = .mv ∧ c.again = false then { tl with mvHeld := false } else tl
  let tl := if c.waitEn then tl.consume c.waitB c.waitCnt else tl
  let tl := tl.event (6 + engCode eng) 1
  let tl := tl.charge eng (if c.again then 1 else 0) (below t (t + 1) alen)
  let tl := if tl.traced eng c then
      tl.emit n frame 1 (engCode eng) t
        (c.word + c.nominal * 2 ^ 32 + tl.get rTlDelay * 2 ^ 64 + bitsAt c.bits.toNat 96 32 * 2 ^ 96)
    else tl
  match c.range with
  | none => tl
  | some r => tl.modRange r (fun x => { x with
      slots := if t < alen ∧ c.again = false then smapPut (fun _ => 0) x.slots (ledgerEng eng)
        (smapGet (fun _ => 0) x.slots (ledgerEng eng) + 1) else x.slots
      net := if c.waitEn then smapPut (fun _ => (0 : Int)) x.net c.waitB
        (smapGet (fun _ => (0 : Int)) x.net c.waitB - (c.waitCnt : Int)) else x.net })

/-- The scratch descriptors that a command of an engine names. -/
def cmdDescs (eng : Engine) (c : Cmd) : List Nat :=
  let b := c.bits.toNat
  if c.op = 0 then []
  else match eng with
  | .mx =>
    let scales := if mxScaled (bitsAt b 92 4) then [bitsAt b 35 7, bitsAt b 28 7] else []
    ((([bitsAt b 56 7, bitsAt b 49 7, bitsAt b 42 7] ++ scales).filter (fun x => !bitAt x 6)).map (fun x => x % 64)).eraseDups
  | .vx =>
    let q := vxPar b
    (((q.srcs ++ q.dsts).filter (fun x => specKind x.spec == 1)).map (fun x => specIdx x.spec)).eraseDups
  | .mv => if mvLen c ≠ 0 ∧ specKind (mvSpec c) = 1 then [specIdx (mvSpec c)] else []
  | .sq => []

/-- Puts an operation in flight, with the descriptors that its command names as they read in its issue slot. -/
def Tile.fly (tl : Tile) (eng : Engine) (o : Op) : Tile :=
  let (tl, ds) := tl.readDescs o.issued (cmdDescs eng o.cmd)
  let e := tl.eng eng
  { (tl.setEng eng { e with flight := e.flight ++ [{ o with descs := ds }] }) with ops := tl.ops + 1 }

/-- A command's signal at its retirement (R67). -/
def Tile.retireSignal (tl : Tile) (c : Cmd) : Tile :=
  if c.sigEn then
    let tl := tl.signal c.sigB
    match c.range with
    | none => tl
    | some r => tl.modRange r (fun x => { x with
        net := smapPut (fun _ => (0 : Int)) x.net c.sigB (smapGet (fun _ => (0 : Int)) x.net c.sigB + 1) })
  else tl

/-- Clears the eve bits of some spans. -/
def Tile.clearSpans (tl : Tile) (spans : List (Nat × Nat)) : Tile :=
  { tl with eve := smapDrop tl.eve (inSpans spans) }

/-- The end of a re-execution (09 R251): the scalar registers come back, the spans' eve bits clear and the entry frees. -/
def Tile.redoEnd (tl : Tile) (e : Nat) : Tile :=
  match tl.range e with
  | none => tl
  | some r => ({ tl.clearSpans r.spans with sregs := tl.saved, saved := [], again := none } : Tile).setRange e none

/-- A command of a range has retired (09 R250); the last one of a re-execution ends it. -/
def Tile.rangeDone (tl : Tile) (c : Cmd) : Tile :=
  match c.range with
  | none => tl
  | some e =>
    let tl := tl.modRange e (fun x => { x with live := x.live - 1 })
    match tl.range e with
    | none => tl
    | some r => if tl.again = some e ∧ r.live = 0 then tl.redoEnd e else tl

/-- The operation of an engine that retires in slot `t`. -/
def Eng.retiring (e : Eng) (t : Nat) : Option Op := e.flight.find? (fun o => !o.retired && o.retire == t)

/-- The bookkeeping of a retirement in slot `t`: signal, trace, the range's count. `counter` is TL_xX_RETIRED_CNT. -/
def Tile.retire (tl : Tile) (n frame : Nat) (eng : Engine) (t counter : Nat) (o : Op) : Tile :=
  let e := tl.eng eng
  let tl := tl.setEng eng { e with
    flight := e.flight.map (fun x => if x.id = o.id then { x with retired := true } else x) }
  let tl := if o.cmd.op = 0 then tl else { tl.bump counter 1 with retired := tl.retired + 1 }
  let tl := tl.retireSignal o.cmd
  let tl := if tl.traced eng o.cmd then tl.emit n frame 2 (engCode eng) t (o.cmd.word + o.issued * 2 ^ 32) else tl
  tl.rangeDone o.cmd

/-- A NOP (04 R98): in flight it holds no place, and its signal comes in the cycle after the last retirement of the
operations issued before it, or in its issue cycle with none in flight. -/
def Tile.issueNop (tl : Tile) (further : Further) (n frame alen : Nat) (eng : Engine) (t : Nat) : Tile :=
  match tl.canIssue further eng t with
  | some c =>
    if c.op = 0 then
      let tl := tl.takeHead n frame alen eng t c
      let flight := (tl.eng eng).flight.filter (fun o => o.cmd.op != 0)
      if flight.isEmpty then (tl.retireSignal c).rangeDone c
      else
        let last := flight.foldl (fun a o => if a < o.retire then o.retire else a) 0
        tl.fly eng ⟨c, tl.ops, t, 0, last + 1, t, [], [], [], [], [], 0, 0, false, false⟩
    else tl
  | none => tl

/-! Anchor misses (02 R64). -/

/-- The first command of a list that `p` picks, and the list without it. -/
def pickFirst (p : Cmd → Bool) : List Cmd → Option (Cmd × List Cmd)
  | [] => none
  | c :: cs => if p c then some (c, cs) else (pickFirst p cs).map (fun x => (x.1, c :: x.2))

/-- An anchored command that cannot issue at its nominal slot is discarded. The first of the frame is the anchor
miss; later anchored commands are discarded with no further effect. `further` says whether the engine chapter's own conditions hold. -/
def Tile.anchorMiss (tl : Tile) (alen t : Nat) (eng : Engine) (further : Further) : Tile :=
  let e := tl.eng eng
  if tl.dead then
    match e.queue with
    | c :: cs => if c.anchored ∧ c.nominal ≤ t then tl.setEng eng { e with queue := cs } else tl
    | [] => tl
  else
    match pickFirst (fun c => c.anchored && decide (c.nominal ≤ t)) e.queue with
    | none => tl
    | some (c, rest) =>
      if tl.canIssue further eng t == some c && further tl eng c then tl
      else
        let acct := ((tl.setEng eng { e with queue := [c] }).heldBy eng).1
        let tl := (tl.charge eng acct (below t (t + 1) alen)).charge eng 0 (-(below t (t + 1) alen : Int))
        let tl := tl.setEng eng { e with queue := rest }
        let tl := ((tl.orBits rTlStatus stAnchorMiss).event 0x34 1).raise 0x0105 t
          (c.word % 2 ^ 17 + engCode eng * 2 ^ 17)
        { tl.withhold with dead := true }

end Sys2Proof.Machine
end

