-- ==== Sys2Proof/Machine/Engines.lean ====
section
/-! DEFINITION. Issue and retirement of the matrix and the vector engine's operations on one tile (04 R105 to R107, R114; 05 R128, R129, R138). -/

namespace Sys2Proof.Machine

/-! MX. -/

/-- The first cycle in which the operations in flight let another one issue, under R107's first condition. -/
def Tile.mxArrayFree (tl : Tile) : Nat := tl.mx.flight.foldl (fun a o => if o.cmd.op = 0 then a else nmax a o.srcEnd) 0

/-- The cycle after the last C write of the operations in flight. -/
def Tile.mxWriteFree (tl : Tile) : Nat := tl.mx.flight.foldl (fun a o => if o.cmd.op = 0 then a else nmax a (o.retire + 1)) 0

/-- What the masque MATRIX does to an operation: bit 0 of c(0, 0)'s accumulator, or of d(0, 0), after its first product or pass (14 Table 14-7). -/
def mxMasque (inj : Bool) : List MxUpset := if inj then [.acc 0 0 0 0] else []

/-- Issues the MX operation `c` in slot `t` (R105): its reads and writes follow in the cycles of Table 4-6, its C writes as R107 places them. -/
def Tile.mxIssue (tl : Tile) (n frame alen t : Nat) (inj : Bool) (ups : List MxUpset) (c : Cmd) : Tile :=
  let q := mxPar c.bits.toNat
  let first := t + 44 + q.w + q.p * q.t
  let start := nmax first tl.mxWriteFree
  let op := tl.ops
  (tl.takeHead n frame alen .mx t c).fly .mx
    ⟨c, op, t, start - first, start + q.m * q.u - 1, t + q.w + q.p * q.t, [], [], [0], mxMasque inj ++ ups, [], 0, 0, false, inj⟩

/-- MX.MM, MX.MMI or MX.MMS (operation code `op`) issues in slot `t` when it can. -/
def Tile.mxStart (tl : Tile) (further : Further) (n frame alen t op : Nat) (ups : List MxUpset) (inj : Bool) : Tile :=
  match tl.canIssue further .mx t with
  | some c => if c.op = op ∧ tl.mxArrayFree ≤ t then tl.mxIssue n frame alen t inj ups c else tl
  | none => tl

/-- The retirement of operation `o`: its records, its checks, its signal. -/
def Tile.mxFinish (tl : Tile) (n frame t : Nat) (o : Op) : Tile :=
  let q := mxPar o.cmd.bits.toNat
  let tl := if o.cmd.op = 3 then tl.mmsRecords t o q else tl
  (tl.mxChecks t q o).retire n frame .mx t rTlMxRetired o

/-- MX retires the operation that issued in slot `i`, in its retirement slot `t` (R105). Its last write happens in this cycle too. -/
def Tile.mxRetire (tl : Tile) (n frame t i : Nat) : Tile :=
  match tl.mx.retiring t with
  | none => tl
  | some o =>
    if o.issued ≠ i then tl else if o.cmd.op = 0 then tl.retire n frame .mx t rTlMxRetired o else tl.mxFinish n frame t o

/-! VX. -/

/-- The last cycle of the source phases, and the last write, of the VX operations in flight. -/
def Tile.vxSrcBusy (tl : Tile) : Nat := tl.vx.flight.foldl (fun a o => if o.cmd.op = 0 then a else nmax a o.srcEnd) 0
def Tile.vxLastWrite (tl : Tile) : Option Nat :=
  (tl.vx.flight.filter (fun o => o.cmd.op != 0)).foldl (fun a o => some (nmax (a.getD 0) o.retire)) none

/-- What the masque VECTOR does to an operation: bit 0 of lane 0's word in step 0 (14 Table 14-7). -/
def vxMasque (inj : Bool) : List VxUpset := if inj then [.flip 0 0 1] else []

/-- Issues the VX operation `c` in slot `t`; writes that would meet an earlier operation's move later together (R129). -/
def Tile.vxIssue (tl : Tile) (n frame alen t : Nat) (inj : Bool) (ups : List VxUpset) (c : Cmd) : Tile :=
  let b := c.bits.toNat
  let q := vxPar b
  let first := t + outFirst b q
  let shift := match tl.vxLastWrite with
    | none => 0
    | some w => if first ≤ w then w + 1 - first else 0
  let op := tl.ops
  let qn := specIdx (bitsAt b 72 8)
  ((tl.takeHead n frame alen .vx t c).event 0x0A (if c.op = 5 then q.n * stnTaps b else q.n)).fly .vx
    ⟨c, op, t, shift, t + outLast b q + shift, t + srcLast b q, [], [], q.dsts.map (fun _ => 0), [], vxMasque inj ++ ups, tl.qHead qn, tl.qPop qn, false, inj⟩

/-- The VX operation with operation code `op` issues in slot `t` when it can (R62, R129). -/
def Tile.vxStart (tl : Tile) (further : Further) (n frame alen t op : Nat) (ups : List VxUpset) (inj : Bool) : Tile :=
  match tl.canIssue further .vx t with
  | some c => if c.op = op ∧ tl.vxSrcBusy ≤ t + 3 then tl.vxIssue n frame alen t inj ups c else tl
  | none => tl

/-- The retirement of operation `o`: its records, its checks, its signal. -/
def Tile.vxFinish (tl : Tile) (n frame t : Nat) (o : Op) : Tile :=
  let b := o.cmd.bits.toNat
  let q := vxPar b
  let tl := if o.cmd.op = 3 ∧ 4 ≤ vxFunc b then tl.redRecords t o q else tl
  (tl.vxChecks t o (failSteps q o)).retire n frame .vx t rTlVxRetired o

/-- VX retires the operation that issued in slot `i`, in its retirement slot `t` (R128). Its last write happens in this cycle too. -/
def Tile.vxRetire (tl : Tile) (n frame t i : Nat) : Tile :=
  match tl.vx.retiring t with
  | none => tl
  | some o =>
    if o.issued ≠ i then tl else if o.cmd.op = 0 then tl.retire n frame .vx t rTlVxRetired o else tl.vxFinish n frame t o

end Sys2Proof.Machine
end

