-- ==== Sys2Proof/Machine/PlanTypes.lean ====
section
/-! DEFINITION. What a loaded plan image gives the device (12 R312 to R314, Tables 12-3 to 12-6): the records of its sections
as data. The byte layout of the sections TILES, SRAM, MESH_ROUTES, ALMANAC, HBM, HBM_INIT, TIME, SYNC and ACTIONS is not in the
manual, which gives their contents only: one opaque parser for each stands at the end of this file. -/

namespace Sys2Proof.Machine

/-- A queue of the TILES section: TL_Q_CFG, TL_Q_HIST and the initial HEAD and TAIL. -/
structure QueuePlan where
  cfg : W32
  hist : W32
  head : Nat
  tail : Nat
  deriving DecidableEq, Repr

/-- A record of the TILES section: the region registers, the queues, the steward flag, the mask of descriptor lines that hold
eve range descriptors, the re-execution budget and, for each shape, the barriers at the commit point. -/
structure TilePlan where
  instr : W32
  desc : W32
  scratch : W32
  queues : List QueuePlan
  steward : Bool
  eveMask : W64
  budget : Nat
  barriers : List (List Nat)
  deriving DecidableEq, Repr

/-- A run of the SRAM section (`at_` a virtual tile, `first` a line) or of HBM_INIT (`at_` 0, `first` an HLA). -/
structure LineRun where
  at_ : Nat
  first : Nat
  data : List LineBits
  deriving DecidableEq, Repr

/-- A sequence entry (Table 12-4). -/
structure SeqEntry where
  ctx : Nat
  shape : Nat
  deriving DecidableEq, Repr

/-- An HBM transfer of a shape on one controller (06 R160 to R162): direction, virtual tile, the mesh route of its request flit and, for a write, of its lines, request
slot, tag, phase, length, bank of a bank-fixed placement; for a read the virtual edge tile that injects its lines, the route from there, each line's regular delivery slot
and the late slots; for a gather NE, GL and each entry's phase. -/
structure Xfer where
  read : Bool
  tile : Nat
  route : Nat
  reqSlot : Nat
  tag : Nat
  phase : Nat
  len : Nat
  bank : Option Nat
  edge : Nat
  back : Nat
  slots : List Nat
  lates : List Nat
  gather : Option (Nat × Nat)
  entryPhases : List Nat
  deriving DecidableEq, Repr

/-- LW: the delivery slots of the transfer's late window (06 R162). -/
def Xfer.lw (x : Xfer) : Nat := x.lates.length

/-- A regular entry of an arrival list (09 R237, R241, 11 R300): its route, its type, its lines, its deadline in ns after the tick
and, for a SYNC packet, its identifier, kind and part; which of the two port tiles serves it, the slots in which its line pairs are injected, or its lines forwarded, its notice slot and the slot from which its leap lines
go, two a cycle. -/
structure ArrEntry where
  route : Nat
  typ : Nat
  len : Nat
  deadline : Nat
  vid : Nat
  kind : Nat
  part : Nat
  second : Bool
  slots : List Nat
  notice : Nat
  leap : Nat
  deriving DecidableEq, Repr

/-- A mesh packet that the almanac places (01 R15, 07 R181): the virtual tile that hands it to its router, the cycle of its first lines, its lines, its route entry and the
virtual tile it ends at. -/
structure MeshSlot where
  tile : Nat
  slot : Nat
  lines : Nat
  route : Nat
  dest : Nat
  deriving DecidableEq, Repr

/-- One hold of a router output or an injection channel (07 R181): virtual tile, output, slots. -/
structure MeshUse where
  tile : Nat
  out : Nat
  lo : Nat
  hi : Nat
  deriving DecidableEq, Repr

/-- An engine command that the almanac places on a tile (01 R15, R22): its engine, its issue slot and the slot of its retirement. -/
structure OpSlot where
  eng : Engine
  issue : Nat
  retire : Nat
  deriving DecidableEq, Repr

/-- An access that the almanac places on an engine port of a tile (02 R46): the bank, the slot, whether it is a fixed access, and the eve range that it belongs to, as a
command of the range or as a leap delivery of one of its tags. -/
structure BankSlot where
  bank : Nat
  slot : Nat
  fixed : Bool
  range : Option Nat
  deriving DecidableEq, Repr

/-- What a shape's almanac holds of one tile: the first slot of its leap window and the slot after its last (01 R20), its commands, its accesses. -/
structure TileShape where
  leap : Nat
  stop : Nat
  ops : List OpSlot
  banks : List BankSlot
  deriving DecidableEq, Repr

/-- A packet that the almanac places on an optical link: its send slot, its channel and its lines (01 R15). -/
structure SendSlot where
  slot : Nat
  vc : Nat
  lines : Nat
  deriving DecidableEq, Repr

/-- What a shape's almanac holds of one port's link: the first slot of its leap window, the slot after its last, its packets. -/
structure LinkShape where
  leap : Nat
  stop : Nat
  sends : List SendSlot
  deriving DecidableEq, Repr

/-- A watch point (15 R389): its virtual tile, shape, slot, first line, lines, and its offset in the group's lines. -/
structure WatchPoint where
  tile : Nat
  shape : Nat
  slot : Nat
  first : Nat
  count : Nat
  off : Nat
  deriving DecidableEq, Repr

/-- A watch group: its offset in the watch buffer, in lines, its extent in lines with the header, its points. -/
structure WatchGroup where
  off : Nat
  lines : Nat
  points : List WatchPoint
  deriving DecidableEq, Repr

/-- A shape of the ALMANAC section: A, what it holds of each virtual tile and of each port's link, the transfers and the commands of each controller, the arrival lists keyed by
2·port + channel, each port's exchange packet (LEN, ROUTE) and the mesh packets. -/
structure ShapePlan where
  alen : Nat
  tiles : List TileShape
  links : SMap LinkShape
  xfers : SMap (List Xfer)
  cmds : SMap (List HbmSlot)
  arrivals : SMap (List ArrEntry)
  exch : SMap (Nat × Nat)
  packets : List MeshSlot
  deriving DecidableEq, Repr

/-- The link of port `p`: a port without one in the shape has no slots. -/
def ShapePlan.link (sh : ShapePlan) (p : Nat) : LinkShape := smapGet (fun _ => ⟨sh.alen, sh.alen, []⟩) sh.links p

/-- A port record (Table 12-5). -/
structure PortPlan where
  partner : Nat
  used : Bool
  laneTol : Bool
  partnerPort : Nat
  replays : Nat
  delayMax : Nat
  deriving DecidableEq, Repr

/-- A context record (Table 12-6): the functions bound, the eight windows as base and limit words, the translations. -/
structure CtxPlan where
  ctx : Nat
  bind : Nat
  windows : List (W32 × W32)
  xlate : List Nat
  deriving DecidableEq, Repr

/-- The SYNC section: counter records by physical index, the vigils, the word of SY_DUMP_BASE. -/
structure SyncPlan where
  records : List (Nat × List W32)
  vigils : List W32
  dump : W32
  deriving DecidableEq, Repr

/-- A scheduled action (12 Table 12-11): the frame and words 3 to 5, with the counter that SIGNAL and ARM change. -/
structure Action where
  frame : Nat
  w3 : W32
  w4 : W32
  w5 : W32
  deriving DecidableEq, Repr

/-- The HBM section's own figures: the maintenance spacing in ns, the RFM threshold assumed, the HB_TEMP_LIMIT word. -/
structure HbmPlan where
  spacing : Nat
  rfm : Nat
  tempLimit : W32
  deriving DecidableEq, Repr

/-- The header fields of Table 12-1 that the plan keeps. -/
structure PlanHead where
  planId : Nat
  rank : Nat
  devices : Nat
  grid44 : Bool
  floor : Nat
  shapes : Nat
  period : Nat
  guard : Nat
  lib : Nat
  deriving DecidableEq, Repr

/-- The ALMANAC section: the shapes, the REFab commands that it reserves for intercalary frames, by controller (01 R30), the watch groups, the stack and the sink's first HLA for watches, the capacity
of the trace slots in lines of two records (15 R383, R389) and the words of PL_MF_BASE and PL_MF_CAP (13 R344). -/
structure Almanac where
  shapes : List ShapePlan
  ical : SMap (List HbmSlot)
  watch : List WatchGroup
  watchStack : Nat
  sink : Nat
  traceCap : Nat
  mfBase : W32
  mfCap : W32
  deriving DecidableEq, Repr

/-- The TIME section (10 R278): the rank of the time tree's root, the device's TM_REF_CTRL value, the marker period. -/
structure TimePlan where
  root : Nat
  ref : W32
  period : W32
  deriving DecidableEq, Repr

/-- A plan. -/
structure Plan where
  head : PlanHead
  tiles : List TilePlan
  sram : List LineRun
  routes : List (List W32)
  seq : List SeqEntry
  almanac : Almanac
  hbm : HbmPlan
  hbmInit : List LineRun
  ranks : SMap Nat
  ports : List PortPlan
  optical : SMap Nat
  time : Option TimePlan
  contexts : List CtxPlan
  sync : SyncPlan
  actions : List Action
  signed : Bool
  deriving DecidableEq, Repr

end Sys2Proof.Machine

namespace Sys2Proof.Config

/-- The records of a section's bytes, for the sections whose byte layout the manual does not give; none for bytes that are
malformed. -/
opaque parseTiles : List Byte → Option (List Machine.TilePlan)
opaque parseSram : List Byte → Option (List Machine.LineRun)
opaque parseMeshRoutes : List Byte → Option (List (List W32))
opaque parseAlmanac : List Byte → Option Machine.Almanac
opaque parseHbm : List Byte → Option Machine.HbmPlan
opaque parseHbmInit : List Byte → Option (List Machine.LineRun)
opaque parseTime : List Byte → Option Machine.TimePlan
opaque parseSync : List Byte → Option Machine.SyncPlan
opaque parseActions : List Byte → Option (List Machine.Action)

end Sys2Proof.Config
end

