-- ==== Sys2Proof/Machine/DeviceTypes.lean ====
section
/-! DEFINITION. What the blocks outside the tiles hold while they work: the frame controller (01, 12), the mesh (07), the HBM
controllers (06), the SY block (11) and the FL block (14). -/

namespace Sys2Proof.Machine

/-! Frame controller. -/

/-- The configuration that the guard time fixes for the next frame (01 R24): whether it is intercalary, its shape and context,
the step, the RWF values and the counter actions that take effect at its tick. -/
structure NextFrame where
  ical : Bool
  shape : Nat
  ctx : Nat
  step : Option Nat
  writes : List (Nat × W32)
  actions : List Action
  deriving DecidableEq, Repr

/-- A frame that has ended: its number, shape and context, and the time counter at its tick. -/
structure PastFrame where
  frame : Nat
  shape : Nat
  ctx : Nat
  tickAt : Nat
  deriving DecidableEq, Repr

/-- The frame controller: whether a frame is running, the frame's configuration, whether its commit point has passed, bits 29:24 of
its status so far, the next frame's configuration, the causes that stop the plan at the next tick, the frame at whose tick an
accepted PL_STOP stops it, the greatest slot seen in the frame, the frames left of an accepted intercalary run and its
first frame, and whether a rail excursion withholds the flags of this frame or of the next, the time counter and the model's time at its tick, and the work frame before it (01 R39). -/
structure FrameCtl where
  running : Bool
  ical : Bool
  shape : Nat
  ctx : Nat
  alen : Nat
  committed : Bool
  bits : Nat
  next : Option NextFrame
  causes : List Nat
  stopAt : Option Nat
  slot : Nat
  icalRun : Option (Nat × Nat)
  rail : Bool
  railNext : Bool
  tickAt : W64
  nowAt : Nat
  was : Option PastFrame
  deriving DecidableEq, Repr

/-! Mesh. -/

/-- The request flit of an MV.GET, MV.PUT or MV.GATHER (06 R160). -/
structure ReqFlit where
  read : Bool
  gather : Option (Nat × Nat)
  tag : Nat
  hla : Nat
  len : Nat
  deriving DecidableEq, Repr

/-- Where a mesh packet's lines go when they are ejected: into a queue of the destination tile; to the egress queue of an optical port as
the packet with the given header (its SEQ and HCRC zero), which may be a leap copy; as request flit and write lines to an HBM edge; as line `i` of transfer `x` of
controller `c` into its reserved position; as lines `first` on of the regular delivery of arrival entry `ent` under eve tag `g` into queue `q`; as lines of that tag's leap delivery; as a notice
for tag `g` (1 CONFIRM, 2 FAIL, 3 LEAP, 4 DEAD); or as line `j` of the cut-through copy of entry `k` of channel `vc` of inbound port `p`. -/
inductive PktDest where
  | queue (q : Nat)
  | port (p : Nat) (header : Nat) (leap : Bool)
  | edge (f : ReqFlit)
  | hbm (c x i : Nat) (late : Bool)
  | eve (g q ent first : Nat)
  | leap (g : Nat)
  | notice (g code : Nat)
  | fwd (p vc k j : Nat)
  deriving DecidableEq, Repr

/-- Who injects a packet, in the order in which heads that meet in an injection channel rank (07 R182): MV with the issue slot of its operation, an HBM edge, a port tile. -/
inductive PktFrom where
  | mv (op issued : Nat)
  | hbm
  | port
  deriving DecidableEq, Repr

/-- A mesh packet (07 R177): its injector, its physical source tile, its route entry, the destination's virtual tile, its length in lines and those of its lines that have been
handed over, the cycle in which line 0 is handed to the router, the routers that its head has passed, the first line that a router has dropped (none: no router has)
and the lines ejected. -/
structure Packet where
  id : Nat
  from_ : PktFrom
  src : Nat
  route : Nat
  dvt : Nat
  dest : PktDest
  len : Nat
  lines : SMap (Option Line)
  t0 : Nat
  hop : Nat
  lost : Option Nat
  pushed : SSet
  deriving DecidableEq, Repr

/-- A hold of a router output (0 to 3) or of an injection channel (4 + direction): the packet, the input it came from and the
cycles (07 R182). -/
structure Hold where
  out : Nat
  pkt : Nat
  inp : Nat
  lo : Nat
  hi : Nat
  deriving DecidableEq, Repr

/-- An entry of a timed-crossing queue: the slot in which it is written, the stamp, the packet, the cycle of lines (07 R185). -/
structure Crossing where
  wrote : Nat
  stamp : Nat
  pkt : Nat
  pair : Nat
  deriving DecidableEq, Repr

/-- A tile's router: its holds and, by input, its crossing queues. -/
structure Router where
  holds : List Hold
  queues : SMap (List Crossing)
  deriving DecidableEq, Repr

/-! HBM. -/

/-- What became of a transfer's request check (06 R160). -/
inductive XferState where
  | waiting
  | accepted
  | refused
  deriving DecidableEq, Repr

/-- A transfer of the running frame: its state, first HLA, the packet that brings a write's lines, the stored lines with their wrong symbols as the RD commands found them, the lines decoded or
refused at the mesh edge, the lines sent to the tile with whether each was late (for a write, the lines written), the lines that wait for a late slot in order,
the late slots that have passed, the valid entries of a gather, and the refused lines or entries: how many and the first. -/
structure XferRun where
  state : XferState
  hla : Nat
  pkt : Option Nat
  read : SMap (Option (Line × List (Nat × Nat)))
  ready : SMap (Option Line)
  sent : SMap (Option (Line × Bool))
  late : List Nat
  lateUsed : Nat
  entries : SMap (Option Nat)
  refused : Nat
  refusedAt : Nat
  deriving DecidableEq, Repr

/-- A transfer at the frame tick. -/
def XferRun.fresh : XferRun :=
  ⟨.waiting, 0, none, [], [], [], [], 0, [], 0, 0⟩

/-- A controller's state beside its registers: the frame's transfers, the time since which it has been cool enough to leave heat
mode, and the retries waiting by pseudo-channel as (transfer, line, time at which the error was found). -/
structure HbmCtl where
  xfers : List XferRun
  coolSince : Option Nat
  retries : SMap (List (Nat × Nat × Nat))
  deriving DecidableEq, Repr

/-- A controller with nothing running. -/
def HbmCtl.idle : HbmCtl := ⟨[], none, []⟩

/-- The stored lines of HBM: data bytes by 64·HLA + k, the poisoned lines, and the symbols stored wrong: key 68·HLA + s for
symbol s (64 to 67 the check symbols) with the bits inverted (06 R166). -/
structure HbmMem where
  data : SMap Byte
  poison : SSet
  wrong : SMap Byte
  deriving DecidableEq, Repr

/-! SY block. -/

/-- A counter record's four words (11 Table 11-1). -/
structure Counter where
  value : W32
  target : W32
  masks : W32
  flags : W32
  deriving DecidableEq, Repr

/-- A counter record whose words are all 0 (11 R292). -/
def Counter.zero : Counter := ⟨0, 0, 0, 0⟩

/-- A change to a counter (11 R296): the counter, the slot of the running frame at whose end it takes effect, the cycle of the SY block in which it does (in ns), its kind (0 manual,
1 signal, 2 arm, 3 part, 4 ERR), its operands (INC; the part and whether it fails; whether a manual write clears) and a manual write's request words. -/
structure SyncStep where
  ctr : Nat
  eff : Int
  ns : Nat
  kind : Nat
  a : Nat
  b : Nat
  words : List W32
  deriving DecidableEq, Repr

/-- A hung tile (11 Table 11-6): the tile, the cause, context, identifier, physical counter (none: unmapped), count and slot. -/
structure Hung where
  tile : Nat
  cause : Nat
  ctx : Nat
  vid : Nat
  ctr : Option Nat
  count : Nat
  slot : Nat
  deriving DecidableEq, Repr

/-- The SY block beside its registers: the translation tables by 4096·context + identifier (none: not valid), the changes that have yet to reach their counters,
those that have and the records that their counters held before them, the hung tiles of the run in order of declaration, the counters still to be released by a manual write,
whether the dump of the last declaration has finished, and the frame and the time of the first declaration. -/
structure SyncBlock where
  xlate : SMap (Option Nat)
  due : List SyncStep
  hist : List SyncStep
  base : SMap Counter
  hung : List Hung
  recorded : List Nat
  dumpDone : Bool
  hangFrame : W64
  hangTime : W64
  overwrote : Bool
  deriving DecidableEq, Repr

/-! FL block. -/

/-- A fault record (14 Table 14-2). -/
structure FRec where
  time : W64
  frame : W64
  cls : Nat
  flags : Nat
  ctx : Nat
  rank : Nat
  unit : Nat
  detail : Nat
  deriving DecidableEq, Repr

/-- A coalescing key (14 R361): class, unit, injected, and the further field where the class has one. -/
structure FKey where
  cls : Nat
  unit : Nat
  injected : Bool
  sub : Nat
  deriving DecidableEq, Repr

/-- A mode word (14 Table 14-4). -/
structure ModeWord where
  frame : W64
  work : W64
  step : Nat
  shape : Nat
  ctx : Nat
  deriving DecidableEq, Repr

/-- A masque that is pending or firing (14 Table 14-6), with the events it has fired. -/
structure Masque where
  frame : W64
  kind : Nat
  count : Nat
  sub : Nat
  unit : Nat
  sel : Nat
  fired : Nat
  deriving DecidableEq, Repr

/-- The FL block beside its registers: the record queue, the keys of the frame and since when they stand, the sixteen most
recent records, each port's outbound exchange queue, the ports whose exchange packet of the frame has gone out, the mode words received for the frame, the pending masques, the injected SRAM words (8·line + word + 2^17·tile) and HBM lines whose
effect is still to be recorded, whether a record was written in the frame, the time of the last interrupt with no plan running, how many records of the queue management firmware has copied,
and the nanosecond of the last record written with how many were written in it. -/
structure FlBlock where
  queue : List FRec
  keys : List FKey
  keysSince : Nat
  recent : List FRec
  exchange : SMap (List FRec)
  exchSent : SSet
  modes : SMap (Option ModeWord)
  masques : List Masque
  marks : SSet
  hbmMarks : SSet
  wrote : Bool
  lastIrq : Option Nat
  copied : Nat
  burstAt : Nat
  burst : Nat
  deriving DecidableEq, Repr

end Sys2Proof.Machine
end

