-- ==== Sys2Proof/Machine/LinkTypes.lean ====
section
/-! DEFINITION. What an optical port holds beside its registers (08, 09): the fibres' locks, the codeword streams, the packets
in the receive buffers and in the replay buffer, the regular entries of the frame, and the calends exchanges (10). -/

namespace Sys2Proof.Machine

/-- A fibre's receiver (08 R207): the valid markers found in a row while it hunts, the invalid ones in a row while it is locked, the
lane symbol at which the last marker ended, or should have, and whether the fibre is erased (08 R210). -/
structure Fibre where
  good : Nat
  bad : Nat
  last : Option Nat
  erased : Bool
  deriving DecidableEq, Repr

/-- A flit of the receive stream (08 Table 8-4): kind 1 data, 0 any other kind, 2 a flit of an uncorrectable codeword; the
bytes of it already taken; its bytes. -/
structure RxFlit where
  kind : Nat
  used : Nat
  data : LineBits
  deriving DecidableEq, Repr

/-- What became of a received packet (08 R222). -/
inductive RxState where
  | arriving
  | confirmed
  | failed
  deriving DecidableEq, Repr

/-- A packet in the ingress queue: its header, the lines that carry the poison marker (06 R149), the bytes of its payload and trailer as they decode (none: lost), what became of it,
whether it is discarded as a duplicate or a violation (08 Table 8-13), whether its header is malformed (08 R217), whether a receive check
dropped it (09 R238), whether a byte did not fit (08 R226), the lines that the port tiles have taken, the entry of the arrival list it serves
and whether it serves it as a leap packet (09 R237). -/
structure RxPkt where
  header : Nat
  marks : List Nat
  body : List (Option Byte)
  state : RxState
  discard : Bool
  bad : Bool
  dropped : Bool
  overflow : Bool
  taken : Nat
  entry : Option Nat
  leap : Bool
  deriving DecidableEq, Repr

/-- A packet of a transmitter: its number on the port, its header without SEQ and HCRC, those of its lines that have come, which of them carry the poison marker, its trailer's CRC-64 once
it is known, whether it is a leap copy (09 R256), its sequence number, whether
it is marked for replay and by the timeout, whether it is abandoned (none of its bytes may be sent again), whether its being held back has been counted, the place of its first transmission among
the port's, the time at which its last transmission ended (none: it is under way) and the time of its last replay. -/
structure TxPkt where
  id : Nat
  header : Nat
  lines : List LineBits
  marks : List Nat
  crc : Option Nat
  leap : Bool
  seq : Nat
  marked : Bool
  byTimeout : Bool
  abandoned : Bool
  noted : Bool
  order : Nat
  sentAt : Option Nat
  replayedAt : Option Nat
  deriving DecidableEq, Repr

/-- A packet in the framer (08 R220): its channel and number, the bytes of it that have gone, whether a masque inverts a bit of its trailer, and the byte whose codeword a masque
corrupts. -/
structure Framing where
  vc : Nat
  id : Nat
  sent : Nat
  badCrc : Bool
  badAt : Option Nat
  deriving DecidableEq, Repr

/-- A virtual channel of a port: the receiver's next expected number E, the numbers received beyond it, those of them that were abandoned, and the numbers NAKed, whether a packet has been
confirmed since training, the frame's base B, the transmitter's next number and oldest unacknowledged number U, whether any has been acknowledged since training, the packets waiting for the framer, the replay
buffer, the packets held in the receive buffer, the packets held back under R227, since when the partner has had the channel off and whether the vigil of that episode has been recorded. -/
structure Chan where
  e : Nat
  ahead : SSet
  gone : SSet
  naked : SSet
  conf : Bool
  base : Nat
  next : Nat
  oldest : Nat
  acked : Bool
  egress : List TxPkt
  replay : List TxPkt
  held : List RxPkt
  offSince : Option Nat
  offNoted : Bool
  deriving DecidableEq, Repr

/-- The outcome of a regular entry's notice and of its leap notice (09 R241). -/
inductive Notice where
  | none
  | confirm
  | fail
  | leap
  | dead
  deriving DecidableEq, Repr

/-- A regular entry in the running frame: the header received for it, whether its packet has failed or is confirmed, the lines injected so far with whether each was the packet's own, whether the leap lines injected were the packet's own, its notice, the lines of a forwarded entry carried so far, the number of its outbound
packet once it is made, whether that packet is abandoned, the trailer received, whether its copy has gone out store-and-forward, and whether
its deadline fault has been recorded. -/
structure EntryRun where
  hdr : Option Nat
  failed : Bool
  confirmed : Bool
  sent : List Bool
  leapDone : Option Bool
  notice : Notice
  fwd : Nat
  out : Option Nat
  broken : Bool
  trailer : Option Nat
  forwarded : Bool
  late : Bool
  deriving DecidableEq, Repr

/-- An entry at the frame tick. -/
def EntryRun.fresh : EntryRun :=
  ⟨none, false, false, [], none, .none, 0, none, false, none, false, false⟩

/-- A calends marker that the port has sent and whose echo may still come: t3, t1 and t2 of R283. -/
structure SentMark where
  t3 : W64
  t1 : W64
  t2 : W64
  deriving DecidableEq, Repr

/-- A link-control message to be sent (08 Table 8-9), as its 64 bits. -/
abbrev LcMsg := BitVec 64

/-- A port beside its registers. `rxCw` and `txCw` count the codewords of the receiver's and the transmitter's period, `txCol` holds the symbols of a lane position that the last codeword has
left incomplete (08 R203, R209); `fram` are the packets in the framer, `lcNow`, `lcAsk` and `calAsk` say that a link-control flit must go in the next codeword slot, that one, or a calends marker, is to go in
the next free position (08 R215, R225); `past` holds the regular entries of the frame before, as that frame left them; `feedLost` are the feeds without light (08 R199), `leapUsed` the packets
sent in the frame's leap window (01 R27), `stale` says that the counter has been set anew since the last calends marker came. -/
structure Port where
  since : Nat
  fails : Nat
  clock : Nat
  fibres : SMap Fibre
  rxHist : Nat
  rxCw : Nat
  rx : List RxFlit
  gapSeen : Bool
  cur : Option RxPkt
  hunting : Bool
  lcIn : List LcMsg
  calIn : List (LineBits × W64)
  mapWant : Option (Nat × Nat)
  txHist : Nat
  txCw : Nat
  txCol : List Nat
  txPeriod : Nat
  txMask : Nat
  txGen : Nat
  txWant : Option (Nat × Nat)
  lcOut : List LcMsg
  lcNow : Bool
  lcAsk : Bool
  calAsk : Bool
  fram : List Framing
  txOrder : Nat
  chans : SMap Chan
  entries : SMap EntryRun
  past : SMap EntryRun
  idGot : Nat
  idOk : Bool
  decodes : Bool
  berCount : Nat
  berErrs : List (Nat × Nat)
  marks : List SentMark
  lastTx : Option W64
  lastRx : W64
  cseq : Nat
  exch : List (Int × Int)
  stale : Bool
  offEpisode : Bool
  dark : Nat
  feedLost : Nat
  leapUsed : Nat
  deriving DecidableEq, Repr

/-- A channel at the port's entry to UP (08 R227). -/
def Chan.fresh : Chan := ⟨0, [], [], [], false, 0, 0, 0, false, [], [], [], none, false⟩

/-- A fibre whose receiver has found nothing. -/
def Fibre.fresh : Fibre := ⟨0, 0, none, false⟩

/-- A port after reset. The scrambler and descrambler histories hold zeros. -/
def Port.fresh : Port :=
  { since := 0, fails := 0, clock := 0, fibres := [], rxHist := 0, rxCw := 0, rx := [], gapSeen := true, cur := none, hunting := true, lcIn := [], calIn := [],
    mapWant := none, txHist := 0, txCw := 0, txCol := [], txPeriod := 0, txMask := 0x1FFF, txGen := 0, txWant := none,
    lcOut := [], lcNow := false, lcAsk := false, calAsk := false, fram := [], txOrder := 0, chans := [], entries := [], past := [], idGot := 0, idOk := false,
    decodes := false, berCount := 0, berErrs := [], marks := [],
    lastTx := none, lastRx := 0, cseq := 0, exch := [], stale := false, offEpisode := false, dark := 0, feedLost := 0, leapUsed := 0 }

end Sys2Proof.Machine
end

