-- ==== Sys2Proof/Machine/BlockTypes.lean ====
section
/-! DEFINITION. What the time, observation, serving, host, management and power blocks hold beside their registers (10, 13, 15, 16, 18),
and what leaves the device. -/

namespace Sys2Proof.Machine

/-! Time. -/

/-- An accepted step change that has not taken effect (10 R268): the step, the target frame, the time of its acceptance and whether a
plan was running then. -/
structure StepPend where
  step : Nat
  frame : W64
  at_ : Nat
  withPlan : Bool
  deriving DecidableEq, Repr

/-- The time domain: the global time counter's two copies (10 R277), the phase in 1/64 ns, the accepted step change, the start of a ramp of the
core rails, the time of entry into holdover, which references are lost (bit 0 primary, bit 1 secondary), whether a warning episode is open and since when the
margin has been at or above WARN, the lower step that firmware still has to ask for, the start of Equinox, whether it waits for a 1PPS edge, the sum of its
offsets in 1/64 ns, the time of the last captured 1PPS edge, the least margin of the running frame by region, the readings of the last 10 µs by region as time and reading, whether the PTP client is
synchronised (10 R290), and whether a masque made the copies differ. -/
structure TimeBlock where
  counter : W64
  twin : W64
  phase : Nat
  step : Option StepPend
  ramp : Option Nat
  holdSince : Option Nat
  refLost : Nat
  warning : Bool
  okSince : Option Nat
  lowerWant : Option Nat
  eqxSince : Option Nat
  eqxPps : Bool
  eqxSum : Int
  ppsAt : Option Nat
  marginLow : SMap (Option Nat)
  marginRecent : SMap (List (Nat × Nat))
  ptp : Bool
  twinInj : Bool
  deriving DecidableEq, Repr

/-! Observation. -/

/-- An entry of the digest table (15 R387): sum, elements, poison. -/
structure DigSum where
  sum : Nat
  count : Nat
  poison : Bool
  deriving DecidableEq, Repr

/-- A digest table under way or closed: the frame, its work frame count, its owner, the sums by tag. -/
structure DigTable where
  frame : W64
  work : W64
  ctx : Nat
  sums : SMap DigSum
  deriving DecidableEq, Repr

/-- An accepted watch arm (15 R390): the work frame count and the group. -/
structure WatchArmed where
  work : Nat
  group : Nat
  deriving DecidableEq, Repr

/-- What the running frame has copied of an armed group (15 Table 15-7): points, lines, poisoned lines, eve substitutes. -/
structure WatchRun where
  group : Nat
  points : Nat
  lines : Nat
  poisoned : Nat
  eve : Nat
  deriving DecidableEq, Repr

/-- The OB block beside its registers: the trace records of the last frame that wait for the trace slots, the digest table of the running frame,
the closed tables whose records are to be written, the arms, the watches of the running frame, and the points (group, number) that have copied in it. -/
structure ObBlock where
  trace : List TraceRec
  dig : DigTable
  closed : List DigTable
  arms : List WatchArmed
  runs : List WatchRun
  copied : List (Nat × Nat)
  deriving DecidableEq, Repr

/-! Serving. -/

/-- A hash record that waits for the quiet interval (13 Table 13-3): the virtual tile, the issue order of its MV.PUT, and its 32 bytes. -/
structure HashRec where
  slot : Nat
  tile : Nat
  bytes : Nat
  deriving DecidableEq, Repr

/-- A management copy in progress (13 R341): source, destination, lines, lines moved, the counter to signal, whether an
uncorrectable line has been met. -/
structure Copy where
  src : Nat
  dst : Nat
  lines : Nat
  moved : Nat
  signal : Option Nat
  fault : Bool
  deriving DecidableEq, Repr

/-- The serving machinery beside its registers: the frames with an OK commit, the frame's hash records, the copy in progress. -/
structure ServeBlock where
  commits : List W64
  hashes : List HashRec
  copy : Option Copy
  deriving DecidableEq, Repr

/-! Host. -/

/-- A BAR2 request that waits for HBM service time (16 R399): its sender, its first line, its byte in the line, its length, the bytes of a
write (none: not enabled) or those that a served read has found, whether a read has been served, touched a refused line and met a poisoned one. -/
structure HostReq where
  who : Agent
  line : Nat
  skip : Nat
  isRead : Bool
  len : Nat
  data : List (Option Byte)
  served : Bool
  refused : Bool
  poisoned : Bool
  deriving DecidableEq, Repr

/-- A mailbox channel beside its registers: the request words in service and whether there are any, whether its reply is to be discarded (16 R413), whether the load it
carries is held for self-test (00 R13), and the kept half of a plan key with its slot and the time it was kept (16 R411). -/
structure Chnl where
  words : List W32
  service : Bool
  discard : Bool
  held : Bool
  half : Option (Nat × List W32 × Nat)
  deriving DecidableEq, Repr

/-- An idle channel. -/
def Chnl.idle : Chnl := ⟨[], false, false, false, none⟩

/-- The host interface beside its registers: the BAR2 requests waiting, the channels, the VFs enabled, the MSI-X tables (key 4096·function +
offset in the table) and the pending bits (key 64·function + vector). -/
structure HostBlock where
  queue : List HostReq
  chans : SMap Chnl
  vfs : Nat
  msix : SMap W32
  pends : SSet
  deriving DecidableEq, Repr

/-! Management. -/

/-- A firmware bank in module flash (16 R402), from which the ROM computes whether it is valid: its format and its signature are good; the
hash of the public key in its header; its security version; its RAISE flag; the library version it carries; its digest. -/
structure Bank where
  valid : Bool
  key : Nat
  version : Nat
  raise : Bool
  lib : Nat
  digest : Nat
  deriving DecidableEq, Repr

/-- One-time storage (16 Table 16-4): the hashes in the firmware key slots, the slots revoked, the rollback counter, the plan keys, the slots revoked,
REQUIRED. -/
structure Otp where
  fwKeys : List Nat
  fwRevoked : Nat
  rollback : Nat
  planKeys : SMap (Option (BitVec 768))
  planRevoked : Nat
  required : Bool
  deriving DecidableEq, Repr

/-- What the management controller does at the moment. -/
inductive MgPhase where
  | off
  | running
  | recovery
  deriving DecidableEq, Repr

/-- The module configuration record (16 R408): the identity of each channel (0x1F: unbound), the default of PERST_FULL, and whether MG_CONFIG has
changed the record since the controller last booted. -/
structure ConfigRec where
  bind : List Nat
  perstFull : Bool
  fresh : Bool
  deriving DecidableEq, Repr

/-- The management controller: its phase, the two banks and the bank activated last, one-time storage, the configuration record, the fault log
newest first, the location it was given (device address and failure domains), its MCTP endpoint identifier, the SMBus straps sampled, the device description, the
thermal trip still to be reported, the digest of the running firmware, the channel of the MG_SHUTDOWN that waits for its reply, when the phase of self-test
began and whether the test has found a fault. -/
structure MgBlock where
  phase : MgPhase
  bankA : Bank
  bankB : Bank
  lastB : Bool
  otp : Otp
  config : ConfigRec
  log : List FRec
  place : Nat
  domainLo : W32
  domainHi : W32
  eid : Nat
  strap : Nat
  descr : List Byte
  trip : Option Nat
  fwDigest : Nat
  stopping : Option Nat
  testSince : Nat
  testFault : Bool
  deriving DecidableEq, Repr

/-- A load that writes (12 R318): the request it answers, its mode, and the digest of its image. -/
structure Loading where
  req : Req
  debug : Bool
  digest : Nat
  deriving DecidableEq, Repr

/-- The loader: the plan loaded, the digest recorded by the last load that returned OK, the load in progress, the load held during self-test, the posted
scheduled actions in posting order. -/
structure Loader where
  plan : Option Plan
  digest : Option Nat
  loading : Option Loading
  held : Option Req
  actions : List Action
  deriving DecidableEq, Repr

/-! Power and light. -/

/-- A cartridge bay (18 R445): whether the latch is closed, the time it closed while the cartridge waits for its bias, whether it
feeds its ports, and whether a FEED masque holds its shutter and for how many frames. -/
structure Cart where
  latched : Bool
  closedAt : Option Nat
  feeding : Bool
  masque : Bool
  masqueLeft : Nat
  deriving DecidableEq, Repr

/-- A cartridge after start-up. -/
def Cart.fresh : Cart := ⟨true, none, false, false, 0⟩

/-- The module's power: the inputs in range, the rails on (bit r: rail r of 18 Table 18-2), THERMTRIP# driven low, whether the main rails wait
for MG_POWER_ON, the coolant excursions that have raised their event, the cartridges. -/
structure PowerBlock where
  auxIn : Bool
  mainIn : Bool
  rails : Nat
  thermTrip : Bool
  held : Bool
  inletOut : Bool
  outletOut : Bool
  carts : SMap Cart
  deriving DecidableEq, Repr

/-- What the silicon fixes for one part (00 Table 0-2, 07 R193, 06): grade, stepping, the fused-out rows of each die, the rows of a
bank, each stack's RFM threshold and the insertion delay of each clock region at each step (128·step + region), in 1/64 ns (10 R266). -/
structure Fuse where
  grade : Nat
  stepping : Nat
  fusedRows : SMap Nat
  rows : Nat
  rfm : SMap Nat
  delays : SMap Nat
  deriving DecidableEq, Repr

/-- A resident routine of the library (02 R58, 16 Table 16-15): number, class, S16 to S23 read and written, length, dispatch list (cycle,
engine). -/
structure Routine where
  number : Nat
  cls : Nat
  reads : Nat
  writes : Nat
  len : Nat
  list : List (Nat × Nat)
  deriving DecidableEq, Repr

/-- What leaves the device: a BAR0 read's completion (none: Unsupported Request), a BAR2 read's with whether it is a poisoned TLP, an MSI-X message of a function, an MCTP message with its
type and body, a PlatformEventMessage for a fault record or for a condition, the symbols of a codeword on a port's fibres (fibre, lane position in the period, symbol), an alignment marker, or, beside a packet, the lines of it that
carry the poison marker (06 R149). -/
inductive Out where
  | read (a : Agent) (value : Option Nat)
  | read2 (a : Agent) (data : Option (List Byte)) (poisoned : Bool)
  | msix (f v : Nat)
  | mctp (typ : Nat) (body : List Byte)
  | event (r : FRec)
  | notify (code value : Nat)
  | symbols (p : Nat) (xs : List (Nat × Nat × Nat))
  | marks (p vc seq : Nat) (lines : List Nat)
  | marker (p f : Nat) (syms : List Nat)
  deriving DecidableEq, Repr

end Sys2Proof.Machine

namespace Sys2Proof.Config

/-- The resident routines of a library version (02 R58): the library's contents are not in the manual. -/
opaque libraryOf : Nat → List Sys2Proof.Machine.Routine

/-- The SHA-384 digest of a library version (16 Table 16-15). -/
opaque libraryDigest : Nat → BitVec 384

end Sys2Proof.Config
end

