-- ==== Sys2Proof/Machine/State.lean ====
section
/-! DEFINITION. The state of the block: every register in one map keyed by its BAR0 offset, and beside it what the spec gives each block that
no register shows; the queue of waiting commands; the state after reset. -/

namespace Sys2Proof.Machine

/-- A command that ends the run. The spec gives every command an effect, a reply or a count, so there is none. -/
inductive Fault where
  deriving DecidableEq, Repr

/-- A command that the model turns away. -/
inductive Refusal where
  /-- Raised by an arm of `exec` whose command has no meaning yet. Safe: the run stops where the hardware goes on. -/
  | notModelled (mnemonic : String)
  deriving DecidableEq, Repr

/-- The device. `now` counts nanoseconds since the model's reset; `regs` and `latches` are the registers of BAR0 outside the tile
windows and the read latches (17 R426: key 2^28 times the source plus the offset); `shadow` holds the frame-latched writes that wait (00 R9); `freeCtr` is the model's own counter, from which it draws the values that the
spec leaves open; `out` is what has left the device, newest first. -/
structure State where
  now : Nat
  regs : SMap W32
  shadow : SMap (Option W32)
  latches : SMap W32
  fuse : Fuse
  frame : FrameCtl
  loader : Loader
  tiles : SMap Tile
  routers : SMap Router
  pkts : List Packet
  pktCtr : Nat
  hbmCtl : SMap HbmCtl
  hbm : HbmMem
  ports : SMap Port
  sync : SyncBlock
  time : TimeBlock
  fl : FlBlock
  ob : ObBlock
  serve : ServeBlock
  host : HostBlock
  mg : MgBlock
  power : PowerBlock
  library : List Routine
  freeCtr : Nat
  out : List Out
  pending : List Instr
  deriving DecidableEq, Repr

/-- No frame runs. -/
def FrameCtl.idle : FrameCtl :=
  { running := false, ical := false, shape := 0, ctx := 0, alen := 0, committed := false, bits := 0, next := none, causes := [], stopAt := none,
    slot := 0, icalRun := none, rail := false, railNext := false, tickAt := 0, nowAt := 0, was := none }

/-- The SY block after self-test (11 R292). -/
def SyncBlock.reset : SyncBlock :=
  { xlate := [], due := [], hist := [], base := [], hung := [], recorded := [], dumpDone := false, hangFrame := 0, hangTime := 0, overwrote := false }

/-- The time domain after power-up: the counter unset (10 R275). -/
def TimeBlock.reset : TimeBlock :=
  { counter := 0, twin := 0, phase := 0, step := none, ramp := none, holdSince := none, refLost := 0, warning := false, okSince := none,
    lowerWant := none, eqxSince := none, eqxPps := false, eqxSum := 0, ppsAt := none, marginLow := [], marginRecent := [], ptp := false, twinInj := false }

/-- The FL block after power-up. -/
def FlBlock.reset : FlBlock :=
  { queue := [], keys := [], keysSince := 0, recent := [], exchange := [], exchSent := [], modes := [], masques := [], marks := [], hbmMarks := [],
    wrote := false, lastIrq := none, copied := 0, burstAt := 0, burst := 0 }

/-- The OB block after power-up. -/
def ObBlock.reset : ObBlock := { trace := [], dig := ⟨0, 0, 0, []⟩, closed := [], arms := [], runs := [], copied := [] }

/-- The serving machinery after power-up. -/
def ServeBlock.reset : ServeBlock := { commits := [], hashes := [], copy := none }

/-- The host interface after power-up. -/
def HostBlock.reset : HostBlock := { queue := [], chans := [], vfs := 0, msix := [], pends := [] }

/-- A firmware bank as the module is shipped: valid, under the key of slot 0. DESIGN CHOICE: the spec gives no version. -/
def Bank.shipped : Bank := ⟨true, 1, 0, false, 0, 0⟩

/-- The management controller before auxiliary power is good, with the module as shipped: both firmware key slots provisioned (DESIGN CHOICE: the
hashes), no plan key, the configuration record of 16 R408. -/
def MgBlock.reset : MgBlock :=
  { phase := .off, bankA := .shipped, bankB := { Bank.shipped with valid := false }, lastB := false,
    otp := ⟨[1, 2], 0, 0, [], 0, false⟩, config := ⟨[0x00, 0x10, 0x1F, 0x1F, 0x1F, 0x1F, 0x1F, 0x1F], false, false⟩, log := [], place := 0,
    domainLo := 0, domainHi := 0, eid := 0, strap := 0, descr := [], trip := none, fwDigest := 0, stopping := none,
    testSince := 0, testFault := false }

/-- The loader with no plan. -/
def Loader.reset : Loader := ⟨none, none, none, none, []⟩

/-- The inputs absent and every rail off. -/
def PowerBlock.reset : PowerBlock :=
  { auxIn := false, mainIn := false, rails := 0, thermTrip := false, held := false, inletOut := false, outletOut := false, carts := [] }

/-- A part of the model: a VF1536-L of stepping 0. DESIGN CHOICE: rows of a bank, RFM thresholds and the regions' clock delays, which the silicon fixes. -/
def Fuse.part : Fuse := ⟨0, 0, [], 12288, [], []⟩

/-- The device before auxiliary power is good: every register at its Reset column and nothing powered (16 Table 16-8, Power-on). The boot
begins with `auxPowerGood`. -/
def State.reset : State :=
  { now := 0, regs := [], shadow := [], latches := [], fuse := Fuse.part, frame := .idle, loader := .reset, tiles := [], routers := [], pkts := [], pktCtr := 0,
    hbmCtl := [], hbm := ⟨[], [], []⟩, ports := [], sync := .reset, time := .reset, fl := .reset, ob := .reset, serve := .reset,
    host := .reset, mg := .reset, power := .reset, library := [], freeCtr := 0, out := [], pending := [] }

end Sys2Proof.Machine
end

