-- ==== Sys2Proof/Machine/Regs.lean ====
section
/-! DEFINITION. The registers of BAR0 (17): where each block lies, the Reset columns, and reading and writing a register of the blocks outside the
tile windows. A name `rXx` is the register's BAR0 offset. -/

namespace Sys2Proof.Machine

/-! Blocks (17 Table 17-3). -/

/-- MG offset `o`. -/
def MG (o : Nat) : Nat := o
/-- TM offset `o`. -/
def TM (o : Nat) : Nat := 0x100000 + o
/-- LK offset `o` of port `p`. -/
def LK (p o : Nat) : Nat := 0x200000 + p * 0x10000 + o
/-- HB offset `o` of controller `c`. -/
def HB (c o : Nat) : Nat := 0x300000 + c * 0x20000 + o
/-- SY offset `o`. -/
def SY (o : Nat) : Nat := 0x400000 + o
/-- PL offset `o`. -/
def PL (o : Nat) : Nat := 0x500000 + o
/-- FL offset `o`. -/
def FL (o : Nat) : Nat := 0x600000 + o
/-- OB offset `o`. -/
def OB (o : Nat) : Nat := 0x700000 + o
/-- Offset `o` of the window of tile `n`. -/
def TLW (n o : Nat) : Nat := 0x1000000 + n * 0x10000 + o

/-! MG (16 Tables 16-11 to 16-13). -/
def rMgStatus := MG 0x0
def rRwlIgnored := MG 0x4
def rMgBoot := MG 0x8
def rResetPolicy := MG 0xC
def rPartId := MG 0x10
def rSelftest := MG 0x14
def rHwinDeny := MG 0x18
def rMbxDeny := MG 0x1C
def rMbxReset := MG 0x20
def rMbxLock := MG 0x24
def rLibVersion := MG 0x28
def rHwinBase (f : Nat) := MG (0x40 + 4 * f)
def rMbxBind (c : Nat) := MG (0x80 + 4 * c)
def rMsixOwner (v : Nat) := MG (0x200 + 4 * v)
def rMbxCtrl (c : Nat) := MG (0x1000 + 0x100 * c)
def rMbxReq (c w : Nat) := MG (0x1040 + 0x100 * c + 4 * w)
def rMbxRsp (c w : Nat) := MG (0x1080 + 0x100 * c + 4 * w)

/-! TM (10 Tables 10-9 to 10-11). -/
def rTmStatus := TM 0x0
def rTmRef := TM 0x4
def rTmTime := TM 0x8
def rStepReq := TM 0x10
def rStepResult := TM 0x14
def rStepTarget := TM 0x18
def rHoldover := TM 0x20
def rCalends := TM 0x24
def rMarginWarn := TM 0x28
def rMarginCrit := TM 0x2C
def rEqxStart := TM 0x30
def rEqxCtrl := TM 0x38
def rEqxStatus := TM 0x3C
def rEqxOffset := TM 0x40
def rPpsCapture := TM 0x48
def rWallOffset := TM 0x50
def rDupMismatch := TM 0x5C
def rStepChange := TM 0x60
def rWarnCnt := TM 0x64
def rPortDelay (p : Nat) := TM (0x100 + 8 * p)
def rPortOffset (p : Nat) := TM (0x104 + 8 * p)
def rMargin (r : Nat) := TM (0x200 + 4 * r)

/-! LK (08 Table 8-14, 09 Table 9-13). -/
def rLkCtrl (p : Nat) := LK p 0x4
def rLkState (p : Nat) := LK p 0x8
def rLaneLo (p : Nat) := LK p 0xC
def rLaneHi (p : Nat) := LK p 0x10
def rLkStatus (p : Nat) := LK p 0x14
def rCwCnt (p : Nat) := LK p 0x18
def rCeSym (p : Nat) := LK p 0x20
def rUcw (p : Nat) := LK p 0x24
def rHdrErr (p : Nat) := LK p 0x28
def rHunt (p : Nat) := LK p 0x2C
def rNakTx (p : Nat) := LK p 0x30
def rReplay (p : Nat) := LK p 0x34
def rTimeout (p : Nat) := LK p 0x38
def rDup (p : Nat) := LK p 0x3C
def rSeqViol (p : Nat) := LK p 0x40
def rRxOvf (p : Nat) := LK p 0x44
def rOffTx (p : Nat) := LK p 0x48
def rOffRx (p : Nat) := LK p 0x4C
def rTxHold (p : Nat) := LK p 0x50
def rLaneEvent (p : Nat) := LK p 0x54
def rReplayTimeout (p : Nat) := LK p 0x5C
def rPeerAddr (p : Nat) := LK p 0x80
def rPeerRank (p : Nat) := LK p 0x84
def rPeerPlan (p : Nat) := LK p 0x88
def rPeerStatus (p : Nat) := LK p 0x90
def rDropSrc (p : Nat) := LK p 0x94
def rDropDest (p : Nat) := LK p 0x98
def rAbandonTx (p : Nat) := LK p 0x9C
def rAbandonRx (p : Nat) := LK p 0xA0
def rDeadline (p : Nat) := LK p 0xA4
def rLkVigil (p : Nat) := LK p 0xA8
def rAckViol (p : Nat) := LK p 0xAC
def rFwd (p : Nat) := LK p 0xB0

/-! HB (06 Tables 6-9, 6-10). -/
def rHbStatus (c : Nat) := HB c 0x4
def rHbTemp (c : Nat) := HB c 0xC
def rHbTempLimit (c : Nat) := HB c 0x10
def rHbCe (c : Nat) := HB c 0x14
def rHbUe (c : Nat) := HB c 0x18
def rHbRetry (c : Nat) := HB c 0x1C
def rHbLate (c : Nat) := HB c 0x20
def rHbLateOvf (c : Nat) := HB c 0x24
def rHbWinFault (c : Nat) := HB c 0x28
def rHbReqFault (c : Nat) := HB c 0x2C
def rHbHeat (c : Nat) := HB c 0x30
def rHbArfm (c : Nat) := HB c 0x34
def rHbScrubPass (c : Nat) := HB c 0x38
def rHbLastKind (c : Nat) := HB c 0x3C
def rHbLastLine (c : Nat) := HB c 0x40
def rScrubPtr (c p : Nat) := HB c (0x100 + 4 * p)
def rWinBase (c x w : Nat) := HB c (0x1000 + 8 * (8 * x + w))
def rWinLimit (c x w : Nat) := HB c (0x1004 + 8 * (8 * x + w))

/-! SY (11 Tables 11-11 to 11-13). -/
def rSyStatus := SY 0x0
def rHangCnt := SY 0x4
def rXlateFault := SY 0x8
def rPartFail := SY 0xC
def rDumpBase := SY 0x10
def rDumpStatus := SY 0x14
def rDoorIgn := SY 0x18
def rManualHead := SY 0x1C
def rVigil (v : Nat) := SY (0x20 + 4 * v)
def rXlateProbe := SY 0x40
def rManualRej := SY 0x48
def rDoorbell (f : Nat) := SY (0x80 + 4 * f)
def rManualLog (e w : Nat) := SY (0x1000 + 16 * e + 4 * w)
def rCounter (i w : Nat) := SY (0x80000 + 16 * i + 4 * w)

/-! PL (01 Table 1-6, 09 Table 9-10, 12 Table 12-14, 13 Table 13-4). -/
def rFrameNum := PL 0x0
def rWorkFrame := PL 0x8
def rLastStatus := PL 0x10
def rUnclean := PL 0x18
def rIcalCnt := PL 0x1C
def rDeviceAddr := PL 0x100
def rRank := PL 0x104
def rPlanId := PL 0x108
def rPlState := PL 0x200
def rLoadResult := PL 0x204
def rLoadLocus := PL 0x208
def rT0 := PL 0x210
def rPeriod := PL 0x218
def rGuard := PL 0x21C
def rActDone := PL 0x224
def rActLate := PL 0x228
def rActDrop := PL 0x22C
def rIcalFirst := PL 0x300
def rIcalReq := PL 0x308
def rIcalResult := PL 0x30C
def rCtxBind (f : Nat) := PL (0x400 + 4 * f)
def rMfBase := PL 0x500
def rMfCap := PL 0x504
def rMfFrame := PL 0x508
def rMfCommit := PL 0x510
def rMfResult := PL 0x514
def rMfAccept := PL 0x518
def rMfLate := PL 0x51C
def rMfStanding := PL 0x520
def rMfDrop := PL 0x524
def rGateHold := PL 0x530
def rGateLast := PL 0x538
def rHashBase := PL 0x540
def rHashSize := PL 0x544
def rHashTail := PL 0x548
def rHashHead := PL 0x54C
def rHashLost := PL 0x550
def rCopyStatus := PL 0x560

/-! FL (14 Tables 14-8, 14-9). -/
def rFlStatus := FL 0x0
def rRecordCnt := FL 0x4
def rLostCnt := FL 0x8
def rCoalesced := FL 0xC
def rRingBase := FL 0x14
def rRingSize := FL 0x18
def rRingTail := FL 0x1C
def rRingHead := FL 0x20
def rRingLost := FL 0x24
def rFlIrq := FL 0x28
def rDomainLo := FL 0x2C
def rDomainHi := FL 0x30
def rSplitCnt := FL 0x34
def rExchTx := FL 0x38
def rExchRx := FL 0x3C
def rExchLost := FL 0x40
def rMasqueCtrl := FL 0x44
def rMasqueFired := FL 0x4C
def rMasqueSkip := FL 0x50

/-! OB (15 Tables 15-9, 15-10). -/
def rObStatus := OB 0x0
def rTraceBase := OB 0x4
def rTraceSize := OB 0x8
def rTraceTail := OB 0xC
def rTraceHead := OB 0x10
def rTraceLost := OB 0x14
def rTraceCap := OB 0x18
def rDigBase := OB 0x20
def rDigSize := OB 0x24
def rDigTail := OB 0x28
def rDigHead := OB 0x2C
def rDigLost := OB 0x30
def rDigBad := OB 0x34
def rWatchBuf := OB 0x40
def rWatchLines := OB 0x44
def rWatchLast := OB 0x4C
def rWatchDone := OB 0x50
def rWatchDrop := OB 0x54
def rWatchArmLo (f : Nat) := OB (0x100 + 16 * f)
def rWatchArmHi (f : Nat) := OB (0x104 + 16 * f)
def rWatchResult (f : Nat) := OB (0x108 + 16 * f)
def rStepTime (k : Nat) := OB (0x200 + 8 * k)

/-- The Reset column of the registers outside the tile windows (17 Tables 17-5 to 17-12): 0 but for those named here. -/
def regReset (off : Nat) : W32 :=
  if 0x200 ≤ off ∧ off < 0x300 then 0x80000000
  else if 0x1000 ≤ off ∧ off < 0x1800 ∧ off % 0x100 = 0 then 0x1F
  else if off = TM 0x8 ∨ off = TM 0xC then 0xFFFFFFFF
  else if off = rHoldover then 0x2710
  else if off = rCalends then 0x1000
  else if off = rMarginWarn then 0x14
  else if off = rMarginCrit then 0x8
  else if 0x200000 ≤ off ∧ off < 0x300000 then
    (if off % 0x10000 = 0x10 then 0x000F0000 else if off % 0x10000 = 0x5C then 0x400
     else if off % 0x10000 = 0x64 then 0x18001800 else if off % 0x10000 = 0xA8 then 0x2710 else 0)
  else if 0x300000 ≤ off ∧ off < 0x400000 ∧ off % 0x20000 = 0x10 then 0x5F
  else if SY 0x20 ≤ off ∧ off < SY 0x40 then 0x2710
  else if off = rHashSize then 8
  else if off = rRingSize ∨ off = rTraceSize ∨ off = rDigSize then 0xC
  else 0

/-- What the register at `off` holds. -/
def State.get (s : State) (off : Nat) : Nat := (smapGet regReset s.regs off).toNat

/-- The register at `off` takes the low 32 bits of `v`. -/
def State.set (s : State) (off v : Nat) : State := { s with regs := smapPut regReset s.regs off (BitVec.ofNat 32 v) }

/-- Sets the bits of `mask`. -/
def State.orBits (s : State) (off mask : Nat) : State := s.set off (s.get off ||| mask)

/-- Clears the bits of `mask`. -/
def State.clrBits (s : State) (off mask : Nat) : State := s.set off (s.get off - (s.get off &&& mask))

/-- Adds `k` to a 32-bit counter. -/
def State.bump (s : State) (off k : Nat) : State := s.set off (s.get off + k)

/-- The field of `len` bits at `lo`. -/
def State.field (s : State) (off lo len : Nat) : Nat := bitsAt (s.get off) lo len

/-- Replaces the field of `len` bits at `lo`. -/
def State.setField (s : State) (off lo len v : Nat) : State := s.set off (setBitsAt (s.get off) lo len v)

/-- Bit `i` of the register. -/
def State.bit (s : State) (off i : Nat) : Bool := bitAt (s.get off) i

/-- The 64-bit value of the pair whose low half lies at `off`. -/
def State.get64 (s : State) (off : Nat) : Nat := s.get off + 2 ^ 32 * s.get (off + 4)

/-- Writes both halves of a pair. -/
def State.set64 (s : State) (off v : Nat) : State := (s.set off (v % 2 ^ 32)).set (off + 4) (v / 2 ^ 32)

/-- Adds `k` to a 64-bit counter pair. -/
def State.bump64 (s : State) (off k : Nat) : State := s.set64 off ((s.get64 off + k) % 2 ^ 64)

/-- The registers that `p` picks return to their Reset column (17 R427). -/
def State.restore (s : State) (p : Nat → Bool) : State := { s with regs := smapDrop s.regs p }

/-! Tiles. -/

/-- Tile `n`. -/
def State.tile (s : State) (n : Nat) : Tile := smapGet (fun _ => Tile.reset) s.tiles n

/-- Replaces tile `n`. -/
def State.setTile (s : State) (n : Nat) (tl : Tile) : State := { s with tiles := smapPut (fun _ => Tile.reset) s.tiles n tl }

/-- The number of tiles (02 R40). -/
def tileCount : Nat := 1536

/-- The die of the tile at (x, y) (07 R180). -/
def dieOf (n : Nat) : Nat := (if 16 ≤ n % 32 then 1 else 0) + (if 24 ≤ n / 32 then 2 else 0)

/-- The clock region of tile `n` (02 R40). -/
def regionOf (n : Nat) : Nat := 8 * (n / 32 / 4) + (n % 32) / 4

/-- The rows of a die that are fused off, as a mask of in-die rows (07 R194). -/
def State.fusedRows (s : State) (d : Nat) : Nat := smapGet (fun _ => 0) s.fuse.fusedRows d

/-- Whether the part's fuses enable tile `n` (07 R194). -/
def State.enabled (s : State) (n : Nat) : Bool := n < tileCount && !bitAt (s.fusedRows (dieOf n)) ((n / 32) % 24)

/-- The enabled tiles in increasing physical index. -/
def State.enabledTiles (s : State) : List Nat := (List.range tileCount).filter s.enabled

end Sys2Proof.Machine
end

