-- ==== Sys2Proof/Machine/Access.lean ====
section
/-! DEFINITION. The access type of every register of BAR0 (00 R9, 17 Tables 17-4 to 17-12) and the bits that a write reaches: the others are reserved, read 0
and are written by nothing (00 R11). -/

namespace Sys2Proof.Machine

/-! The access type of each register (17 Tables 17-4 to 17-12). -/

/-- Access types (00 Table 0-7) of the registers that a plain write changes; `ro` stands for every other offset. -/
inductive AccessType where
  | ro
  | counter
  | rw
  | rwf
  | rwl
  | w1c
  deriving DecidableEq, Repr

/-- A register's access type, the bits that a write reaches, and whether management firmware alone writes it. -/
structure RegRow where
  acc : AccessType
  mask : Nat
  fwOnly : Bool
  deriving DecidableEq, Repr

def rowRo : RegRow := ⟨.ro, 0, false⟩
def rowCnt : RegRow := ⟨.counter, 0xFFFFFFFF, false⟩
def rowRw (m : Nat) : RegRow := ⟨.rw, m, false⟩
def rowRwf (m : Nat) : RegRow := ⟨.rwf, m, false⟩
def rowRwl (m : Nat) : RegRow := ⟨.rwl, m, false⟩
def rowW1c (m : Nat) : RegRow := ⟨.w1c, m, false⟩
/-- An RWL register that the loader and management firmware write (12 Table 12-13). -/
def rowFw (m : Nat) : RegRow := ⟨.rwl, m, true⟩

/-- The tile window (02 Tables 2-7, 2-9; 04 to 07, 09, 15 Table 15-8). -/
def tileRow (o : Nat) : RegRow :=
  if [0x8, 0xC, 0x10].contains o then rowFw 0x7FFE7FFF
  else if o = rTlMeshPad then rowFw 0xFF
  else if o = rTlStatus then rowW1c 0x3FC00000
  else if [rTlMxStatus, rTlEveStatus].contains o then rowW1c 0xF8000000
  else if o = rTlVxStatus then rowW1c 0xC0000000
  else if o = rTlMvStatus then rowW1c 0x80000000
  else if o = rTlMeshStatus then rowW1c 0xE0000000
  else if o = rTlHzStatus then rowW1c 0x7E000000
  else if [rTlSlip, rTlEccCe, rTlEccUe, rTlMxCheckCnt, rTlMxSpreadCnt, rTlMxRetired, rTlVxResidueCnt, rTlVxWindowCnt, rTlVxRetired, rTlMvWaited,
      rTlMvPoisonIn, rTlMvRetired, rTlMeshColl, rTlMeshMisroute, rTlMeshCross, rTlHzCnt, rTlEveReexec, rTlEveReexecCyc, rTlEveDead, rTlEveEscape,
      rTlTraceCnt, rTlTraceDrop].contains o then rowCnt
  else if 0x1000 ≤ o ∧ o < 0x1100 ∧ o % 4 = 0 then rowCnt
  else if 0x1100 ≤ o ∧ o < 0x1200 ∧ o % 4 = 0 then rowRw (if o % 8 = 4 then 0x8000FFFF else 0xFFFF)
  else if 0x1200 ≤ o ∧ o < 0x12C0 ∧ o % 64 < 48 ∧ o % 4 = 0 then rowCnt
  else if o = rTlTraceCtrl then rowRwf 0x800007FE
  else if o = rTlTraceLo ∨ o = rTlTraceHi then rowRwf 0x1FFFF
  else if 0x200 ≤ o ∧ o < 0xA00 ∧ o % 32 = 0 then rowFw 0xFFFF3FFF
  else if 0x200 ≤ o ∧ o < 0xA00 ∧ o % 32 = 4 then rowFw 0x3FFF
  else rowRo

/-- A port's window (08 Tables 8-14, 8-16; 09 Tables 9-13, 9-14). LK_CTRL has a write of its own. -/
def portRow (o : Nat) : RegRow :=
  if o = 0x14 then rowW1c 0xFFF00000
  else if o = 0x90 then rowW1c 0x8FC00000
  else if (0x20 ≤ o ∧ o ≤ 0x54 ∨ 0x94 ≤ o ∧ o ≤ 0xA4 ∨ o = 0xAC ∨ o = 0xB0) ∧ o % 4 = 0 then rowCnt
  else if o = 0x5C then rowFw 0xFFFF
  else if o = 0xA8 then rowFw 0xFFFFFF
  else rowRo

/-- A controller's window (06 Tables 6-9, 6-10). -/
def hbRow (o : Nat) : RegRow :=
  if o = 0x4 then rowW1c 0xFB000000
  else if o = 0x10 then rowFw 0xFF
  else if 0x14 ≤ o ∧ o ≤ 0x38 ∧ o % 4 = 0 then rowCnt
  else if 0x1000 ≤ o ∧ o < 0x2000 ∧ o % 8 = 0 then rowFw 0xDFFFFFFF
  else if 0x1000 ≤ o ∧ o < 0x2000 ∧ o % 8 = 4 then rowFw 0x1FFFFFFF
  else rowRo

/-- The MG block (16 Tables 16-11, 16-12); mailbox registers and the MSI-X table have writes of their own. -/
def mgRow (o : Nat) : RegRow :=
  if o = rMgStatus then rowW1c 0xE0000000
  else if [rRwlIgnored, rHwinDeny, rMbxDeny, rMbxReset].contains o then rowCnt
  else if o = rResetPolicy then rowRwl 1
  else if 0x40 ≤ o ∧ o < 0x80 ∧ o % 4 = 0 then rowRw 0x1FFF
  else if 0x220 ≤ o ∧ o < 0x300 ∧ o % 4 = 0 then rowRw 0x8000000F
  else rowRo

/-- The TM block (10 Tables 10-9 to 10-11). -/
def tmRow (o : Nat) : RegRow :=
  if o = 0x0 then rowW1c 0xFD00
  else if o = 0x4 then rowFw 0xFFF80000
  else if [0x18, 0x1C, 0x30, 0x34].contains o then rowRw 0xFFFFFFFF
  else if o = 0x20 then rowFw 0xFFFFFF
  else if o = 0x24 then rowFw 0x1FFFFF
  else if o = 0x28 ∨ o = 0x2C then rowFw 0xFF
  else if o = 0x50 ∨ o = 0x54 then ⟨.rw, 0xFFFFFFFF, true⟩
  else if [0x5C, 0x60, 0x64].contains o then rowCnt
  else rowRo

/-- The SY block (11 Tables 11-11 to 11-13). -/
def syRow (o : Nat) : RegRow :=
  if o = 0x0 then rowW1c 0x60000000
  else if [0x4, 0x8, 0xC, 0x18, 0x48].contains o then rowCnt
  else if o = 0x10 then rowFw 0x80000FFF
  else if o = 0x14 then rowW1c 0x70000000
  else if 0x20 ≤ o ∧ o < 0x40 ∧ o % 4 = 0 then rowFw 0xFFFFFFFF
  else if o = 0x40 then rowRw 0x3F0FFF
  else rowRo

/-- The PL block (01 Table 1-6, 09 Table 9-10, 12 Table 12-14, 13 Table 13-4). -/
def plRow (o : Nat) : RegRow :=
  if [0x18, 0x1C, 0x224, 0x228, 0x22C, 0x518, 0x51C, 0x520, 0x524, 0x550].contains o then rowCnt
  else if o = 0x100 ∨ o = 0x104 then rowFw 0xFFFF
  else if o = 0x108 ∨ o = 0x10C then rowFw 0xFFFFFFFF
  else if [0x300, 0x304, 0x508, 0x50C, 0x54C].contains o then rowRw 0xFFFFFFFF
  else if 0x400 ≤ o ∧ o < 0x440 ∧ o % 4 = 0 then rowRwf 0x8000003F
  else if o = 0x500 then rowFw 0x81FFFFFF
  else if o = 0x504 then rowFw 0xFF
  else if o = 0x540 then rowRwl 0x81FFFFFF
  else if o = 0x544 then rowRwl 0x1F
  else rowRo

/-- The FL block (14 Tables 14-8, 14-9). -/
def flRow (o : Nat) : RegRow :=
  if o = 0x0 then rowW1c 0xFE000000
  else if [0x4, 0x8, 0xC, 0x24, 0x34, 0x38, 0x3C, 0x40, 0x4C, 0x50].contains o then rowCnt
  else if o = 0x14 then rowRwl 0x81FFFFFF
  else if o = 0x18 then rowRwl 0x1F
  else if o = 0x20 then rowRw 0xFFFFFFFF
  else if o = 0x28 then rowRw 0x8000003F
  else if o = 0x2C then rowFw 0xFFFFFFFF
  else if o = 0x30 then rowFw 0xFFFF
  else if o = 0x44 then rowRwl 0xC0000000
  else rowRo

/-- The OB block (15 Tables 15-9, 15-10). -/
def obRow (o : Nat) : RegRow :=
  if o = 0x0 then rowW1c 0xF8000000
  else if o = 0x4 ∨ o = 0x20 then rowRwl 0x81FFFFFF
  else if o = 0x8 ∨ o = 0x24 then rowRwl 0x1F
  else if o = 0x10 ∨ o = 0x2C then rowRw 0xFFFFFFFF
  else if [0x14, 0x30, 0x34, 0x50, 0x54].contains o then rowCnt
  else if o = 0x40 then rowRwl 0x807FFFFF
  else if o = 0x44 then rowRwl 0xFFFFFF
  else if 0x200 ≤ o ∧ o < 0x228 ∧ o % 4 = 0 then rowCnt
  else rowRo

/-- The row of the register at BAR0 offset `off`. -/
def regRow (off : Nat) : RegRow :=
  if off < TM 0 then mgRow off
  else if off < LK 0 0 then tmRow (off - TM 0)
  else if off < HB 0 0 then portRow ((off - LK 0 0) % 0x10000)
  else if off < SY 0 then hbRow ((off - HB 0 0) % 0x20000)
  else if off < PL 0 then syRow (off - SY 0)
  else if off < FL 0 then plRow (off - PL 0)
  else if off < OB 0 then flRow (off - FL 0)
  else if off < 0x800000 then obRow (off - OB 0)
  else if TLW 0 0 ≤ off ∧ off < TLW tileCount 0 then tileRow ((off - TLW 0 0) % 0x10000)
  else rowRo

/-- The offset lies in a block's range (17 Table 17-3). -/
def inBlock (off : Nat) : Bool := decide (off < 0x800000) || (decide (TLW 0 0 ≤ off) && decide (off < TLW tileCount 0))

/-- An RW counter, which every sender may write (15 R376). -/
def isCounter (off : Nat) : Bool := (regRow off).acc == .counter

/-- The bits of `v` that the register at BAR0 offset `off` holds (R11). -/
def keeps (off : Nat) (v : W32) : Nat := v.toNat &&& (regRow off).mask

/-- The bits of `v` that the register at offset `o` of a tile window holds (R11). -/
def tileKeeps (o : Nat) (v : W32) : Nat := v.toNat &&& (tileRow o).mask

end Sys2Proof.Machine
end

