-- ==== Sys2Proof/Machine/Fec.lean ====
section
/-! DEFINITION. The codes of the optical link (08): GF(2^10) and RS(272,257) (R200), the scrambler (R202), the codeword layout (Tables 8-3, 8-4),
CRC-16 and CRC-64 (R218, R219). -/

namespace Sys2Proof.Machine

/-! GF(2^10) with x^10 + x^3 + 1. -/

/-- Products, by the `n` low bits of `b`. -/
def gfMul10 : Nat → Nat → Nat → Nat
  | 0, _, _ => 0
  | n + 1, a, b => (if b % 2 = 1 then a else 0) ^^^ gfMul10 n (if 512 ≤ a then (2 * a) ^^^ 0x409 else 2 * a) (b / 2)

/-- The product of two elements. -/
def gfTimes (a b : Nat) : Nat := gfMul10 10 a b

/-- α to the power `n`. -/
def gfPow10 : Nat → Nat
  | 0 => 1
  | n + 1 => let a := gfPow10 n; if 512 ≤ a then (2 * a) ^^^ 0x409 else 2 * a

/-- The `n`-th power of `a`. -/
def gfExp (a : Nat) : Nat → Nat
  | 0 => 1
  | n + 1 => gfTimes a (gfExp a n)

/-- The inverse: a^1022. -/
def gfInv (a : Nat) : Nat :=
  let sq := fun x => gfTimes x x
  let a2 := sq a
  let a4 := sq a2
  let a8 := sq a4
  let a16 := sq a8
  let a32 := sq a16
  let a64 := sq a32
  let a128 := sq a64
  let a256 := sq a128
  let a512 := sq a256
  [a2, a4, a8, a16, a32, a64, a128, a256, a512].foldl gfTimes 1

/-- The value at `x` of the polynomial whose coefficients are listed highest first. -/
def polyAt (x : Nat) (cs : List Nat) : Nat := cs.foldl (fun a c => gfTimes a x ^^^ c) 0

/-! RS with 15 check symbols (R200). -/

/-- The check symbols of the code. -/
def rsChecks : Nat := 15

/-- The syndromes S0 to S14. -/
def rsSyndromes (syms : List Nat) : List Nat := (List.range rsChecks).map (fun i => polyAt (gfPow10 i) syms)

/-- The generator polynomial, highest coefficient first. -/
def rsGenerator : List Nat :=
  (List.range rsChecks).foldl (fun g i =>
    let a := gfPow10 i
    ((g ++ [0]).zip (0 :: g)).map (fun (p : Nat × Nat) => p.1 ^^^ gfTimes a p.2)) [1]

/-- The check symbols that follow the data symbols. -/
def rsParity (data : List Nat) : List Nat :=
  data.foldl (fun reg d =>
    match reg with
    | [] => []
    | r :: rs =>
      let f := r ^^^ d
      ((rs ++ [0]).zip (rsGenerator.tail)).map (fun (p : Nat × Nat) => p.1 ^^^ gfTimes f p.2)) (List.replicate rsChecks 0)

/-- One step of Berlekamp and Massey: locator, previous locator, length, gap and previous discrepancy, lowest coefficient first. -/
structure BmState where
  loc : List Nat
  prev : List Nat
  len : Nat
  gap : Nat
  disc : Nat
  deriving DecidableEq, Repr

/-- The sum of two polynomials, lowest coefficient first. -/
def polyXor : List Nat → List Nat → List Nat
  | [], q => q
  | p, [] => p
  | a :: p, b :: q => (a ^^^ b) :: polyXor p q

def bmStep (syn : List Nat) (st : BmState) (n : Nat) : BmState :=
  let d := (List.range (st.len + 1)).foldl (fun a i => a ^^^ gfTimes (st.loc.getD i 0) (if i ≤ n then syn.getD (n - i) 0 else 0)) 0
  if d = 0 then { st with gap := st.gap + 1 }
  else
    let k := gfTimes d (gfInv st.disc)
    let next := polyXor st.loc (List.replicate st.gap 0 ++ st.prev.map (gfTimes k))
    if 2 * st.len ≤ n then ⟨next, st.loc, n + 1 - st.len, 1, d⟩ else { st with loc := next, gap := st.gap + 1 }

/-- The error locator of the syndromes. -/
def rsLocator (syn : List Nat) : BmState := (List.range rsChecks).foldl (bmStep syn) ⟨[1], [1], 0, 1, 1⟩

/-- The decoder of R200 on a word of `len` symbols: the corrected symbols and how many were wrong; none when the word has more than seven errors as the
decoder sees it. -/
def rsFix (syms : List Nat) : Option (List Nat × Nat) :=
  let len := syms.length
  let syn := rsSyndromes syms
  if syn.all (· == 0) then some (syms, 0)
  else
    let st := rsLocator syn
    if 7 < st.len then none
    else
      let rev := st.loc.reverse
      -- position j is the coefficient of x^(len - 1 - j); its locator is α^(len - 1 - j)
      let hit := (List.range len).filter (fun j => polyAt (gfInv (gfPow10 (len - 1 - j))) rev == 0)
      if hit.length ≠ st.len then none
      else
        let omega := (List.range rsChecks).map (fun i =>
          (List.range (i + 1)).foldl (fun a k => a ^^^ gfTimes (st.loc.getD k 0) (syn.getD (i - k) 0)) 0)
        let deriv := (List.range st.loc.length).filterMap (fun i => if i % 2 = 1 then some (i - 1, st.loc.getD i 0) else none)
        let mag := fun (j : Nat) =>
          let x := gfPow10 (len - 1 - j)
          let xi := gfInv x
          gfTimes x (gfTimes (polyAt xi omega.reverse) (gfInv (deriv.foldl (fun a t => a ^^^ gfTimes t.2 (gfExp xi t.1)) 0)))
        let fixed := (syms.zip (List.range len)).map (fun p => if hit.contains p.2 then p.1 ^^^ mag p.2 else p.1)
        if (rsSyndromes fixed).all (· == 0) then some (fixed, hit.length) else none

/-! Payload bits and the scrambler (R202). A payload is a number whose most significant of 2,570 bits is payload bit 0. -/

/-- The payload bits of a codeword. -/
def payloadBits : Nat := 2570

/-- The number that symbols spell, the first one highest. -/
def symsNum (syms : List Nat) : Nat := syms.foldl (fun a x => a * 1024 + x % 1024) 0

/-- The `k` symbols of a number. -/
def numSyms (k v : Nat) : List Nat := (List.range k).map (fun j => bitsAt v (10 * (k - 1 - j)) 10)

/-- Descrambles a payload after the 58 bits `hist`: the plain bits and the new history. -/
def descramble (hist y : Nat) : Nat × Nat :=
  let w := hist * 2 ^ payloadBits + y
  ((w ^^^ (w >>> 39) ^^^ (w >>> 58)) % 2 ^ payloadBits, w % 2 ^ 58)

/-- Scrambles the `k` low bits of `x`, highest first, after the 58 bits `hist`. -/
def scrambleBits (x : Nat) : Nat → Nat → Nat → Nat × Nat
  | 0, hist, out => (out, hist)
  | k + 1, hist, out =>
    let b := (bitsAt x k 1 + bitsAt hist 38 1 + bitsAt hist 57 1) % 2
    scrambleBits x k ((2 * hist + b) % 2 ^ 58) (2 * out + b)

/-! Flits (Tables 8-3, 8-4). -/

/-- Reverses the order of the 64 bytes of a flit: byte 0 is sent first. -/
def flipBytes (v : Nat) : Nat := (List.range 64).foldl (fun a k => a * 256 + bitsAt v (8 * k) 8) 0

/-- A flit: its kind code and its bytes. -/
structure Flit where
  kind : Nat
  data : LineBits
  deriving DecidableEq, Repr

/-- The five flits of a payload. -/
def payloadFlits (x : Nat) : List Flit :=
  (List.range 5).map (fun f => ⟨bitsAt x (2560 + 8 - 2 * f) 2, BitVec.ofNat 512 (flipBytes (bitsAt x (512 * (4 - f)) 512))⟩)

/-- The payload of five flits. -/
def flitsPayload (fs : List Flit) : Nat :=
  let g := fun i => fs.getD i ⟨0, 0⟩
  let ctl := (List.range 5).foldl (fun a i => a * 4 + (g i).kind % 4) 0
  (List.range 5).foldl (fun a i => a * 2 ^ 512 + flipBytes (g i).data.toNat) ctl

/-- The 272 symbols of a codeword that carries the scrambled payload `y`. -/
def codewordOf (y : Nat) : List Nat :=
  let d := numSyms 257 y
  d ++ rsParity d

/-! CRCs (R218, R219). -/

/-- Eight steps of a CRC of `w` bits with polynomial `p`. -/
def crcBits (w p : Nat) : Nat → Nat → Nat
  | 0, c => c
  | n + 1, c => crcBits w p n (if bitAt c (w - 1) then (2 * c) % 2 ^ w ^^^ p else (2 * c) % 2 ^ w)

/-- The CRC of bytes, most significant bit first, without reflection. -/
def crcOf (w p init : Nat) (bs : List Byte) : Nat :=
  bs.foldl (fun c b => crcBits w p 8 (c ^^^ (b.toNat * 2 ^ (w - 8)))) init

/-- CRC-16 of R219. -/
def crc16 (bs : List Byte) : Nat := crcOf 16 0x1021 0xFFFF bs

/-- CRC-64 of R218. -/
def crc64 (bs : List Byte) : Nat := crcOf 64 0x42F0E1EBA9EA3693 0 bs

/-- The `n` bytes of a number, most significant first. -/
def bigBytes (n v : Nat) : List Byte := (List.range n).map (fun k => BitVec.ofNat 8 (v >>> (8 * (n - 1 - k))))

/-- The number that bytes spell, most significant first. -/
def bigNum (bs : List Byte) : Nat := bs.foldl (fun a b => a * 256 + b.toNat) 0

/-- The bytes of a line, byte 0 first. -/
def lineBytes (d : LineBits) : List Byte := (List.range 64).map (fun k => BitVec.ofNat 8 (d.toNat >>> (8 * k)))

/-- A line of 64 bytes. -/
def bytesLine (bs : List Byte) : LineBits := BitVec.ofNat 512 ((bs.zip (List.range 64)).foldl (fun a b => a + b.1.toNat <<< (8 * b.2)) 0)

/-- The trailer of a packet: CRC-64 over the header with SEQ and HCRC zero, then the payload (R218). -/
def packetCrc (header : Nat) (lines : List LineBits) : Nat :=
  crc64 (bigBytes 16 (setBitsAt (setBitsAt header 96 16 0) 0 16 0) ++ (lines.map lineBytes).flatten)

end Sys2Proof.Machine
end

