-- ==== Sys2Proof/Machine/Mv.lean ====
section
/-! DEFINITION. The move engine and the eve state on one tile (06 R146 to R157, 09 R241 to R252): issuing and retiring,
reserving a decoupled queue, arrivals, MV.WAIT, lines pushed by the mesh, eve tags, notices, and the resolution and
re-execution of ranges. -/

namespace Sys2Proof.Machine

/-! Issue (R146). -/

/-- The slot in which a sending command of `n` lines retires (Table 6-2). -/
def mvSendRetire (t n : Nat) : Nat := t + 3 + (n - 1) / 2

/-- MV issues command `c` in slot `t` and puts it in flight until slot `r`. -/
def Tile.mvFly (tl : Tile) (n frame alen t r : Nat) (c : Cmd) : Tile :=
  (tl.takeHead n frame alen .mv t c).fly .mv ⟨c, tl.ops, t, 0, r, t, [], [], [], [], [], 0, 0, false, false⟩

/-- MV issues a sending command: its source lines are read as the cycles of Table 6-2 pass. -/
def Tile.mvSendIssue (tl : Tile) (n frame alen t : Nat) (c : Cmd) : Tile := tl.mvFly n frame alen t (mvSendRetire t (mvLen c)) c

/-- The command that MV can issue in slot `t`, when its operation code is `op`: of the waiters on a barrier MV comes first (02 R67). -/
def Tile.mvHead (tl : Tile) (t op : Nat) : Option Cmd := (tl.canIssueBeside (fun _ => 0) .mv t).filter (fun c => c.op == op)

/-- MV retires the operation in flight whose retirement slot is `t`, the oldest first (R66, R146). -/
def Tile.mvRetire (tl : Tile) (n frame t : Nat) : Tile :=
  match tl.mv.retiring t with
  | none => tl
  | some o => tl.retire n frame .mv t rTlMvRetired o

/-- A command that retires in its issue cycle (MV.WAIT, MV.SYNC; R155, 11 R295). -/
def Tile.mvIssueNow (tl : Tile) (n frame alen t : Nat) (c : Cmd) : Tile :=
  let tl := tl.takeHead n frame alen .mv t c
  let tl := { tl.bump rTlMvRetired 1 with retired := tl.retired + 1, ops := tl.ops + 1 }
  let tl := tl.retireSignal c
  let tl := if tl.traced .mv c then tl.emit n frame 2 (engCode .mv) t (c.word + t * 2 ^ 32) else tl
  tl.rangeDone c

/-! Decoupled queues (R153 to R155, R168). -/

/-- The entries of the arrival tracker. -/
def trackerSize : Nat := 16

/-- Reserves `k` lines at the tail of queue `q` and claims a tracker entry (R153) for the almanac's transfer `x` of controller `ctl`, when the request is one
for which the almanac has a place. -/
def Tile.reserve (tl : Tile) (t q k ctl : Nat) (x : Option Nat) : Tile :=
  let first := tl.qTail q
  let tl := upto (fun _ tl => (tl.hzPush q .mv t false).advTail q 1) 0 (if tl.debug then k else 0) tl
  let tl := if tl.debug then tl else tl.advTail q k
  { tl with tracker := tl.tracker ++ [⟨q, first, k, ctl, x, []⟩] }

/-- The lines of a transfer that stand written from its first on. -/
def arrivedRun (a : Arrival) : Nat :=
  ((List.range a.count).takeWhile (fun i => ssetHas a.done i)).length

/-- The lines of queue `q` that have arrived in reservation order and are still tracked (R154). -/
def inOrder (q : Nat) : List Arrival → Nat
  | [] => 0
  | a :: as =>
    if a.queue = q then
      let r := arrivedRun a
      if r = a.count then r + inOrder q as else r
    else inOrder q as

/-- The tracker without the entries of `q` that the count has passed. -/
def freePassed (q : Nat) : List Arrival → List Arrival
  | [] => []
  | a :: as =>
    if a.queue = q then
      if arrivedRun a = a.count then freePassed q as else a :: as
    else a :: freePassed q as

/-- Marks line `i` of the tracked transfer that arrives by transfer `x` of controller `ctl` written. -/
def markDone (ctl x i : Nat) : List Arrival → List Arrival
  | [] => []
  | a :: as =>
    if a.ctl = ctl ∧ a.xfer = some x ∧ i < a.count ∧ ssetHas a.done i = false then { a with done := ssetSet a.done i true } :: as
    else a :: markDone ctl x i as

/-- The arrival of line `i` of transfer `x` of controller `ctl`, written in slot `t` (R153, R154, R168). A line of a transfer that holds no
tracker entry is discarded. `late` says that it was delivered in a late slot. -/
def Tile.arrive (tl : Tile) (t ctl x i : Nat) (v : Line) (late : Bool) : Tile :=
  match tl.tracker.find? (fun a => a.ctl == ctl && a.xfer == some x && decide (i < a.count) && !ssetHas a.done i) with
  | none => tl
  | some a =>
    let q := a.queue
    let tl := tl.arriving q
    let pos := (a.first + i) % tl.qDepth q
    let l := tl.qLine q pos
    let (tl, lost) := tl.access ⟨t, l % 32, l, .mv, false, none⟩
    if lost then tl
    else
      let h := tl.hzQ q
      let tl := tl.setHzQ q { h with
        pushed := h.pushed + b2n (ssetHas h.arriving pos), written := ssetSet h.written pos true, arriving := ssetSet h.arriving pos false }
      let tl := ((tl.event 0x16 1).writeLine l 255 v.data.toNat v.poison).setEve l false
      let tl := (tl.event 0x0C 1).event 0x0D (b2n late)
      let tl := if v.poison then (tl.bump rTlMvPoisonIn 1).orBits rTlMvStatus (2 ^ 31) else tl
      let before := inOrder q tl.tracker
      let tracker := markDone ctl x i tl.tracker
      let after := inOrder q tracker
      (({ tl with tracker := freePassed q tracker } : Tile).bump (rTlQPush q) (after - before)).event 0x13 (after - before)

/-- The target of an MV.WAIT: TARGET plus its offset modulo 2^32. -/
def waitTarget (c : Cmd) : Nat := (c.f 58 32 + (if bitAt (c.f 52 6) 5 then c.s (c.f 52 5) else 0)) % 2 ^ 32

/-- Whether an MV.WAIT's queue had reached its target at the end of the slot before (R155). -/
def Tile.waitMet (tl : Tile) (c : Cmd) : Bool :=
  decide ((tl.qPushSeen (c.f 90 6) + 2 ^ 32 - waitTarget c) % 2 ^ 32 < 2 ^ 31)

/-- MV.WAIT issues, and retires at once, in the first cycle in which its queue has reached its target (R155). -/
def Tile.mvWaitDo (tl : Tile) (n frame alen t : Nat) : Tile :=
  match tl.mvHead t 6 with
  | none => tl
  | some c =>
    if tl.waitMet c then
      let tl := if tl.mvHeld then tl.bump rTlMvWaited 1 else tl
      tl.mvIssueNow n frame alen t c
    else tl

/-! Lines from the mesh and the optical ports (R147, 09 R241, R242). -/

/-- Pushes a line into queue `q` in slot `t` as an MV access. -/
def Tile.meshPush (tl : Tile) (t q : Nat) (v : Line) (eve : Bool) : Tile :=
  let tl := tl.arriving q
  let l := tl.qLine q (tl.qTail q)
  let (tl, lost) := tl.access ⟨t, l % 32, l, .mv, false, none⟩
  if lost then tl
  else
    let tl := ((tl.hzPush q .mv t true).event 0x16 1).writeLine l 255 v.data.toNat v.poison
    ((tl.setEve l eve).advPush q 1).event 0x29 1

/-- Line `i` of the regular delivery of entry `ent` (R241, R242): it carries the eve bit and is recorded under its tag. A delivery to a tag
that is not FREE writes its lines poisoned. -/
def Tile.eveLine (tl : Tile) (t g q ent i : Nat) (v : Line) : Tile :=
  let x := tl.tag g
  let fresh := x.state == .free && i == 0
  let same := x.state == .eve && decide (0 < i) && x.owner == ent && x.count == i
  if fresh then (tl.setTag g ⟨.eve, q, tl.qTail q, 1, ent⟩).meshPush t q v true
  else if same then (tl.setTag g { x with count := i + 1 }).meshPush t q v true
  else
    let tl := if i = 0 then (tl.orBits rTlEveStatus (2 ^ 29)).raise 0x010F t g else tl
    tl.meshPush t q { v with poison := true } false

/-- The SRAM lines a tag has recorded. -/
def Tile.tagLines (tl : Tile) (g : Nat) : List Nat :=
  let x := tl.tag g
  (List.range x.count).map (fun i => tl.qLine x.queue (x.first + i))

/-- Line `i` of a leap delivery rewrites the ring position that the regular delivery recorded: no pointer moves and the eve bit
is clear (R241). -/
def Tile.leapLine (tl : Tile) (t g i : Nat) (v : Line) : Tile :=
  let x := tl.tag g
  if x.state = .failed ∧ i < x.count then
    let l := tl.qLine x.queue (x.first + i)
    let (tl, lost) := tl.access ⟨t, l % 32, l, .mv, false, none⟩
    if lost then tl
    else (((tl.event 0x16 1).writeLine l 255 v.data.toNat v.poison).setEve l false).event 0x29 1
  else tl

/-- Every range in use with its tag still pending. -/
def Tile.overRanges (tl : Tile) (g : Nat) (f : Range → Range) : Tile :=
  upto (fun e tl => match tl.range e with
    | none => tl
    | some r => if bitAt r.mask g then tl.setRange e (some (f r)) else tl) 0 16 tl

/-- Clears a tag's bit from the pending masks (R250). -/
def Tile.clearPending (tl : Tile) (g : Nat) : Tile :=
  tl.overRanges g (fun r => { r with mask := r.mask - 2 ^ g })

/-- A CONFIRM: the recorded lines lose their eve bits and the tag is FREE (Table 9-4, R250). -/
def Tile.noticeConfirm (tl : Tile) (g : Nat) : Tile :=
  let tl := tl.event 0x2D 1
  if (tl.tag g).state = .eve then
    (((tl.tagLines g).foldl (fun tl l => tl.setEve l false) tl).setTag g .free).clearPending g
  else tl

/-- A FAIL: the tag is FAILED and the ranges that depend on it are marked failed (R250). -/
def Tile.noticeFail (tl : Tile) (g : Nat) : Tile :=
  let tl := tl.event 0x2E 1
  if (tl.tag g).state = .eve then
    (tl.setTag g { tl.tag g with state := .failed }).overRanges g (fun r => { r with failed := true })
  else tl

/-- A LEAP: the tag, its lines rewritten, is FREE (Table 9-4). -/
def Tile.noticeLeap (tl : Tile) (g : Nat) : Tile :=
  let tl := tl.event 0x2F 1
  if (tl.tag g).state = .failed then (tl.setTag g .free).clearPending g else tl

/-- A DEAD: the tag, its lines rewritten as poison, is FREE and the notice is counted (Table 9-4). -/
def Tile.noticeDead (tl : Tile) (g : Nat) : Tile :=
  let tl := ((tl.event 0x30 1).bump rTlEveDead 1).orBits rTlEveStatus (2 ^ 28)
  if (tl.tag g).state = .failed then (tl.setTag g .free).clearPending g else tl

/-! Ranges (R250, R251). -/

/-- Moves the slots of a failed range's first execution from KEPT to REWORK (15 R380). -/
def Tile.moveRework (tl : Tile) (r : Range) : Tile :=
  [Engine.mx, .vx, .mv].foldl (fun tl e =>
    let k : Int := (smapGet (fun _ => 0) r.slots (ledgerEng e) : Nat)
    (tl.charge e 0 (-k)).charge e 1 k) tl

/-- A failed entry joins the re-execution queue, which stands in the order in which its entries were opened (R250). -/
def Tile.joinRedo (tl : Tile) (e : Nat) : List Nat → List Nat
  | [] => [e]
  | x :: xs =>
    if ((tl.range e).map (fun r => r.order)).getD 0 < ((tl.range x).map (fun r => r.order)).getD 0 then e :: x :: xs else x :: tl.joinRedo e xs

/-- Range entry `e` resolves (R250): closed, nothing pending, every command of its first execution retired. -/
def Tile.rangeResolve (tl : Tile) (e : Nat) : Tile :=
  match tl.range e with
  | none => tl
  | some r =>
    if r.closed = true ∧ r.mask = 0 ∧ r.live = 0 ∧ tl.reexec.contains e = false ∧ tl.again ≠ some e then
      if r.failed then { tl.moveRework r with reexec := tl.joinRedo e tl.reexec }
      else (tl.clearSpans r.spans).setRange e none
    else tl

/-- The detector takes back the pops and the pushes of queue `q` that a re-execution takes back: `pops` from ring position `h0` on, `pushes` from `t0` on (07 R191). -/
def Tile.hzBack (tl : Tile) (q h0 pops t0 pushes : Nat) : Tile :=
  let h := tl.hzQ q
  let d := tl.qDepth q
  let h := upto (fun i (h : HzQueue) => { h with
    occ := h.occ + 1, pushed := h.pushed + 1, written := ssetSet h.written ((h0 + i) % d) true, hist := ssetSet h.hist ((h0 + i) % d) false }) 0 pops h
  tl.setHzQ q (upto (fun i (h : HzQueue) => { h with
    occ := h.occ - 1, pushed := h.pushed - 1, written := ssetSet h.written ((t0 + i) % d) false }) 0 pushes h)

/-- Restores the queues that a range's commands popped and pushed (R251). -/
def Tile.restoreQueues (tl : Tile) (r : Range) : Tile :=
  upto (fun q tl =>
    match r.queues[q]? with
    | none => tl
    | some x =>
      let back := fun (was now : Nat) (b : Bool) => if b && tl.debug then (now + 2 ^ 32 - was) % 2 ^ 32 else 0
      let tl := tl.hzBack q x.head (back x.pop (tl.qPop q) (ssetHas r.popped q)) x.tail (back x.push (tl.qPush q) (ssetHas r.pushed q))
      let tl := if ssetHas r.popped q then (tl.setPtr q x.head (tl.qTail q)).set (rTlQPop q) x.pop else tl
      if ssetHas r.pushed q then (tl.setPtr q (tl.qHead q) x.tail).set (rTlQPush q) x.push else tl) 0 64 tl

/-- Takes a range's net count back from each barrier; one held at 0 is an ESCAPE (R251), counted as every other (R244). -/
def Tile.restoreBarriers (tl : Tile) (r : Range) : Tile :=
  upto (fun b tl =>
    let k : Int := smapGet (fun _ => (0 : Int)) r.net b
    let v : Int := (tl.barrier b : Int) - k
    let tl := if v < 0 then ((tl.orBits rTlEveStatus (2 ^ 31)).bump rTlEveEscape 1).event 0x32 1 else tl
    if k = 0 then tl else tl.set (rTlBarrier b) v.toNat) 0 16 tl

/-- What a scalar instruction of a range does to the tile (R54). -/
def Tile.redoScalar (tl : Tile) (i : SqIns) : Tile :=
  match i with
  | .seti d imm => tl.setS d (immExt imm)
  | .sethi d imm => tl.setS d (BitVec.ofNat 64 ((tl.s d).toNat % 2 ^ 32 + imm.toNat * 2 ^ 32))
  | .addi d a imm => tl.setS d (tl.s a + immExt imm)
  | .alu op d a b => tl.setS d (aluRun op (tl.s a) (tl.s b))
  | _ => tl

/-- Runs the words of range `e` again from word `idx` on: scalar instructions act, and engine commands join their engine's
re-execution, each due as far after `r0` as its nominal slot lies after the range's first command (R251). `n0` is that first
command's nominal slot, once found; `noms` are the engines' last nominal slots. The words decode as R53 times a stream, the first in `r0`: `at_` is the slot of word `idx`. -/
def redoWords (e r0 stop : Nat) : Nat → Nat → Nat → List LoopLevel → Option Nat → List Nat → Tile → Tile
  | 0, _, _, _, _, _, tl => tl
  | fuel + 1, at_, idx, loops, n0, noms, tl =>
    if idx = stop then tl
    else
      match tl.fetchWord at_ idx with
      | (tl, none) => tl.illegal r0 idx
      | (tl, some (w, poisoned)) =>
        if poisoned then tl.illegal r0 idx
        else if bitAt w 63 then
          match tl.fetchWord (at_ + 1) (idx + 1) with
          | (tl, none) => tl.illegal r0 idx
          | (tl, some (w2, poisoned2)) =>
            let b := w * 2 ^ 64 + w2
            match (if poisoned2 then none else cmdEng b) with
            | none => tl.illegal r0 idx
            | some eng =>
              let k := ledgerEng eng
              let nom := noms.getD k 0 + bitsAt b 112 12
              let base := n0.getD nom
              let c : Cmd := ⟨BitVec.ofNat 128 b, idx, tl.sregs, r0 + nom - base, at_ + 2, some e, true⟩
              let x := tl.eng eng
              let tl := (tl.setEng eng { x with redo := x.redo ++ [c] }).modRange e (fun r => { r with live := r.live + 1 })
              let (next, loops, back) := loopBack (idx + 2) loops
              redoWords e r0 stop fuel (at_ + 2 + back) next loops (some base) (noms.set k nom) tl
        else
          match sqDecode w with
          | none => tl.illegal r0 idx
          | some (.loop c len) =>
            let n := (tl.s c).toNat
            if n = 0 then
              let (next, loops, back) := loopBack (idx + 1 + len) loops
              redoWords e r0 stop fuel (at_ + 1 + back) next loops n0 noms tl
            else redoWords e r0 stop fuel (at_ + 1) (idx + 1) (⟨idx + 1, idx + 1 + len, n⟩ :: loops) n0 noms tl
          | some i =>
            let (next, loops, back) := loopBack (idx + 1) loops
            redoWords e r0 stop fuel (at_ + 1 + back) next loops n0 noms (tl.redoScalar i)

/-- The re-execution of the head of the queue begins in slot `r0` (R251, R252): pointers, barriers and registers go back and its
commands wait to issue again. A range without commands ends at once. -/
def Tile.reexecute (tl : Tile) (alen r0 : Nat) : Tile :=
  match tl.reexec with
  | [] => tl
  | e :: es =>
    if tl.again.isSome || tl.frozen then tl
    else
      match tl.range e with
      | none => tl
      | some r =>
        let tl := ((tl.restoreQueues r).restoreBarriers r).modRange e (fun x => { x with net := [] })
        let tl := (((tl.bump rTlEveReexec 1).orBits rTlEveStatus (2 ^ 27)).countX 1)
        let tl : Tile := { tl with reexec := es, again := some e, redoFrom := r0, saved := tl.sregs, sregs := r.sregs }
        let tl := redoWords e r0 r.close (4 * alen + 64) r0 r.first [] none r.bases tl
        match tl.range e with
        | none => tl
        | some x => if x.live = 0 then tl.redoEnd e else tl

end Sys2Proof.Machine
end

