-- ==== Sys2Proof/Machine/Shared.lean ====
section
/-! DEFINITION. The operations that the blocks share: the plan's state, the time counter, interrupts, the fault log (14), the lines of HBM (06) and
the rings in HBM. -/

namespace Sys2Proof.Machine

/-! Plan and time. -/

/-- PL_STATE.STATE codes (12 Table 12-9). -/
def psEmpty := 0
def psLoading := 1
def psLoaded := 2
def psArmed := 3
def psRunning := 4
def psStopped := 5

/-- PL_STATE.STATE. -/
def State.planState (s : State) : Nat := s.field rPlState 29 3

/-- A plan runs in ARMED and RUNNING (12 R317). -/
def State.planRuns (s : State) : Bool := s.planState == psArmed || s.planState == psRunning

/-- TM_STATUS.COUNTER: 0 unset, 1 trial, 2 set (10 Table 10-10). -/
def State.counterState (s : State) : Nat := s.field rTmStatus 30 2

/-- What TM_TIME reads (10 R275). -/
def State.clock (s : State) : Nat := if s.counterState = 0 then 2 ^ 64 - 1 else s.time.counter.toNat

/-- The step in force. -/
def State.step_ (s : State) : Nat := s.field rTmStatus 22 3

/-- PL_FRAME_NUM. -/
def State.frameNo (s : State) : Nat := s.get64 rFrameNum

/-- PL_WORK_FRAME. -/
def State.workNo (s : State) : Nat := s.get64 rWorkFrame

/-- A work frame is running: one that is not intercalary (01 R30). -/
def State.workFrame (s : State) : Bool := s.frame.running && !s.frame.ical

/-- Self-test is running. -/
def State.selftest (s : State) : Bool := s.bit rMgStatus 26

/-- What 16 Table 16-10 says is left of self-test, in µs: the rest of the current phase's bound and the bounds of the later phases (R415). -/
def State.remaining (s : State) : Nat :=
  let bounds := [400000, 100000, 1000, 25000, 74000]
  let k := s.field rSelftest 28 4
  if k = 0 then 0 else bounds.getD (k - 1) 0 - (s.now - s.mg.testSince) / 1000 + (bounds.drop k).foldl (· + ·) 0

/-- The ROM is in recovery (16 R404). -/
def State.recovery (s : State) : Bool := s.bit rMgStatus 27

/-- Management firmware is running. -/
def State.fwUp (s : State) : Bool := s.bit rMgStatus 28

/-- The loaded plan's shape `i`. -/
def State.shape? (s : State) (i : Nat) : Option ShapePlan := s.loader.plan.bind (fun p => p.almanac.shapes[i]?)

/-- The shape of the running work frame. -/
def State.shapeNow (s : State) : Option ShapePlan := if s.workFrame then s.shape? s.frame.shape else none

/-- The instant of the tick of frame `k` (01 R18). -/
def State.tickOf (s : State) (k : Int) : Int := s.get64 rT0 + k * s.get rPeriod

/-- The commit point of frame `k` (01 R23). -/
def State.commitOf (s : State) (k : Int) : Int := s.tickOf k + s.get rPeriod - s.get rGuard

/-- A fresh free value. -/
def State.draw (s : State) : W64 × State := (Config.freeValue s.freeCtr, { s with freeCtr := s.freeCtr + 1 })

/-- Something leaves the device. -/
def State.emit (s : State) (o : Out) : State := { s with out := o :: s.out }

/-! Status codes (00 Table 0-8). -/
def stOk := 0
def stBusy := 1
def stBusySelftest := 2
def stLate := 3
def stRejected := 4
def stLocked := 5
def stSenderReset := 6
def stFault := 7

/-! Interrupts (16 R401). -/

/-- The function that owns vector `v`: the channel's function for v below 8, the owner register's for the rest. -/
def State.vectorOwner (s : State) (v : Nat) : Option Nat :=
  if v < 8 then
    (if s.bit (rMbxBind v) 31 ∧ s.field (rMbxBind v) 0 5 < 16 then some (s.field (rMbxBind v) 0 5) else none)
  else if s.bit (rMsixOwner v) 31 then some (s.field (rMsixOwner v) 0 4) else none

/-- The function exists: PF0, or a VF that is enabled. -/
def State.fnExists (s : State) (f : Nat) : Bool := f == 0 || bitAt s.host.vfs f

/-- An entry of the MSI-X table after a reset: its vector control masks it. PRESUMED (PCIe). -/
def msixReset (k : Nat) : W32 := if k % 16 = 12 then 1 else 0

/-- Word `w` of entry `v` of function `f`'s MSI-X table. -/
def State.msixWord (s : State) (f v w : Nat) : Nat := (smapGet msixReset s.host.msix (4096 * f + 16 * v + 4 * w)).toNat

/-- Raises vector `v` at its owner: the message goes out, or stays pending while the entry is masked; with no owner, or with the PCIe interface unpowered
(18 rail 12), it is lost. -/
def State.raiseVec (s : State) (v : Nat) : State :=
  match s.vectorOwner v with
  | none => s
  | some f =>
    if !s.fnExists f || !bitAt s.power.rails 12 then s
    else if bitAt (s.msixWord f v 3) 0 then { s with host := { s.host with pends := ssetSet s.host.pends (64 * f + v) true } }
    else s.emit (.msix f v)

/-! Fault records (14 R360 to R363). -/

/-- Unit kinds (14 Table 14-3). -/
def uDevice := 0
def uTile := 1
def uPort := 2
def uHbm := 3
def uRegion := 4
def uSync := 5
def uMgmt := 6
def uRail := 7
def uCart := 8

/-- The classes whose outcome in 14 Table 14-1 is that the plan stops. LANE_STOP says so itself. -/
def stopClass (cls : Nat) : Bool := [0x0201, 0x0202, 0x0203, 0x040B, 0x0501, 0x0504, 0x0603, 0x0701, 0x0802].contains cls

/-- The classes that management firmware forwards to the BMC whatever their STOP flag (16 R406). -/
def eventClass (cls : Nat) : Bool := [0x0802, 0x0801, 0x0306, 0x0803, 0x0404].contains cls

/-- The records of firmware's log (16 R406). -/
def logSize : Nat := 4096
/-- The records of the FL queue (14 R361). -/
def flQueueSize : Nat := 8192

/-- Of two records of one nanosecond, `a` is written before `b`: by increasing UNIT kind, then index, then CLASS (R361). -/
def FRec.before (a b : FRec) : Bool := decide (a.unit < b.unit) || (a.unit == b.unit && decide (a.cls < b.cls))

/-- Puts record `r` into a list, newest first, whose first `k` records were raised in the same nanosecond. -/
def putRecord (r : FRec) : Nat → List FRec → List FRec
  | k + 1, x :: xs => if r.before x then x :: putRecord r k xs else r :: x :: xs
  | _, xs => r :: xs

/-- Firmware receives a record: it goes into its log, among the last `k`, and to the BMC where R406 says so. -/
def State.fwLog (s : State) (r : FRec) (k : Nat) : State :=
  let s := { s with mg := { s.mg with log := (putRecord r k s.mg.log).take logSize } }
  if bitAt r.flags 2 ∨ eventClass r.cls then s.emit (.event r) else s

/-- How many of the queue's last records the next one may still go before: those of the present nanosecond. What firmware has copied stays in its place, unless firmware
copies each record as it is written. -/
def State.flBurst (s : State) : Nat :=
  let k := if s.fl.burstAt = s.now then s.fl.burst else 0
  let n := s.fl.queue.length - s.fl.copied
  if (s.fwUp && s.fl.copied == s.fl.queue.length) || decide (k ≤ n) then k else n

/-- The record goes into the queue, which has room, and into FL_RECENT; firmware that is up receives it at once (R361 to R363). -/
def State.flStore (s : State) (r : FRec) : State :=
  let k := s.flBurst
  let s := s.bump rRecordCnt 1
  let s := { s with fl := { s.fl with queue := (putRecord r k s.fl.queue.reverse).reverse, recent := (putRecord r k s.fl.recent).take 16, wrote := true,
                                      burstAt := s.now, burst := k + 1 } }
  if s.fwUp ∧ s.fl.copied + 1 = s.fl.queue.length then { s with fl := { s.fl with copied := s.fl.copied + 1 } }.fwLog r k else s

/-- The fault interrupt that a written record raises at once: for one with STOP, and outside a frame no sooner than 10 µs after the last one (R363). -/
def State.flNotify (s : State) (r : FRec) : State :=
  if !s.bit rFlIrq 31 then s
  else if bitAt r.flags 2 then s.raiseVec (s.field rFlIrq 0 6)
  else if s.frame.running then s
  else if (match s.fl.lastIrq with
      | some a => decide (a + 10000 ≤ s.now)
      | none => true) then
    { s with fl := { s.fl with lastIrq := some s.now, wrote := false } }.raiseVec (s.field rFlIrq 0 6)
  else s

/-- The FL block writes a record into its queue, or drops it (R361). -/
def State.flWrite (s : State) (r : FRec) : State :=
  if flQueueSize ≤ s.fl.queue.length then (s.bump rLostCnt 1).orBits rFlStatus (2 ^ 31) else (s.flStore r).flNotify r

/-- The record of class `cls` that unit `kind`, `idx` raises now, with the given flags and frame attribution. -/
def State.mkRec (s : State) (cls kind idx detail : Nat) (inj stop : Bool) : FRec :=
  let noplan := !s.frame.running
  { time := BitVec.ofNat 64 s.clock
    frame := if noplan then BitVec.ofNat 64 (2 ^ 64 - 1) else BitVec.ofNat 64 s.frameNo
    cls := cls
    flags := b2n inj + 4 * b2n stop + 8 * b2n noplan
    ctx := if noplan || s.frame.ical then 0xFF else s.frame.ctx
    rank := s.field rRank 0 16
    unit := kind * 4096 + idx
    detail := detail }

/-- The keys of the frame, or of the millisecond while no frame runs, are still those that the FL block keeps (R361). -/
def State.keysFresh (s : State) : Bool := s.frame.running || decide (s.now < s.fl.keysSince + 1000000)

/-- Writes the record unless its coalescing key already stands (R361). -/
def State.flRaise (s : State) (r : FRec) (sub : Nat) : State :=
  let key : FKey := ⟨r.cls, r.unit, bitAt r.flags 0, sub⟩
  let s := if s.keysFresh then s else { s with fl := { s.fl with keys := [], keysSince := s.now } }
  if s.fl.keys.contains key then s.bump rCoalesced 1
  else { s with fl := { s.fl with keys := key :: s.fl.keys } }.flWrite r

/-- A unit raises a record; `sub` is the key's further field where the class has one. -/
def State.recordSub (s : State) (cls kind idx detail sub : Nat) : State :=
  s.flRaise (s.mkRec cls kind idx detail false (stopClass cls && s.planRuns)) sub

/-- A unit raises a record of a class without a further key field. -/
def State.record (s : State) (cls kind idx detail : Nat) : State := s.recordSub cls kind idx detail 0

/-- A record that a masque on this device produced carries INJECTED (14 R370). -/
def State.recordInj (s : State) (cls kind idx detail : Nat) (inj : Bool) : State :=
  s.flRaise (s.mkRec cls kind idx detail inj (stopClass cls && s.planRuns)) 0

/-- Sets a bit of the running frame's status (01 Table 1-7). -/
def State.frameBit (s : State) (i : Nat) : State := { s with frame := { s.frame with bits := s.frame.bits ||| 2 ^ i } }
def fbCommit := 29
def fbDeadline := 28
def fbLeap := 27
def fbSlip := 26
def fbReexec := 25
def fbReplay := 24

/-- Stop causes in the precedence order of 12 Table 12-12. -/
def causeOrder : List Nat := [6, 2, 5, 4, 7, 3, 1]

/-- A cause that stops a running plan at the next tick (12 R323). -/
def State.cause (s : State) (c : Nat) : State :=
  if s.planRuns then { s with frame := { s.frame with causes := c :: s.frame.causes } } else s

/-! HBM lines (06 R150, R166 to R168). -/

/-- Products in GF(2^8) with the field polynomial of R166. -/
def gfMul8 : Nat → Nat → Nat → Nat
  | 0, _, _ => 0
  | n + 1, a, b =>
    let a2 := if 128 ≤ a then (2 * a) ^^^ 0x11D else 2 * a
    (if b % 2 = 1 then a else 0) ^^^ gfMul8 n a2 (b / 2)

/-- α to the power `n`. -/
def gfPow8 : Nat → Nat
  | 0 => 1
  | n + 1 => gfMul8 8 (gfPow8 n) 2

/-- Whether a line address lies within HBM. -/
def State.inHbm (s : State) (hla : Nat) : Bool := decide (hla < 2 ^ 33) && decide (hla % 2 ^ 30 < 49152 * s.fuse.rows)

/-- The symbols of line `hla` that are stored wrong: symbol and inverted bits. -/
def State.symErrs (s : State) (hla : Nat) : List (Nat × Nat) :=
  (s.hbm.wrong.filter (fun e => e.1 / 68 == hla)).map (fun e => (e.1 % 68, e.2.toNat))

/-- Syndrome `i` of an error pattern: symbol k is the coefficient of x^(67 - k). -/
def rsSyn (errs : List (Nat × Nat)) (i : Nat) : Nat :=
  errs.foldl (fun a e => a ^^^ gfMul8 8 e.2 (gfPow8 (i * (67 - e.1) % 255))) 0

/-- What the decoder of R166 makes of an error pattern: none where it finds it uncorrectable; else the symbol it
corrects and the bits, with 68 for a zero syndrome. -/
def rsDecode (errs : List (Nat × Nat)) : Option (Nat × Nat) :=
  let sy := (List.range 4).map (rsSyn errs)
  let s0 := sy.getD 0 0
  if sy.all (· == 0) then some (68, 0)
  else if s0 = 0 then none
  else ((List.range 68).find? (fun k => (List.range 4).all (fun i =>
    sy.getD i 0 == gfMul8 8 s0 (gfPow8 (i * (67 - k) % 255))))).map (fun k => (k, s0))

/-- How a line was found: no error, one symbol corrected, uncorrectable (06 Table 6-6). -/
inductive LineFound where
  | good
  | corrected
  | bad
  deriving DecidableEq, Repr

/-- Flips bits of the bytes of a line: symbols 64 to 67 are check symbols. -/
def flipSyms (errs : List (Nat × Nat)) (data : Nat) : Nat :=
  errs.foldl (fun a e => if e.1 < 64 then a ^^^ (e.2 <<< (8 * e.1)) else a) data

/-- The stored data of a line, before any error. -/
def State.hbmData (s : State) (hla : Nat) : Nat := bytesGet s.hbm.data (64 * hla) 64

/-- The bytes of a line without decoding, with the poison pattern. -/
def State.hbmRaw (s : State) (hla : Nat) : Line := ⟨BitVec.ofNat 512 (s.hbmData hla), ssetHas s.hbm.poison hla⟩

/-- What the decoder makes of a stored line with the given symbols wrong (R166): the line and how it was found. -/
def decodeLine (raw : Line) (errs : List (Nat × Nat)) : Line × LineFound :=
  if errs.isEmpty then ((if raw.poison then Line.void else raw), .good)
  else match rsDecode errs with
    | none => (Line.void, .bad)
    | some (k, e) =>
      let fix := if k < 68 then [(k, e)] else []
      let v : Line := if raw.poison then Line.void else ⟨BitVec.ofNat 512 (flipSyms (errs ++ fix) raw.data.toNat), false⟩
      (v, if k < 68 then .corrected else .good)

/-- Reads line `hla`. -/
def State.hbmRead (s : State) (hla : Nat) : Line × LineFound := decodeLine (s.hbmRaw hla) (s.symErrs hla)

/-- Writes a whole line (R166): a poisoned line is stored as zero data with the poison pattern. -/
def State.hbmWrite (s : State) (hla : Nat) (v : Line) : State :=
  { s with hbm := { data := bytesPut s.hbm.data (64 * hla) 64 (if v.poison then 0 else v.data.toNat)
                    poison := ssetSet s.hbm.poison hla v.poison
                    wrong := smapDrop s.hbm.wrong (fun k => k / 68 == hla) } }

/-- Writes the low `n` bytes of `v` at byte `a` of HBM: the device's own records, which share lines. -/
def State.hbmBytes (s : State) (a n v : Nat) : State := { s with hbm := { s.hbm with data := bytesPut s.hbm.data a n v } }

/-- A window of context `x` admits line `hla` for the access (06 R151): bit 31 RD, bit 30 WR. -/
def State.windowHas (s : State) (c x hla : Nat) (write : Bool) : Bool :=
  s.inHbm hla && (List.range 8).any (fun w =>
    s.bit (rWinBase c x w) (if write then 30 else 31)
      && decide (s.field (rWinBase c x w) 0 29 ≤ hla / 16) && decide (hla / 16 ≤ s.field (rWinLimit c x w) 0 29))

/-- The HBM fault of `kind` at line `l` of controller `c` (06 Table 6-9). -/
def State.hbLast (s : State) (c kind l : Nat) : State := (s.set (rHbLastKind c) kind).set (rHbLastLine c) l

/-- A read that is not for a tile, as it is counted (R168): the host's, or a copy's, which writes its own record. -/
def State.hbmHostRead (s : State) (hla : Nat) (host : Bool) : State × Line × LineFound :=
  let c := hla / 2 ^ 30
  let (v, f) := s.hbmRead hla
  match f with
  | .good => (s, v, f)
  | .corrected => (s.bump (rHbCe c) 1, v, f)
  | .bad =>
    let s := ((s.bump (rHbUe c) 1).orBits (rHbStatus c) (2 ^ 31)).hbLast c 1 (hla % 2 ^ 30)
    (if host then s.record 0x0301 uHbm c (hla % 2 ^ 30) else s, v, f)

/-! Rings in HBM (13 R351, 14 R362, 15 R383). -/

/-- The registers of a ring: base, size, tail, head, the counter of lost records. -/
structure Ring where
  base : Nat
  size : Nat
  tail : Nat
  head : Nat
  lost : Nat
  deriving DecidableEq, Repr

/-- The ring takes records: VALID is set and SIZE is 8 to 24. -/
def State.ringOn (s : State) (r : Ring) : Bool :=
  s.bit r.base 31 && decide (8 ≤ s.field r.size 0 5) && decide (s.field r.size 0 5 ≤ 24)

/-- The ring holds as many records as it has room for that the host has not consumed. -/
def State.ringFull (s : State) (r : Ring) : Bool :=
  (s.get r.tail + 2 ^ 32 - s.get r.head) % 2 ^ 32 == 2 ^ s.field r.size 0 5

/-- Writes the 32 bytes of a record at the tail. -/
def State.ringWrite (s : State) (r : Ring) (bytes : Nat) : State :=
  (s.hbmBytes (64 * (256 * s.field r.base 0 25) + 32 * (s.get r.tail % 2 ^ s.field r.size 0 5)) 32 bytes).bump r.tail 1

/-- The fault ring. -/
def faultRing : Ring := ⟨rRingBase, rRingSize, rRingTail, rRingHead, rRingLost⟩
def traceRing : Ring := ⟨rTraceBase, rTraceSize, rTraceTail, rTraceHead, rTraceLost⟩
def digRing : Ring := ⟨rDigBase, rDigSize, rDigTail, rDigHead, rDigLost⟩
def hashRing : Ring := ⟨rHashBase, rHashSize, rHashTail, rHashHead, rHashLost⟩

/-- A record as its 32 bytes, little-endian (14 Table 14-2). -/
def FRec.bytes (r : FRec) : Nat :=
  r.time.toNat + r.frame.toNat * 2 ^ 64 + (r.cls % 2 ^ 16) * 2 ^ 128 + (r.flags % 256) * 2 ^ 144 + (r.ctx % 256) * 2 ^ 152
    + (r.rank % 2 ^ 16) * 2 ^ 160 + (r.unit % 2 ^ 16) * 2 ^ 176 + (r.detail % 2 ^ 64) * 2 ^ 192

/-- The record that 32 bytes spell. -/
def recOf (b : Nat) : FRec :=
  { time := BitVec.ofNat 64 b, frame := BitVec.ofNat 64 (bitsAt b 64 64), cls := bitsAt b 128 16, flags := bitsAt b 144 8, ctx := bitsAt b 152 8,
    rank := bitsAt b 160 16, unit := bitsAt b 176 16, detail := bitsAt b 192 64 }

/-- A record bound for the fault ring (R362). -/
def State.faultToRing (s : State) (r : FRec) : State :=
  if !s.ringOn faultRing then s
  else if s.ringFull faultRing then (s.bump rRingLost 1).orBits rFlStatus (2 ^ 30)
  else s.ringWrite faultRing r.bytes

/-- The records that firmware has copied leave the queue for the fault ring, in HBM service time (R362; 16 R406: the others wait for firmware). -/
def State.drainFaults (s : State) : State :=
  let rs := s.fl.queue.take s.fl.copied
  let s := { s with fl := { s.fl with queue := s.fl.queue.drop s.fl.copied, copied := 0 } }
  rs.foldl State.faultToRing s

end Sys2Proof.Machine
end

