-- ==== Sys2Proof/Machine/Counters.lean ====
section
/-! DEFINITION. The slots that the time counter shows (10 R266) and the sync counters (11 R292, R296 to R299): the changes that are on their way to a counter, the order in which
those of one cycle apply, and what a WAIT sees. -/

namespace Sys2Proof.Machine

/-! Slots (01 R19, 10 R266). -/

/-- Twenty times the clock of the step in force, in GHz (10 Table 10-2). -/
def State.rate (s : State) : Nat := [24, 27, 30, 33].getD s.step_ 36

/-- δ of region `r` at the step in force, in 1/64 ns: what the silicon fixes, and less than a cycle (10 R266). -/
def State.regionDelay (s : State) (r : Nat) : Nat := smapGet (fun _ => 0) s.fuse.delays (128 * s.step_ + r) % (1280 / s.rate)

/-- The number, counted from the counter's zero, of the clock edge with which slot 0 of the running frame begins, for a delay of `d`. -/
def State.edge0 (s : State) (d : Nat) : Int := -((-((64 * s.frame.tickAt.toNat : Nat) - (d : Int)) * s.rate) / 1280)

/-- What the counter reads, in 1/64 ns: it goes on from the tick whatever its state. -/
def State.reading (s : State) : Nat := 64 * (s.frame.tickAt.toNat + (s.now - s.frame.nowAt)) + s.time.phase

/-- The slot in which the present instant lies, for a delay of `d`. -/
def State.slotAt (s : State) (d : Nat) : Nat := (((s.reading : Int) - d) * s.rate / 1280 - s.edge0 d).toNat

/-- The slot of tile `n`. -/
def State.slotIn (s : State) (n : Nat) : Nat := s.slotAt (s.regionDelay (regionOf n))

/-- The last slot of tile `n` that begins before the present instant (11 R303). -/
def State.slotBefore (s : State) (n : Nat) : Nat :=
  let d := s.regionDelay (regionOf n)
  (-((-((s.reading : Int) - d) * s.rate) / 1280) - 1 - s.edge0 d).toNat

/-- The slot as the blocks outside the tiles count it: without a delay. DESIGN CHOICE (log 74). -/
def State.slotNow (s : State) : Nat := s.slotAt 0

/-- The later of the slot the counter shows and the slots already seen. -/
def State.slotBy (s : State) : Nat := if s.slotNow < s.frame.slot then s.frame.slot else s.slotNow

/-- The nanosecond in which slot `e` ends (17 R449). -/
def State.slotEnd (s : State) (e : Int) : Nat :=
  (((s.edge0 0 + e + 1) * 1280 / s.rate - s.time.phase) / 64 - s.frame.tickAt.toNat + s.frame.nowAt).toNat

/-! Counter records (R292). -/

/-- The record of physical counter `i` (R292). -/
def State.counterRec (s : State) (i : Nat) : Counter :=
  ⟨BitVec.ofNat 32 (s.get (rCounter i 0)), BitVec.ofNat 32 (s.get (rCounter i 1)), BitVec.ofNat 32 (s.get (rCounter i 2)),
    BitVec.ofNat 32 (s.get (rCounter i 3))⟩

/-- Writes the record of counter `i`. -/
def State.setCounter (s : State) (i : Nat) (c : Counter) : State :=
  (((s.set (rCounter i 0) c.value.toNat).set (rCounter i 1) c.target.toNat).set (rCounter i 2) c.masks.toNat).set (rCounter i 3) c.flags.toNat

/-- ERR, REACHED, NOTIFY and VECTOR of a record (Table 11-1). -/
def Counter.err (c : Counter) : Bool := bitAt c.flags.toNat 31
def Counter.reached (c : Counter) : Bool := bitAt c.flags.toNat 30
def Counter.notify (c : Counter) : Bool := bitAt c.flags.toNat 29
def Counter.vector (c : Counter) : Nat := bitsAt c.flags.toNat 16 6
def Counter.fmask (c : Counter) : Nat := bitsAt c.flags.toNat 0 16
def Counter.amask (c : Counter) : Nat := bitsAt c.masks.toNat 0 16
def Counter.pmask (c : Counter) : Nat := bitsAt c.masks.toNat 16 16

/-- Sets or clears bit `i` of the flags word. -/
def Counter.setFlag (c : Counter) (i : Nat) (b : Bool) : Counter := { c with flags := BitVec.ofNat 32 (setBitsAt c.flags.toNat i 1 (b2n b)) }

/-- REACHED as R292 defines it: (VALUE − TARGET) mod 2^32 < 2^31. -/
def Counter.isReached (c : Counter) : Bool := decide ((c.value - c.target).toNat < 2 ^ 31)

/-- REACHED is recomputed. -/
def Counter.recompute (c : Counter) : Counter := c.setFlag 30 c.isReached

/-- A SIGNAL adds to VALUE (R297). -/
def Counter.signal (c : Counter) (inc : Nat) : Counter := ({ c with value := c.value + BitVec.ofNat 32 inc }).recompute

/-- An ARM adds to TARGET (R297). -/
def Counter.arm (c : Counter) (inc : Nat) : Counter := ({ c with target := c.target + BitVec.ofNat 32 inc }).recompute

/-- Part `p` fails for what the record holds: it is unexpected or a duplicate (R299). -/
def Counter.partBad (c : Counter) (p : Nat) : Bool := !bitAt c.pmask p || bitAt c.amask p

/-- A part (R299). -/
def Counter.part (c : Counter) (p : Nat) (fail : Bool) : Counter :=
  let bad := fail || c.partBad p
  let am := c.amask ||| 2 ^ p
  let c := if bad then { c with flags := BitVec.ofNat 32 (c.flags.toNat ||| 2 ^ p ||| 2 ^ 31) } else c
  if am = c.pmask then
    let c := { c with masks := BitVec.ofNat 32 (c.pmask * 2 ^ 16) }
    if c.fmask = 0 then c.signal 1 else c
  else { c with masks := BitVec.ofNat 32 (c.pmask * 2 ^ 16 + am) }

/-- Word `i` of a request. -/
def word (ws : List W32) (i : Nat) : Nat := (ws.getD i 0).toNat

/-- The record that SY_SET, or SY_CLEAR (`clear`), leaves (Tables 11-8, 11-9). -/
def manualRec (ws : List W32) (clear : Bool) (c : Counter) : Counter :=
  let w3 := word ws 3
  let pm := if bitAt w3 31 then bitsAt w3 0 16 else c.pmask
  let am := if clear then 0 else c.amask
  let fl := c.flags.toNat
  let fl := if bitAt w3 30 then setBitsAt (setBitsAt fl 29 1 (bitsAt w3 29 1)) 16 6 (bitsAt w3 16 6) else fl
  let fl := if clear then setBitsAt (setBitsAt fl 31 1 0) 0 16 0 else fl
  (Counter.mk (BitVec.ofNat 32 (word ws 1)) (BitVec.ofNat 32 (word ws 2)) (BitVec.ofNat 32 (pm * 2 ^ 16 + am)) (BitVec.ofNat 32 fl)).recompute

/-- One change (R297, R299, R300, R308). -/
def SyncStep.run (x : SyncStep) (c : Counter) : Counter :=
  match x.kind with
  | 0 => manualRec x.words (x.a == 1) c
  | 1 => c.signal x.a
  | 2 => c.arm x.a
  | 3 => c.part x.a (x.b == 1)
  | _ => c.setFlag 31 true

/-- Whether a change is a part that fails on the record it meets (R299). -/
def SyncStep.fails (x : SyncStep) (c : Counter) : Bool := x.kind == 3 && (x.b == 1 || c.partBad x.a)

/-- The place of a change: by the SY block's cycle in which it takes effect; in one cycle manual writes first, then signals and arms, then parts (R296, 17 R449). -/
def SyncStep.key (x : SyncStep) : Nat := 4 * x.ns + (if x.kind = 0 then 0 else if x.kind < 3 then 1 else 2)

/-- Puts a change in its place. -/
def insertStep (x : SyncStep) : List SyncStep → List SyncStep
  | [] => [x]
  | y :: ys => if x.key < y.key then x :: y :: ys else y :: insertStep x ys

/-- The record that a counter comes to from `c` by the changes that `p` picks. -/
def runSteps (p : SyncStep → Bool) (xs : List SyncStep) (c : Counter) : Counter := (xs.filter p).foldl (fun c x => x.run c) c

/-- The record of counter `i` before the frame's changes. -/
def State.counterBase (s : State) (i : Nat) : Counter :=
  if s.sync.hist.any (fun x => x.ctr == i) then smapGet (fun _ => Counter.zero) s.sync.base i else s.counterRec i

/-- The record of counter `i` that a WAIT in slot `t` sees: the one that held at the end of slot t − 41 (R296). -/
def State.counterSeen (s : State) (i t : Nat) : Counter :=
  runSteps (fun x => x.ctr == i && decide (x.eff + 41 ≤ t)) (s.sync.hist ++ s.sync.due) (s.counterBase i)

/-- A change to counter `i` that takes effect now. -/
def State.stepAt (s : State) (i kind a b : Nat) : SyncStep := ⟨i, s.slotBy, s.now, kind, a, b, []⟩

/-- A change to counter `i` that takes effect at the end of slot `eff`. -/
def State.stepIn (s : State) (i eff kind a b : Nat) : SyncStep := ⟨i, eff, s.slotEnd eff, kind, a, b, []⟩

/-- A change takes effect (R296, R297, R299): it takes its place among those of its cycle; a failing part is counted and recorded with FMASK; the vector is raised when the
record has come to REACHED. With no frame running only the present cycle's changes are kept. -/
def State.syncApply (s : State) (x : SyncStep) : State :=
  let s := if s.frame.running then s else { s with sync := { s.sync with hist := s.sync.hist.filter (fun y => y.ns == s.now) } }
  let old := s.counterRec x.ctr
  let base := s.counterBase x.ctr
  let hist := insertStep x s.sync.hist
  let mine := fun (y : SyncStep) => y.ctr == x.ctr
  let new := runSteps mine hist base
  let before := runSteps mine (s.sync.hist.takeWhile (fun y => decide (y.key ≤ x.key))) base
  let s := { s with sync := { s.sync with hist := hist, base := smapPut (fun _ => Counter.zero) s.sync.base x.ctr base } }
  let s := s.setCounter x.ctr new
  let s := if x.fails before then
    ((s.bump rPartFail 1).orBits rSyStatus (2 ^ 29)).recordSub 0x0602 uSync 0 (x.ctr % 2 ^ 15 + new.fmask * 2 ^ 16) x.ctr else s
  if !old.reached && new.reached && new.notify then s.raiseVec new.vector else s

/-- A change sets out for its counter. -/
def State.syncIn (s : State) (x : SyncStep) : State := { s with sync := { s.sync with due := insertStep x s.sync.due } }

/-- The changes whose cycle is over take effect. -/
def State.syncRun (s : State) : State :=
  let past := fun (x : SyncStep) => decide (x.ns < s.now) || (s.frame.running && decide (x.eff < s.frame.slot))
  (s.sync.due.filter past).foldl State.syncApply { s with sync := { s.sync with due := s.sync.due.filter (fun x => !past x) } }

/-- The changes as the next frame counts their slots, when its slot 0 begins with edge `k` of the running one: those that every WAIT of it sees join the base. -/
def State.syncShift (s : State) (k : Nat) : State :=
  let move := fun (x : SyncStep) => { x with eff := x.eff - k }
  let hist := s.sync.hist.map move
  let past := fun (x : SyncStep) => decide (x.eff + 41 ≤ 0)
  { s with sync := { s.sync with
      hist := hist.filter (fun x => !past x), due := s.sync.due.map move,
      base := hist.foldl (fun m x => if past x then m else
        smapPut (fun _ => Counter.zero) m x.ctr (runSteps (fun y => y.ctr == x.ctr && past y) hist (s.counterBase x.ctr))) [] } }

end Sys2Proof.Machine
end

