-- ==== Sys2Proof/Machine/Ops.lean ====
section
/-! DEFINITION. The operations on tiles that the blocks share: putting a tile back, and running its events in a slot of the frame. -/

namespace Sys2Proof.Machine

/-! Tiles. -/

/-- Line `i` of a packet that tile `n`'s operation `op` injects has left the tile. -/
def Packet.take (n op i : Nat) (v : Line) (k : Packet) : Packet :=
  match k.from_ with
  | .mv o _ => if o = op ∧ k.src = n then { k with lines := smapPut (fun _ => none) k.lines i (some v) } else k
  | _ => k

/-- Puts a tile back: its raised records go to the FL block, with a FAULT trace record each (15 Table 15-4), and the source lines that MV has read into its packets. -/
def State.putTile (s : State) (n : Nat) (tl : Tile) : State :=
  let rs := tl.raised
  let out := tl.outbox
  let tl := { tl with raised := [], outbox := [] }
  let tl := rs.foldl (fun tl r => tl.emit n s.frameNo 6 3 r.slot (r.cls % 2 ^ 16 + (r.detail + r.slot * 2 ^ 32) * 2 ^ 64)) tl
  let s := s.setTile n tl
  let s := if out.isEmpty then s
    else { s with pkts := s.pkts.map (fun k => out.foldl (fun k x => k.take n x.1 x.2.1 x.2.2) k) }
  rs.foldl (fun s r => s.recordInj r.cls uTile n (r.detail + r.slot * 2 ^ 32) r.injected) s

/-- Tile `n` executes in the running frame: it is enabled, its RUNNING bit is set, the frame is a work frame, and it is not frozen. -/
def State.tileRuns (s : State) (n : Nat) : Bool :=
  s.workFrame && !s.frame.committed && s.enabled n && bitAt ((s.tile n).get rTlStatus) 31 && !(s.tile n).frozen

/-- The greatest slot seen in the frame: counter changes whose slot is over have taken effect. -/
def State.seen (s : State) (t : Nat) : State :=
  if s.frame.slot < t then { s with frame := { s.frame with slot := t } }.syncRun else s

/-- Emits what ended inside a tile event: a re-execution (15 Table 15-4, kind 5), and the frame's SLIP and REEXEC status (01 Table 1-7). -/
def State.afterTile (s : State) (n : Nat) (old new : Tile) : State :=
  let new := match old.again, new.again with
    | some e, none => new.emit n s.frameNo 5 3 new.now (e % 256 + old.redoFrom * 2 ^ 32 + (new.now + 1 - old.redoFrom) * 2 ^ 64)
    | _, _ => new
  let s := if old.get rTlDelay < new.get rTlDelay then s.frameBit fbSlip else s
  let s := if old.again.isNone ∧ new.again.isSome then s.frameBit fbReexec else s
  s.putTile n new

/-- Brings tile `n` to slot `t` and applies `f`. A slot that is already past has no event. -/
def State.tileAt (s : State) (n t : Nat) (f : Tile → Tile) : State :=
  if s.tileRuns n ∧ (s.tile n).now ≤ t then
    let old := s.tile n
    (s.seen t).afterTile n old (f (old.advance n s.frameNo s.frame.alen t))
  else s

/-- Runs an event of tile `n`'s own in slot `t`, which lies before the end of its leap window (01 R26, R28). -/
def State.tileEvent (s : State) (n t : Nat) (f : Tile → Tile) : State := if t < (s.tile n).stop then s.tileAt n t f else s

/-- Tile `n` as it stands in slot `t`, when an event of its own can happen there. -/
def State.tileThere (s : State) (n t : Nat) : Option Tile :=
  if s.tileRuns n ∧ (s.tile n).now ≤ t ∧ t < (s.tile n).stop then some ((s.tile n).advance n s.frameNo s.frame.alen t) else none

/-- Brings tile `n` to slot `t`. -/
def State.tileSync (s : State) (n t : Nat) : State := s.tileAt n t (fun tl => tl)

/-- A line from outside is written into tile `n` in slot `t`: one cycle after the last slot of the almanac at the latest (01 R26). -/
def State.arrivalEvent (s : State) (n t : Nat) (f : Tile → Tile) : State := if t ≤ s.frame.alen then s.tileAt n t f else s

end Sys2Proof.Machine
end

