-- ==== Sys2Proof/Machine/Mailbox.lean ====
section
/-! DEFINITION. Mailbox channels (16 R408 to R413, R448): a channel's state, the words of the request in service, posting a reply, and who
may write a register (16 Table 16-2). -/

namespace Sys2Proof.Machine

/-- Channel `c` beside its registers. -/
def State.chnl (s : State) (c : Nat) : Chnl := smapGet (fun _ => Chnl.idle) s.host.chans c

/-- Replaces channel `c`. -/
def State.setChnl (s : State) (c : Nat) (v : Chnl) : State :=
  { s with host := { s.host with chans := smapPut (fun _ => Chnl.idle) s.host.chans c v } }

/-- The identity numbers of 16 R408 and 11 Table 11-10. -/
def agentId : Agent → Nat
  | .pf0 => 0x00
  | .vf n => n
  | .bmc => 0x10
  | .firmware => 0x11

/-- PF0 or management firmware. -/
def isPf0OrFw : Agent → Bool
  | .pf0 => true
  | .firmware => true
  | _ => false

/-- A PCIe function's number. -/
def agentFn : Agent → Option Nat
  | .pf0 => some 0
  | .vf n => if 1 ≤ n ∧ n ≤ 15 then some n else none
  | _ => none

/-- An access by a VF shows that the host has enabled it (16 R394: enabling is PCIe configuration, which has no command). -/
def State.touch (s : State) : Agent → State
  | .vf n => if 1 ≤ n ∧ n ≤ 15 then { s with host := { s.host with vfs := s.host.vfs ||| 2 ^ n } } else s
  | _ => s

/-- A write that the sender may not make, or that RWL locks: ignored and counted (00 R9, 16 R398). -/
def State.ignored (s : State) : State := (s.bump rRwlIgnored 1).orBits rMgStatus (2 ^ 31)

/-- The identity that channel `c` is bound to; 0x1F when it is not. -/
def State.chanOwner (s : State) (c : Nat) : Nat := if s.bit (rMbxBind c) 31 then s.field (rMbxBind c) 0 5 else 0x1F

/-- REQ_FULL and RSP_FULL (16 Table 16-6). -/
def State.reqFull (s : State) (c : Nat) : Bool := s.bit (rMbxCtrl c) 30
def State.rspFull (s : State) (c : Nat) : Bool := s.bit (rMbxCtrl c) 29

/-- The words of the request that a row serves: a channel's while it is in service. -/
def State.reqWords (s : State) : Req → List W32
  | .chan c => (s.chnl c).words
  | .firm ws => ws

/-- The sender's identity. -/
def State.reqSender (s : State) : Req → Nat
  | .chan c => s.chanOwner c
  | .firm _ => 0x11

/-- A request is in service with opcode `op`: firmware's own, or a channel's that firmware, or in recovery the ROM, has taken. -/
def State.serves (s : State) (r : Req) (op : Nat) : Bool :=
  word (s.reqWords r) 0 / 2 ^ 24 == op && (match r with
    | .chan c => (s.fwUp || s.recovery) && decide (c < 8) && (s.chnl c).service && !(s.chnl c).held
    | .firm _ => s.fwUp)

/-- Bits of a word other than those of `keep` are 0. -/
def onlyBits (w keep : Nat) : Bool := w &&& (2 ^ 32 - 1 - keep) == 0

/-- The words from `i` on are 0. -/
def zeroFrom (ws : List W32) (i : Nat) : Bool := (ws.drop i).all (· == 0)

/-- Little-endian bytes of a number. -/
def bytesOf : Nat → Nat → List Byte
  | 0, _ => []
  | n + 1, v => BitVec.ofNat 8 v :: bytesOf n (v / 256)

/-- The number that little-endian bytes spell. -/
def numOf : List Byte → Nat
  | [] => 0
  | b :: bs => b.toNat + 256 * numOf bs

/-- Returns channel `c` to IDLE (16 Table 16-6). -/
def State.chanIdle (s : State) (c : Nat) : State :=
  (s.clrBits (rMbxCtrl c) (2 ^ 30 + 2 ^ 29)).setChnl c { s.chnl c with service := false, discard := false, held := false }

/-- Writes the reply words of channel `c`. -/
def State.putReply (s : State) (c : Nat) (ws : List Nat) : State :=
  (List.range 16).foldl (fun s w => s.set (rMbxRsp c w) (ws.getD w 0)) s

/-- Posts the reply of channel `c` (16 R409): REQ_FULL clears, RSP_FULL sets, RSP_SEQ counts, the vector is raised. The BMC's reply leaves as the answer to its
tunnelled request (16 R448), which releases it. A request that ends in anything but OK leaves no kept half of a key (16 R411). -/
def State.postChan (s : State) (c status : Nat) (ws : List Nat) : State :=
  let s := if status = stOk then s else s.setChnl c { s.chnl c with half := none }
  if (s.chnl c).discard then s.setChnl c { s.chnl c with service := false, discard := false, held := false }
  else
    let s := s.putReply c ((status * 2 ^ 28) :: ws)
    let s := (s.chanIdle c).orBits (rMbxCtrl c) (2 ^ 29)
    let s := (s.setField (rMbxCtrl c) 24 4 status).setField (rMbxCtrl c) 8 8 (s.field (rMbxCtrl c) 8 8 + 1)
    if s.chanOwner c = 0x10 then
      (s.emit (.mctp 0x7E (1 :: BitVec.ofNat 8 c :: 0 :: 0 :: ((List.range 16).map (fun w => bytesOf 4 (s.get (rMbxRsp c w)))).flatten))).clrBits
        (rMbxCtrl c) (2 ^ 29)
    else s.raiseVec c

/-- Answers a request: firmware's own needs no reply. -/
def State.reply (s : State) (r : Req) (status : Nat) (ws : List Nat) : State :=
  match r with
  | .chan c => s.postChan c status ws
  | .firm _ => s

/-- Self-test serves these as usual, and holds PL_LOAD (00 R13, 16 R416). -/
def servedInTest (op : Nat) : Bool := [0x01, 0x03, 0x04, 0x06, 0x20].contains op

/-- Serves a request with opcode `op`: in self-test most are answered BUSY-SELFTEST, else `f` does with its words what its rule says. -/
def State.answer (s : State) (r : Req) (op : Nat) (f : List W32 → State) : State :=
  if !s.serves r op then s
  else if s.selftest && !servedInTest op then s.reply r stBusySelftest [s.remaining]
  else f (s.reqWords r)

/-- The context that function `f` is bound to (12 R331). -/
def State.bound (s : State) (f : Nat) : Option Nat := if s.bit (rCtxBind f) 31 then some (s.field (rCtxBind f) 0 6) else none

end Sys2Proof.Machine
end

