-- ==== Sys2Proof/Machine/SyncOps.lean ====
section
/-! DEFINITION. Sync counters (11): translation, signals, arms and parts, what a WAIT sees, hangs. -/

namespace Sys2Proof.Machine

/-- Entry `vid` of the translation table of context `ctx` (R293). -/
def State.xlate (s : State) (ctx vid : Nat) : Option Nat := smapGet (fun _ => none) s.sync.xlate (4096 * ctx + vid)

/-- A translation fault (R294). -/
def State.xlateFault (s : State) (ctx vid : Nat) : State :=
  ((s.bump rXlateFault 1).orBits rSyStatus (2 ^ 30)).record 0x0601 uSync 0 (ctx % 64 + vid % 4096 * 64)

/-- A SIGNAL or an ARM on counter `i` that takes effect at once. -/
def State.syncNow (s : State) (i : Nat) (isArm : Bool) (inc : Nat) : State := s.syncApply (s.stepAt i (if isArm then 2 else 1) inc 0)

/-- A SIGNAL or an ARM on counter `i` at the end of slot `eff`. -/
def State.syncAdd (s : State) (i eff : Nat) (isArm : Bool) (inc : Nat) : State := s.syncIn (s.stepIn i eff (if isArm then 2 else 1) inc 0)

/-- A part on counter `i` at the end of slot `eff` (R299). -/
def State.syncPart (s : State) (i eff p : Nat) (fail : Bool) : State := s.syncIn (s.stepIn i eff 3 p (b2n fail))

/-- ERR is set at the end of slot `eff` for a plain signal that was lost or malformed (R300). -/
def State.syncErr (s : State) (i eff : Nat) : State := s.syncIn (s.stepIn i eff 4 0 0)

/-- The WAIT's condition: (VALUE − X) mod 2^32 < 2^31 (R298). -/
def Counter.meets (c : Counter) (x : Nat) : Bool := decide ((c.value - BitVec.ofNat 32 x).toNat < 2 ^ 31)

/-- HANG clears when the dump has finished and every recorded counter has been written by hand (R310). -/
def State.hangCheck (s : State) : State :=
  if s.sync.dumpDone ∧ s.sync.recorded = [] then s.clrBits rSyStatus (2 ^ 31) else s

/-- Puts a hung tile in its place: in order of declaration, and within one cycle in increasing `n` (Table 11-6). -/
def insertHung (h : Hung) : List Hung → List Hung
  | [] => [h]
  | x :: xs => if h.slot < x.slot ∨ (h.slot = x.slot ∧ h.tile < x.tile) then h :: x :: xs else x :: insertHung h xs

/-- Tile `n` declares a hang in slot `t` (R304, Table 11-4): at the next cycle boundary it freezes, withholds its commit flag, and the dump is due. -/
def State.hang (s : State) (n t cause ctx vid : Nat) (ctr : Option Nat) (count : Nat) : State :=
  let tl := s.tile n
  let tl' := tl.advance n s.frameNo s.frame.alen (t + 1)
  let s := s.afterTile n tl { tl'.withhold with frozen := true, syncWait := none }
  let first := s.sync.hung.isEmpty
  let s := (s.bump rHangCnt 1).orBits rSyStatus (2 ^ 31 + 2 ^ 28)
  let s := s.cause 2
  let above := s.bit rDumpStatus 30
  let s := if first then
      let s := { s with sync := { s.sync with hangFrame := BitVec.ofNat 64 s.frameNo, hangTime := BitVec.ofNat 64 s.clock, overwrote := above && s.bit rDumpBase 31 } }
      if s.bit rDumpBase 31 then (if above then s.orBits rDumpStatus (2 ^ 29) else s).setField rDumpStatus 30 2 2 else s
    else s
  let s := { s with sync := { s.sync with
    hung := insertHung (Hung.mk n cause ctx vid ctr count t) s.sync.hung
    dumpDone := false
    recorded := match ctr with
      | some i => if s.sync.recorded.contains i then s.sync.recorded else i :: s.sync.recorded
      | none => s.sync.recorded } }
  s.record 0x0603 uTile n (cause + (ctr.getD 0x7FFF) * 16 + t * 2 ^ 32)

/-- Identifier of an MV.SYNC command (Table 11-2, R295). -/
def syncVid (c : Cmd) : Nat := (c.f 81 12 + (if bitAt (c.f 75 6) 5 then c.s (c.f 75 5) else 0)) % 4096
/-- INC. -/
def syncInc (c : Cmd) : Nat := c.f 59 16
/-- PART and whether FREG makes it fail (R299). -/
def syncPartNo (c : Cmd) : Nat := c.f 71 4
def syncPartFail (c : Cmd) : Bool := bitAt (c.f 65 6) 5 && c.s (c.f 65 5) % 2 == 1
/-- The count X of a WAIT (R298) and its vigil. -/
def syncCount (c : Cmd) : Nat := (c.f 43 32 + (if bitAt (c.f 37 6) 5 then c.s (c.f 37 5) else 0)) % 2 ^ 32
def syncVigil (c : Cmd) : Nat := c.f 34 3
/-- SOP. -/
def syncSop (c : Cmd) : Nat := c.f 93 3
/-- ROUTE of RSIGNAL and RPART. -/
def syncRoute (c : Cmd) : Nat := c.f 47 12

end Sys2Proof.Machine
end

