-- ==== Sys2Proof/Machine/Views.lean ====
section
/-! DEFINITION. What a read of BAR0 returns before any latch (17 R424): the registers that show state held elsewhere are computed here. -/

namespace Sys2Proof.Machine

/-- TL_ID of tile `n` (02 Table 2-8): STEWARD, VY and VX are the loaded plan's; the rest is fused or fixed. -/
def State.tileId (s : State) (n : Nat) : Nat :=
  b2n (s.enabled n) * 2 ^ 31
    + (if s.loader.plan.isSome then bitsAt ((s.tile n).get rTlId) 8 11 * 2 ^ 8 + b2n (bitAt ((s.tile n).get rTlId) 30) * 2 ^ 30 else 0)
    + (n / 32) * 2 ^ 24 + (n % 32) * 2 ^ 19 + regionOf n

/-- A mask of the numbers below `k` that `p` picks. -/
def maskOf (k : Nat) (p : Nat → Bool) : Nat := (List.range k).foldl (fun m i => if p i then m + 2 ^ i else m) 0

/-- Tile `n` as the slot that the counter shows finds it. -/
def State.tileNow (s : State) (n : Nat) : Tile :=
  if s.tileRuns n ∧ (s.tile n).now < s.slotIn n then (s.tile n).advance n s.frameNo s.frame.alen (s.slotIn n) else s.tile n

/-- The live value at offset `o` of tile `n`'s window. A fused tile's window reads 0 (17 R428); RUNNING shows the plan's state, on a tile that the plan leaves out too (02 Table 2-9); the
hazard detector's registers read 0 in production mode (07 R190). -/
def State.tileView (s : State) (n o : Nat) : Nat :=
  let tl := s.tileNow n
  if !s.enabled n then 0
  else if o = rTlStatus then setBitsAt (tl.get o) 31 1 (b2n (s.planState == psRunning))
  else if 0xE00 ≤ o ∧ o < 0xE10 ∧ tl.debug = false then 0
  else if o = rTlId then s.tileId n
  else if o = rTlInflight then tl.mx.inFlight + tl.vx.inFlight * 2 ^ 4 + tl.mv.inFlight * 2 ^ 8
  else if o = rTlMvTrack then tl.tracker.length
  else if o = rTlEveTags then
    maskOf 16 (fun g => (tl.tag g).state == .failed) * 2 ^ 16 + maskOf 16 (fun g => !((tl.tag g).state == .free))
  else if o = rTlEveEntries then
    maskOf 16 (fun e => match tl.range e with | some r => r.failed | none => false) * 2 ^ 16 + maskOf 16 (fun e => (tl.range e).isSome)
  else tl.get o

/-- Bytes of a transmitted packet in the replay buffer: header, lines and trailer. -/
def TxPkt.size (k : TxPkt) : Nat := 24 + 64 * (bitsAt k.header 112 7 + 1)

/-- Port `p`. -/
def State.port (s : State) (p : Nat) : Port := smapGet (fun _ => Port.fresh) s.ports p

/-- Channel `vc` of port `p`. -/
def Port.chan (q : Port) (vc : Nat) : Chan := smapGet (fun _ => Chan.fresh) q.chans vc

/-- Bytes of a received packet that the ingress queue holds: the lines' bytes decoded and not taken; a dropped packet holds none. -/
def RxPkt.bytes (k : RxPkt) : Nat := if k.dropped || k.discard || k.overflow then 0 else 64 * (k.body.length / 64) - 64 * k.taken

/-- A channel's receive buffer, in bytes (08 R223). -/
def rxBuffer : Nat := 384 * 1024

/-- The bytes of channel `vc` that the ingress queue holds. -/
def Port.heldBytes (q : Port) (vc : Nat) : Nat :=
  (q.chan vc).held.foldl (fun a k => a + k.bytes) 0
    + (match q.cur with
      | some k => if bitsAt k.header 119 1 = vc then k.bytes else 0
      | none => 0)

/-- A channel's free space (08 R224). -/
def Port.free (q : Port) (vc : Nat) : Nat := rxBuffer - q.heldBytes vc

/-- The counter of packets not acknowledged. -/
def Chan.unacked (c : Chan) : Nat := (c.next + 65536 - c.oldest) % 65536

/-- The live value at offset `o` of the window of port `p`. -/
def State.portView (s : State) (p o : Nat) : Nat :=
  let q := s.port p
  if o = 0 then 13 * 2 ^ 8 + (p / 4) * 2 ^ 4 + p
  else if o = 0x60 then (((q.chan 0).replay ++ (q.chan 1).replay).foldl (fun a k => a + k.size) 0 + 63) / 64
  else if o = 0x64 then (q.free 1 / 64) * 2 ^ 16 + q.free 0 / 64
  else if o = 0x68 then (q.chan 1).unacked * 2 ^ 16 + (q.chan 0).unacked
  else s.get (LK p o)

/-- A word of FL_RECENT_i. -/
def State.recentWord (s : State) (o : Nat) : Nat :=
  match s.fl.recent[o / 32]? with
  | some r => bitsAt r.bytes (8 * (o % 32)) 32
  | none => 0

/-- PL_SIG_POLICY (12 R315): REQUIRED, the plan key slots provisioned, the slots revoked. -/
def State.sigPolicy (s : State) : Nat :=
  b2n s.mg.otp.required * 2 ^ 31 + maskOf 4 (fun i => (smapGet (fun _ => none) s.mg.otp.planKeys i).isSome) * 2 ^ 4 + s.mg.otp.planRevoked % 16

/-- The live value of the register at BAR0 offset `off` (a multiple of 4) as function `f` sees it. -/
def State.view (s : State) (f off : Nat) : Nat :=
  if TLW 0 0 ≤ off ∧ off < TLW tileCount 0 then s.tileView ((off - TLW 0 0) / 0x10000) (off % 0x10000)
  else if LK 0 0 ≤ off ∧ off < HB 0 0 then s.portView ((off - LK 0 0) / 0x10000) (off % 0x10000)
  else if 0xF0000 ≤ off ∧ off < 0x100000 ∧ 16 ≤ f then 0
  else if 0xF0000 ≤ off ∧ off < 0xF0400 then (smapGet msixReset s.host.msix (4096 * f + (off - 0xF0000))).toNat
  else if 0xF8000 ≤ off ∧ off < 0xF8008 then
    maskOf 32 (fun i => ssetHas s.host.pends (64 * f + 8 * (off - 0xF8000) + i))
  else if off = rPartId then 0x01010000 + s.fuse.grade * 2 ^ 12 + s.fuse.stepping * 2 ^ 8
  else if off = rSelftest then setBitsAt (s.get rSelftest) 0 27 s.remaining
  else if 0x200 ≤ off ∧ off < 0x220 ∧ s.bit rMbxLock 31 then
    (match s.vectorOwner ((off - 0x200) / 4) with | some g => 2 ^ 31 + g | none => 0)
  else if off = rTmTime then s.clock % 2 ^ 32
  else if off = rTmTime + 4 then s.clock / 2 ^ 32
  else if HB 0 0 ≤ off ∧ off < SY 0 ∧ off % 0x20000 = 0 then (off - HB 0 0) / 0x20000 + ((off - HB 0 0) / 0x40000) * 2 ^ 4
  else if HB 0 0 ≤ off ∧ off < SY 0 ∧ off % 0x20000 = 8 then 64 * 2 ^ 24 + 48 * 2 ^ 16 + s.fuse.rows
  else if off = SY 0x44 then
    (match s.xlate (s.field rXlateProbe 16 6) (s.field rXlateProbe 0 12) with | some i => 2 ^ 31 + i | none => 0)
  else if off = SY 0x4C then
    (match s.sync.recorded with
      | [] => 0
      | c :: cs => 2 ^ 31 + (c :: cs).length * 2 ^ 16 + cs.foldl (fun a b => if b < a then b else a) c)
  else if off = PL 0x20C then s.sigPolicy
  else if off = PL 0x220 then s.loader.actions.length
  else if off = FL 0x10 then s.fl.queue.length
  else if off = FL 0x48 then s.fl.masques.length
  else if FL 0x1000 ≤ off ∧ off < FL 0x1200 then s.recentWord (off - FL 0x1000)
  else if off = OB 0x48 then s.ob.arms.length
  else s.get off

end Sys2Proof.Machine
end

