-- ==== Sys2Proof/Machine/Sync.lean ====
section
/-! DEFINITION. The sync commands (11): MV.SYNC in its local forms, doorbells, vigils, the hang dump, and the manual requests. -/

namespace Sys2Proof.Machine

/-! MV.SYNC (R295 to R299). -/

/-- What an engine chapter asks of a command in slot `t` beside 02 R62: the array or the source phase is free; a wait's queue has reached its target, its counter the
count; a GET's queue has a tracker entry. -/
def State.furtherMet (s : State) (t : Nat) : Further := fun tl eng c =>
  match eng with
  | .mx => c.op == 0 || decide (tl.mxArrayFree ≤ t)
  | .vx => c.op == 0 || decide (tl.vxSrcBusy ≤ t + 3)
  | .mv =>
    if c.op = 6 then tl.waitMet c
    else if c.op = 3 ∨ c.op = 5 then decide (tl.tracker.length < trackerSize)
    else if c.op = 7 ∧ syncSop c = 3 then
      (match s.xlate s.frame.ctx (syncVid c) with
        | none => false
        | some i => !(s.counterSeen i t).err && (s.counterSeen i t).meets (syncCount c))
    else true
  | .sq => true

/-- The MV.SYNC with operation `sop` that tile `n` can issue in slot `t`. -/
def State.syncHead (s : State) (n t sop : Nat) : Option Cmd :=
  (s.tileThere n t).bind (fun tl => (tl.mvHead t 7).filter (fun c => syncSop c == sop))

/-- Issues it: it retires in its issue cycle (R295). -/
def State.syncIssue (s : State) (n t : Nat) (c : Cmd) : State :=
  s.tileEvent n t (fun tl => { (tl.mvIssueNow n s.frameNo s.frame.alen t c).event 0x33 1 with syncWait := none })

/-- A local change: translated through the frame's context, applied at the end of slot t + 40 (R294, R296). -/
def State.syncLocal (s : State) (n t sop : Nat) (f : Cmd → Nat → State → State) : State :=
  match s.syncHead n t sop with
  | none => s
  | some c =>
    let s := s.syncIssue n t c
    match s.xlate s.frame.ctx (syncVid c) with
    | none => s.xlateFault s.frame.ctx (syncVid c)
    | some i => f c i s

/-- `MV_SYNC_SIGNAL` (R297). -/
def effMvSyncSignal (n t : Nat) (s : State) : State := s.syncLocal n t 0 (fun c i s => s.syncAdd i (t + 40) false (syncInc c))

/-- `MV_SYNC_ARM` (R297). -/
def effMvSyncArm (n t : Nat) (s : State) : State := s.syncLocal n t 2 (fun c i s => s.syncAdd i (t + 40) true (syncInc c))

/-- `MV_SYNC_PART` (R299). -/
def effMvSyncPart (n t : Nat) (s : State) : State :=
  s.syncLocal n t 1 (fun c i s => s.syncPart i (t + 40) (syncPartNo c) (syncPartFail c))

/-- `MV_SYNC_WAIT` (R298): issues when it is satisfied; declares a hang on an unmapped identifier or on ERR; else it is held and
its vigil starts (R303). -/
def effMvSyncWait (n t : Nat) (s : State) : State :=
  match s.syncHead n t 3 with
  | none => s
  | some c =>
    let ctx := s.frame.ctx
    match s.xlate ctx (syncVid c) with
    | none =>
      let s := s.tileEvent n t (fun tl => tl)
      (s.xlateFault ctx (syncVid c)).hang n t 3 ctx (syncVid c) none (syncCount c)
    | some i =>
      let k := s.counterSeen i t
      if k.err then (s.tileEvent n t (fun tl => tl)).hang n t 2 ctx (syncVid c) (some i) (syncCount c)
      else if k.meets (syncCount c) then s.syncIssue n t c
      else s.tileEvent n t (fun tl => { tl with syncWait := some (tl.syncWait.getD s.time.counter) })

/-- The waiting tile's vigil is over in slot `t`, by its period or by the commit point (R303). -/
def State.vigilOver (s : State) (n t : Nat) : State :=
  match (s.tile n).syncWait, (s.tile n).mv.queue.head? with
  | some _, some c =>
    let t := nmax t (s.tile n).now
    (s.tileSync n t).hang n t 1 s.frame.ctx (syncVid c) (s.xlate s.frame.ctx (syncVid c)) (syncCount c)
  | _, _ => s

/-- The vigil of tile `n` has run out: its period, counted on the global time counter. -/
def State.vigilDue (s : State) (n : Nat) : Bool :=
  match (s.tile n).syncWait, (s.tile n).mv.queue.head? with
  | some c0, some c => decide (s.get (rVigil (syncVigil c)) ≤ (s.time.counter - c0).toNat)
  | _, _ => false

/-- `VIGIL_EXPIRY` (R303). -/
def effVigilExpiry (n : Nat) (s : State) : State := if s.tileRuns n ∧ s.vigilDue n then s.vigilOver n (nmax (s.slotIn n) s.frame.slot) else s

/-! Doorbells (R301). -/

/-- `SY_DOORBELL` (R301): function `f`'s doorbell; a write by another sender is not a doorbell. -/
def effSyDoorbell (a : Agent) (f : Nat) (val : W32) (s : State) : State :=
  let s := s.touch a
  let v := val.toNat
  if agentFn a ≠ some f ∨ s.selftest then s.ignored
  else
    match s.bound f with
    | none => s.bump rDoorIgn 1
    | some ctx =>
      if bitsAt v 0 16 = 0 ∨ 2 ≤ bitsAt v 30 2 ∨ bitsAt v 28 2 ≠ 0 then s.bump rDoorIgn 1
      else match s.xlate ctx (bitsAt v 16 12) with
        | none => s.xlateFault ctx (bitsAt v 16 12)
        | some i => s.syncNow i (bitsAt v 30 2 == 1) (bitsAt v 0 16)

/-! Manual requests (R307 to R310). -/

/-- The counter that a request names, if the sender may name it. -/
def State.manualTarget (s : State) (who w0 : Nat) : Option Nat :=
  let byvid := bitAt w0 23
  if byvid then
    let ctx := bitsAt w0 16 6
    if !onlyBits w0 0xFFBF0FFF then none
    else if 1 ≤ who ∧ who ≤ 15 ∧ s.bound who ≠ some ctx then none
    else s.xlate ctx (bitsAt w0 0 12)
  else if !onlyBits w0 0xFF807FFF ∨ (1 ≤ who ∧ who ≤ 15) then none
  else some (bitsAt w0 0 15)

/-- Logs an accepted request (Table 11-10, R309). -/
def State.manualLog (s : State) (r : Req) (op i : Nat) : State :=
  let e := s.field rManualHead 0 6
  let ch := match r with
    | .chan c => c
    | .firm _ => 0
  let w0 := op * 2 ^ 24 + ch * 2 ^ 20 + s.reqSender r * 2 ^ 15 + i
  let w1 := s.get (rCounter i 0)
  let w2 := if s.frame.running then s.frameNo % 2 ^ 32 else 2 ^ 32 - 1
  let s := (((s.set (rManualLog e 0) w0).set (rManualLog e 1) w1).set (rManualLog e 2) w2).set (rManualLog e 3) (s.clock % 2 ^ 32)
  let s := s.set rManualHead ((e + 1) % 64 + ((s.field rManualHead 16 16 + 1) % 2 ^ 16) * 2 ^ 16)
  s.record 0x0604 uSync 0 (w0 + w1 * 2 ^ 32)

/-- SY_SET and SY_CLEAR (R307 to R310). -/
def State.manual (s : State) (r : Req) (op : Nat) : State :=
  s.answer r op (fun ws =>
    let tgt := if zeroFrom ws 4 ∧ onlyBits (word ws 3) 0xE03FFFFF then s.manualTarget (s.reqSender r) (word ws 0) else none
    match tgt with
    | none => (s.bump rManualRej 1).reply r stRejected []
    | some i =>
      let old := s.counterRec i
      let s := s.syncApply { s.stepAt i 0 (b2n (op == 0x41)) 0 with words := ws }
      let s := s.manualLog r op i
      let s := { s with sync := { s.sync with recorded := s.sync.recorded.filter (· != i) } }
      s.hangCheck.reply r stOk [old.value.toNat, old.target.toNat, old.masks.toNat, old.flags.toNat])

/-- `SY_SET` (R308). -/
def effSySet (r : Req) (s : State) : State := s.manual r 0x40
/-- `SY_CLEAR` (R308). -/
def effSyClear (r : Req) (s : State) : State := s.manual r 0x41

/-! The hang dump (R305, R306). -/

/-- Drops everything that `n` lines from `lo` hold: they read zero and good. -/
def State.hbmClear (s : State) (lo n : Nat) : State :=
  let has := fun k => decide (lo ≤ k) && decide (k < lo + n)
  { s with hbm := { data := smapDrop s.hbm.data (fun a => has (a / 64)), poison := smapDrop s.hbm.poison has,
                    wrong := smapDrop s.hbm.wrong (fun k => has (k / 68)) } }

/-- The fields `(offset, bytes, value)` of a record at byte `a`. -/
def State.hbmFields (s : State) (a : Nat) (fs : List (Nat × Nat × Nat)) : State := fs.foldl (fun s f => s.hbmBytes (a + f.1) f.2.1 f.2.2) s

/-- A hung-tile entry as 16 bytes (Table 11-6). -/
def Hung.bytes (h : Hung) : Nat :=
  h.tile + h.cause * 2 ^ 16 + h.ctx * 2 ^ 24 + h.vid * 2 ^ 32 + (h.ctr.getD 0xFFFF) * 2 ^ 48 + h.count * 2 ^ 64 + h.slot * 2 ^ 96

/-- A range entry's state as the dump shows it: 0 free, 1 open, 2 pending, 3 failed. DESIGN CHOICE. -/
def rangeCode : Option Range → Nat
  | none => 0
  | some r => if r.failed then 3 else if r.closed then 2 else 1

/-- The eight operation slots: MX 0 and 1, VX 2 and 3, MV 4 to 7 (02 R65). -/
def Tile.opSlots (tl : Tile) : List (Nat × Op) :=
  let pick : Nat → Eng → List (Nat × Op) := fun base e => ((e.flight.filter (fun o => o.cmd.op != 0)).zip (List.range 8)).map (fun x => (base + x.2, x.1))
  pick 0 tl.mx ++ pick 2 tl.vx ++ pick 4 tl.mv

/-- The units that an operation has completed at each of its ports by the slot its tile has reached: its sources in rank order, then its destinations (for MX B, A, A's scales, C; a
window counts as one unit; for MV the lines read, then the lines handed over). -/
def Tile.opUnits (tl : Tile) (o : Op) (place : Nat) : List Nat :=
  let b := o.cmd.bits.toNat
  let gone := tl.now - (o.issued + 4)
  if place < 2 then
    let q := mxPar b
    let read := fun (w : Nat) => satTo q.p (gone / q.t) * w + (if gone / q.t < q.p then satTo w (gone % q.t) else 0)
    [read q.w, read q.ua, read q.us, satTo (q.m * q.u) (tl.now - (o.retire + 1 - q.m * q.u))]
  else if place < 4 then
    let q := vxPar b
    let steps := satTo q.n (cdiv gone q.r)
    (if o.cmd.op = 5 then [satTo (stnUnits b) gone, satTo (q.n * stnTaps b) (gone - stnUnits b)]
     else q.srcs.map (fun s => match specKind s.spec with
      | 2 => steps
      | 3 => 0
      | _ => cdiv (steps * q.per) s.epl)) ++ o.wrote
  else [satTo (mvLen o.cmd) (2 * (tl.now - (o.issued + 2))), satTo (mvLen o.cmd) (2 * (tl.now - (o.issued + 3)))]

/-- Writes tile `n`'s record at byte `a` (Table 11-7). The table gives no widths within an operation slot: after the command's 16 bytes stand four for the issue slot and four for each
port. DESIGN CHOICE (log 28). -/
def State.dumpTile (s : State) (a n : Nat) : State :=
  let tl := s.tile n
  let words := [rTlId, rTlStatus, rTlDelay, rTlSlip, rTlPc, rTlInflight, rTlEveTags, rTlEveEntries, rTlEveX]
  let s := s.hbmFields a ((words.zip (List.range 9)).map (fun w => (4 * w.2, 4, s.tileView n w.1)))
  let hit := s.sync.hung.find? (fun h => h.tile == n)
  let s := s.hbmFields a [(0x40, 4, tl.now), (0x44, 4, b2n tl.committed), (0x48, 4, b2n hit.isSome), (0x80, 16, (hit.map Hung.bytes).getD 0)]
  let s := s.hbmFields a ((List.range 32).map (fun i => (0x100 + 8 * i, 8, (tl.s i).toNat)))
  let s := s.hbmFields a ((List.range 16).map (fun b => (0x200 + 4 * b, 4, tl.barrier b)))
  let s := s.hbmFields a (((List.range 64).map (fun q => (List.range 5).map (fun w => (0x400 + 32 * q + 4 * w, 4, tl.get (rTlQCfg q + 4 * w))))).flatten)
  let s := s.hbmFields a (((List.range 16).map (fun e =>
    [(0xC00 + 64 * e, 4, rangeCode (tl.range e)), (0xC04 + 64 * e, 4, ((tl.range e).map Range.mask).getD 0),
      (0xC08 + 64 * e, 4, ((tl.range e).map Range.first).getD 0)])).flatten)
  let qs : Nat → Eng → List (Nat × Nat × Nat) := fun base e => (e.queue.zip (List.range 512)).map (fun c => (base + 16 * c.2, 16, c.1.bits.toNat))
  let s := s.hbmFields a (qs 0x1000 tl.mx ++ qs 0x3000 tl.vx ++ qs 0x5000 tl.mv)
  tl.opSlots.foldl (fun s o =>
    let us := tl.opUnits o.2 o.1
    s.hbmFields a ([(0x7000 + 64 * o.1, 16, o.2.cmd.bits.toNat), (0x7010 + 64 * o.1, 4, o.2.issued)]
      ++ (us.zip (List.range us.length)).map (fun u => (0x7014 + 64 * o.1 + 4 * u.2, 4, u.1)))) s

/-- Writes tile `n`'s SRAM image from line `hla` on: an eve line as a zero line with the marker, a poisoned line poisoned. -/
def State.dumpSram (s : State) (hla n : Nat) : State :=
  let tl := s.tile n
  let bad := fun l => tl.eveBit l || ssetHas tl.poison l
  let s := tl.mem.foldl (fun s c => if bad (c.1 / 64) then s else s.hbmBytes (64 * hla + c.1) 1 c.2.toNat) s
  (tl.eve ++ tl.poison).foldl (fun s e => s.hbmWrite (hla + e.1) .void) s

/-- Writes the whole dump (Tables 11-5 to 11-7). -/
def State.dump (s : State) : State :=
  let h := s.sync.hung.length
  let base := s.field rDumpBase 0 12 * 2 ^ 21
  let a := 64 * base
  let s := s.hbmClear base (2 ^ 21)
  let s := s.hbmFields a [(0, 8, 1), (8, 8, s.get64 rPlanId), (0x10, 8, s.sync.hangFrame.toNat), (0x18, 8, s.sync.hangTime.toNat), (0x20, 4, h),
    (0x24, 4, if h < 64 then h else 64), (0x28, 2, s.field rRank 0 16), (0x2A, 2, s.field rDeviceAddr 0 16),
    (0x2C, 4, b2n s.sync.overwrote + 2 * b2n (decide (240 < h)))]
  let s := s.hbmFields a (((s.sync.hung.take 240).zip (List.range 240)).map (fun e => (0x40 + 16 * e.2, 16, e.1.bytes)))
  let s := (s.regs.filter (fun e => decide (rCounter 0 0 ≤ e.1) && decide (e.1 < rCounter 32768 0))).foldl
    (fun s e => s.hbmBytes (a + 0x1000 + (e.1 - rCounter 0 0)) 4 e.2.toNat) s
  let s := s.enabledTiles.foldl (fun s n => s.dumpTile (a + 0x100000 + n * 0x8000) n) s
  ((s.sync.hung.take 64).zip (List.range 64)).foldl (fun s e => s.dumpSram (base + 0x100000 + e.2 * 0x4000) e.1.tile) s

/-- `HANG_DUMP` (R306): after the frame of the first declaration, once no plan runs. -/
def effHangDump (s : State) : State :=
  if s.sync.hung = [] ∨ s.sync.dumpDone ∨ s.frame.running then s
  else
    let s := if s.bit rDumpBase 31 then
        let h := if s.sync.hung.length < 1536 then s.sync.hung.length else 1536
        ((s.dump.setField rDumpStatus 0 11 h).setField rDumpStatus 30 2 1)
      else s.orBits rDumpStatus (2 ^ 28)
    { s with sync := { s.sync with dumpDone := true } }.hangCheck

/-! The meanings of the rows of this family. -/

/-- `MV_SYNC_SIGNAL` (R297). -/
def execMvSyncSignal (n t : Nat) (s : State) : Host.Outcome State Fault Refusal := .next (effMvSyncSignal n t s)

/-- `MV_SYNC_ARM` (R297). -/
def execMvSyncArm (n t : Nat) (s : State) : Host.Outcome State Fault Refusal := .next (effMvSyncArm n t s)

/-- `MV_SYNC_PART` (R299). -/
def execMvSyncPart (n t : Nat) (s : State) : Host.Outcome State Fault Refusal := .next (effMvSyncPart n t s)

/-- `MV_SYNC_WAIT` (R298). -/
def execMvSyncWait (n t : Nat) (s : State) : Host.Outcome State Fault Refusal := .next (effMvSyncWait n t s)

/-- `VIGIL_EXPIRY` (R303). -/
def execVigilExpiry (n : Nat) (s : State) : Host.Outcome State Fault Refusal := .next (effVigilExpiry n s)

/-- `SY_DOORBELL` (R301). -/
def execSyDoorbell (a : Agent) (f : Nat) (val : W32) (s : State) : Host.Outcome State Fault Refusal := .next (effSyDoorbell a f val s)

/-- `SY_SET` (R308). -/
def execSySet (r : Req) (s : State) : Host.Outcome State Fault Refusal := .next (effSySet r s)

/-- `SY_CLEAR` (R308). -/
def execSyClear (r : Req) (s : State) : Host.Outcome State Fault Refusal := .next (effSyClear r s)

/-- `HANG_DUMP` (R306). -/
def execHangDump (s : State) : Host.Outcome State Fault Refusal := .next (effHangDump s)

end Sys2Proof.Machine
end

