-- ==== Sys2Proof/Machine/Ports.lean ====
section
/-! DEFINITION. Access to the optical ports and to what waits in them: channels, entries of the arrival lists, packets on their way out, the optical route
table (08, 09 R236, R253, R254). -/

namespace Sys2Proof.Machine

/-! Ports, channels, entries. -/

/-- Replaces port `p`. -/
def State.setPort (s : State) (p : Nat) (q : Port) : State := { s with ports := smapPut (fun _ => Port.fresh) s.ports p q }

/-- Replaces channel `vc` of a port. -/
def Port.setChan (q : Port) (vc : Nat) (c : Chan) : Port := { q with chans := smapPut (fun _ => Chan.fresh) q.chans vc c }

/-- Changes port `p`. -/
def State.updPort (s : State) (p : Nat) (f : Port → Port) : State := s.setPort p (f (s.port p))

/-- Changes channel `vc` of port `p`. -/
def State.updChan (s : State) (p vc : Nat) (f : Chan → Chan) : State :=
  s.updPort p (fun q => q.setChan vc (f (q.chan vc)))

/-- Entry `k` of channel `vc` in the running frame. -/
def Port.entry (q : Port) (vc k : Nat) : EntryRun := smapGet (fun _ => EntryRun.fresh) q.entries (2 * k + vc)

/-- Changes entry `k` of channel `vc`. -/
def State.updEntry (s : State) (p vc k : Nat) (f : EntryRun → EntryRun) : State :=
  s.updPort p (fun q => { q with entries := smapPut (fun _ => EntryRun.fresh) q.entries (2 * k + vc) (f (q.entry vc k)) })

/-- The arrival list of channel `vc` of port `p` in the running frame. -/
def State.arrivals (s : State) (p vc : Nat) : List ArrEntry :=
  match s.shapeNow with
  | some sh => smapGet (fun _ => []) sh.arrivals (2 * p + vc)
  | none => []

/-! Headers (08 Table 8-11) and optical routes (09 Table 9-2). -/

/-- The fields of a header. -/
def hdrType (h : Nat) : Nat := bitsAt h 120 8
def hdrVc (h : Nat) : Nat := bitsAt h 119 1
def hdrLen (h : Nat) : Nat := bitsAt h 112 7 + 1
def hdrSeq (h : Nat) : Nat := bitsAt h 96 16
def hdrRoute (h : Nat) : Nat := bitsAt h 35 12

/-- A packet header without SEQ and HCRC. -/
def header (typ vc len srank drank dvt dq route frame : Nat) : Nat :=
  typ % 256 * 2 ^ 120 + vc % 2 * 2 ^ 119 + (len - 1) % 128 * 2 ^ 112 + srank % 65536 * 2 ^ 80 + drank % 65536 * 2 ^ 64 + dvt % 2048 * 2 ^ 53
    + dq % 64 * 2 ^ 47 + route % 4096 * 2 ^ 35 + frame % 256 * 2 ^ 27

/-- Entry `i` of the optical route table. -/
def State.optRoute (s : State) (i : Nat) : Nat := match s.loader.plan with
  | some p => smapGet (fun _ => 0) p.optical i
  | none => 0

/-- The fields of an optical route entry. -/
def orValid (e : Nat) : Bool := bitAt e 95
def orRole (e : Nat) : Nat := bitsAt e 93 2
def orIn (e : Nat) : Nat := bitsAt e 89 4
def orOut (e : Nat) : Nat := bitsAt e 85 4
def orVc (e : Nat) : Nat := bitsAt e 84 1
def orTag (e : Nat) : Nat := bitsAt e 80 4
def orMesh (e : Nat) : Nat := bitsAt e 64 12
def orSrank (e : Nat) : Nat := bitsAt e 48 16
def orDrank (e : Nat) : Nat := bitsAt e 32 16
def orDvt (e : Nat) : Nat := bitsAt e 21 11
def orDq (e : Nat) : Nat := bitsAt e 15 6

/-! Packets on their way out. -/

/-- A packet as the egress queue takes it. -/
def txOf (id header : Nat) (lines : List LineBits) (marks : List Nat) (crc : Option Nat) (leap : Bool) : TxPkt :=
  ⟨id, header, lines, marks, crc, leap, 0, false, false, false, false, 0, none, none⟩

/-- The packet waits in the egress queue of its channel on port `p`. -/
def State.toEgress (s : State) (p : Nat) (x : TxPkt) : State := s.updChan p (hdrVc x.header) (fun c => { c with egress := c.egress ++ [x] })

/-- A complete packet waits in the egress queue of its channel on port `p`. -/
def State.sendOut (s : State) (p header : Nat) (lines : List LineBits) (marks : List Nat) (leap : Bool) : State :=
  { s.toEgress p (txOf s.pktCtr header lines marks (some (packetCrc header lines)) leap) with pktCtr := s.pktCtr + 1 }

/-- Changes packet `id` of a channel, wherever it is. -/
def Chan.updTx (c : Chan) (id : Nat) (f : TxPkt → TxPkt) : Chan :=
  let g := fun (x : TxPkt) => if x.id = id then f x else x
  { c with egress := c.egress.map g, replay := c.replay.map g }

/-- Packet `id` of a channel. -/
def Chan.tx? (c : Chan) (id : Nat) : Option TxPkt := (c.egress ++ c.replay).find? (fun x => x.id == id)

/-- A link-control message joins the next link-control flit. -/
def State.lcQueue (s : State) (p : Nat) (m : LcMsg) : State := s.updPort p (fun q => { q with lcOut := q.lcOut ++ [m] })

/-- The ABANDON message of a packet (08 Table 8-9). -/
def lcAbandon (vc seq : Nat) : LcMsg := BitVec.ofNat 64 (4 * 2 ^ 56 + vc % 2 * 2 ^ 55 + seq % 65536 * 2 ^ 39)

/-- The inverse of a trailer. -/
def notCrc (crc : Nat) : Nat := 2 ^ 64 - 1 - crc % 2 ^ 64

/-- The packet as it is abandoned: zero lines for those it lacks, and the inverse of the trailer received, or of the one that its lines then have (09 R254). -/
def TxPkt.abandon (x : TxPkt) (trailer : Option Nat) : TxPkt :=
  if x.abandoned then x
  else
    let lines := x.lines ++ List.replicate (hdrLen x.header - x.lines.length) 0
    { x with lines := lines, abandoned := true, crc := some (notCrc (trailer.getD (packetCrc x.header lines))) }

/-- Packet `id` of channel `vc` of port `p` is abandoned. Once its header has gone, its ABANDON is sent; before that, when it starts. -/
def State.abandonOut (s : State) (p vc id : Nat) (trailer : Option Nat) : State :=
  match ((s.port p).chan vc).replay.find? (fun x => x.id == id) with
  | some x =>
    if x.abandoned then s
    else ((s.updChan p vc (fun c => c.updTx id (fun x => x.abandon trailer))).bump (rAbandonTx p) 1).lcQueue p (lcAbandon vc x.seq)
  | none => s.updChan p vc (fun c => c.updTx id (fun x => x.abandon trailer))

/-- The cut-through copy of entry `k` begins in the egress queue of its OUT_PORT, with the lines `ls` (09 R253); a packet that is confirmed already brings its trailer. -/
def State.forwardStart (s : State) (p vc k h : Nat) (ls : List LineBits) (marks : List Nat) : State :=
  let h := setBitsAt (setBitsAt h 96 16 0) 0 16 0
  let o := orOut (s.optRoute (hdrRoute h))
  let r := (s.port p).entry vc k
  let s := (s.bump (rFwd o) 1).updEntry p vc k (fun r => { r with out := some s.pktCtr })
  { s.toEgress o (txOf s.pktCtr h ls marks (if r.confirmed then r.trailer else none) false) with pktCtr := s.pktCtr + 1 }

/-- What the copy of entry `k` has at its OUT_PORT: the port and the packet. -/
def State.copyOf (s : State) (p vc k : Nat) : Option (Nat × Nat) :=
  let r := (s.port p).entry vc k
  match r.hdr, r.out with
  | some h, some id => some (orOut (s.optRoute (hdrRoute h)), id)
  | _, _ => none

/-- The copy of entry `k` is abandoned (09 R254); it starts so where only its header is known. -/
def State.forwardAbandon (s : State) (p vc k : Nat) : State :=
  let r := (s.port p).entry vc k
  let s := match r.hdr, r.out with
    | some h, none => s.forwardStart p vc k h [] []
    | _, _ => s
  match s.copyOf p vc k with
  | some (o, id) => s.abandonOut o vc id r.trailer
  | none => s

/-- Entry `k` will not be forwarded whole: a copy that has begun, or whose slots have, is abandoned. -/
def State.forwardBreak (s : State) (p vc k : Nat) : State :=
  let r := (s.port p).entry vc k
  if r.broken then s
  else
    let s := s.updEntry p vc k (fun r => { r with broken := true })
    if 0 < r.fwd then s.forwardAbandon p vc k else s

/-- Line `j` of the copy of entry `k` has reached OUT_PORT: it stands in the egress queue. -/
def State.forwardLine (s : State) (p vc k j : Nat) (v : LineBits) (poison : Bool) : State :=
  let r := (s.port p).entry vc k
  let marks := if poison then [j] else []
  match r.hdr, s.copyOf p vc k with
  | some h, none => if j = 0 ∧ r.broken = false then s.forwardStart p vc k h [v] marks else s
  | _, some (o, id) => s.updChan o vc (fun c => c.updTx id (fun x =>
      if x.lines.length = j ∧ x.abandoned = false then { x with lines := x.lines ++ [v], marks := x.marks ++ marks } else x))
  | none, none => s

/-- The inbound packet of entry `k` is confirmed: its trailer goes on with the copy (08 R218). -/
def State.forwardClose (s : State) (p vc k trailer : Nat) : State :=
  match s.copyOf p vc k with
  | some (o, id) => s.updChan o vc (fun c => c.updTx id (fun x => if x.abandoned then x else { x with crc := some trailer }))
  | none => s

/-! Training states (Table 8-7). -/

def trDisabled := 0
def trSignal := 1
def trAlign := 2
def trIdent := 3
def trUp := 4
def trHeld := 5

/-- LK_STATE.TRAIN of port `p`. -/
def State.train (s : State) (p : Nat) : Nat := s.field (rLkState p) 28 4

/-- The port's receiver and transmitter run codewords: ALIGN, IDENT, UP and HELD. -/
def State.linkOn (s : State) (p : Nat) : Bool := decide (2 ≤ s.train p) && decide (p < 16)

/-- Bits of LK_STATE (Table 8-15). -/
def lkReduced := 27
def lkParity := 26
def lkErasure := 25
def lkOffRx (vc : Nat) := 24 - vc
def lkOffTx (vc : Nat) := 22 - vc

/-- Bits of LK_STATUS (Table 8-16). -/
def lsUcw := 2 ^ 31
def lsHdrErr := 2 ^ 30
def lsHunt := 2 ^ 29
def lsReplay := 2 ^ 28
def lsSeqViol := 2 ^ 27
def lsRxOvf := 2 ^ 26
def lsOff := 2 ^ 25
def lsTxHold := 2 ^ 24
def lsLaneLost := 2 ^ 23
def lsAlignLost := 2 ^ 22
def lsFeedA := 2 ^ 21
def lsFeedB := 2 ^ 20

/-- Bits of LK_PEER_STATUS (09 Table 9-14). -/
def psIdRefused := 2 ^ 31
def psVigil := 2 ^ 27
def psDropSrc := 2 ^ 26
def psDropDest := 2 ^ 25
def psAckViol := 2 ^ 24
def psAbandonRx := 2 ^ 23
def psDeadline := 2 ^ 22

/-- An event of a port: its counter and its sticky bit. -/
def State.lkCount (s : State) (p counter bit : Nat) : State := (s.bump counter 1).orBits (rLkStatus p) bit

/-- The lock mask. -/
def State.lockMask (s : State) (p : Nat) : Nat := s.field (rLkState p) 0 13

/-- The fibres of a mask. -/
def fibresOf (mask : Nat) : List Nat := (List.range 13).filter (bitAt mask)

/-! Leaving UP (08 R206, R199). -/

/-- Enters training state `st`. -/
def State.setTrain (s : State) (p st : Nat) : State := (s.setField (rLkState p) 28 4 st).updPort p (fun q => { q with since := s.now })

/-- SIGNAL: nothing is locked. -/
def State.toSignal (s : State) (p : Nat) : State :=
  ((s.set (rLkState p) 0).setTrain p trSignal).updPort p (fun q => { q with clock := 0, fibres := [], cur := none, rx := [], lcIn := [], fram := [], idGot := 0, idOk := false })

/-- The packet of entry `k` has failed: a copy of it that is on its way is abandoned (09 R254). A leap packet has none (09 R256). -/
def State.entryFails (s : State) (p vc k : Nat) (leap : Bool) : State :=
  let s := s.updEntry p vc k (fun r => { r with failed := !r.confirmed })
  if leap then s else s.forwardBreak p vc k

/-- The packet that is arriving fails (Table 8-12). -/
def State.curFails (s : State) (p : Nat) : State :=
  match (s.port p).cur with
  | none => s
  | some k =>
    let s := s.updPort p (fun q => { q with cur := none })
    match k.entry with
    | some e => s.entryFails p (hdrVc k.header) e k.leap
    | none => s

/-- The port leaves UP (R206, Table 8-12). -/
def State.leaveUp (s : State) (p : Nat) : State :=
  let mask := s.lockMask p
  let s := (s.curFails p).orBits (rLkStatus p) lsAlignLost
  let s := (s.updPort p (fun q => { q with dark := 0 })).toSignal p
  s.record 0x0402 uPort p (trUp + mask * 16)

/-- Port `p` loses its first or second feed (08 R199): a bit and a record for each loss. Without either the port has no light. -/
def State.loseFeed (s : State) (p : Nat) (second inj : Bool) : State :=
  let i := b2n second
  if bitAt (s.port p).feedLost i then s
  else
    let s := (s.orBits (rLkStatus p) (if second then lsFeedB else lsFeedA)).updPort p (fun q => { q with feedLost := q.feedLost ||| 2 ^ i })
    let s := s.recordInj 0x0404 uPort p ((p + i) % 4 + 4 * i) inj
    if (s.port p).feedLost = 3 ∧ s.train p = trUp then s.leaveUp p else s

/-- Port `p` has its first or second feed, or has it not. -/
def State.setFeed (s : State) (p : Nat) (second on : Bool) : State :=
  s.updPort p (fun q => { q with feedLost := setBitsAt q.feedLost (b2n second) 1 (b2n !on) })

end Sys2Proof.Machine
end

