-- ==== Sys2Proof/Machine/FrameOps.lean ====
section
/-! DEFINITION. What the frame controller works with (01, 12): the virtual grid (07 R193), the tiles of the plan, a tile at the frame tick, masques that
fire at slot 0, stopping a plan, and the manifest seal (13). -/

namespace Sys2Proof.Machine

/-! The virtual grid (07 R193, R194). -/

/-- The in-die rows of die `d` that a plan on the 32 × 44 grid leaves out, as a mask: the fused ones, or the two nearest the horizontal die boundary. -/
def State.leftOut (s : State) (d : Nat) : Nat :=
  if s.fusedRows d = 0 then (if d < 2 then 2 ^ 22 + 2 ^ 23 else 3) else s.fusedRows d

/-- The `v`-th in-die row of die `d` that takes part. -/
def State.rowOf (s : State) (d v : Nat) : Nat := ((List.range 24).filter (fun r => !bitAt (s.leftOut d) r)).getD v 0

/-- The physical tile of virtual tile `v` = 32·VY + VX. -/
def State.physOf (s : State) (grid44 : Bool) (v : Nat) : Nat :=
  if grid44 then
    let x := v % 32
    let vy := v / 32
    let d := (if 16 ≤ x then 1 else 0) + (if 22 ≤ vy then 2 else 0)
    32 * (s.rowOf d (vy % 22) + (if 22 ≤ vy then 24 else 0)) + x
  else v

/-- The physical tiles of the loaded plan, by increasing virtual index. -/
def State.planTiles (s : State) : List Nat :=
  match s.loader.plan with
  | some p => (List.range p.tiles.length).map (s.physOf p.head.grid44)
  | none => []

/-- The plan's record of a virtual tile. -/
def State.tilePlan (s : State) (v : Nat) : Option TilePlan := s.loader.plan.bind (fun p => p.tiles[v]?)

/-- The virtual index that the loader wrote into TL_ID of tile `n`. -/
def State.virtOf (s : State) (n : Nat) : Nat :=
  let id := (s.tile n).get rTlId
  32 * bitsAt id 13 6 + bitsAt id 8 5

/-- The slot after the last of the leap window of virtual tile `v` in shape `sh` (01 R20). -/
def State.stopOf (s : State) (sh v : Nat) : Nat := match s.shape? sh with
  | some p => (p.tiles[v]?.map (fun x => x.stop)).getD p.alen
  | none => 0

/-- Every tile of the plan goes through `f`. -/
def State.eachTile (s : State) (f : Nat → State → State) : State := s.planTiles.foldl (fun s n => f n s) s

/-! A tile at the frame tick (02 R51, R53, R63; 09 R242; 01 R30). -/

/-- Reads the word of the tile's shape entry table for shape `sh`, checked as any read is (02 R43): the tile and the word index of the shape's stream, none where the word is poisoned. -/
def Tile.entryWord (tl : Tile) (sh : Nat) : Tile × Option Nat :=
  let (tl, l) := tl.readWords 0 (bitsAt (tl.get rTlInstr) 17 14 + sh / 8) (2 ^ (sh % 8))
  (tl, if l.poison then none else some (bitsAt l.data.toNat (64 * (sh % 8)) 17))

/-- An engine at slot 0: nothing has issued in the frame. -/
def Eng.newFrame (e : Eng) : Eng := { e with last := none, flight := [], issuedAt := none }

/-- The tile at slot 0: D and X are 0, the commit flag is down; it fetches from slot 2, or, in an intercalary frame, keeps what it holds and raises its flag. `stop` is the end of its
leap window. A poisoned entry word is an illegal word: the tile fetches nothing. DEDUCED from 02 R52 (log 22). -/
def Tile.newFrame (tl : Tile) (ical : Bool) (sh stop : Nat) : Tile :=
  let tl := (tl.set rTlDelay 0).set rTlEveX 0
  let st := setBitsAt (tl.get rTlStatus) 30 2 (2 + b2n ical)
  let tl := { tl.set rTlStatus st with
    now := 0, stop := if ical then 0 else stop, signals := [], ovf := [], began := [], outbox := [], accesses := [], dead := false, withheld := false, hzFrame := 0, trace := [], slipFrom := none, slipCause := 0,
    retired := 0, mvHeld := false, syncWait := none }
  if ical then tl
  else
    let (tl, word) := tl.entryWord sh
    let tl : Tile := { tl with
      mx := tl.mx.newFrame, vx := tl.vx.newFrame, mv := tl.mv.newFrame,
      seq := { tl.seq with fetching := !tl.frozen, ended := false, at_ := 2, next := word.getD 0, loops := [], hold := .free } }
    match word with
    | some _ => tl
    | none => tl.illegal 0 0

/-! Masques (14 R368 to R370). -/

/-- Kinds that fire one event at slot 0, or that are complete when they fire. -/
def masqueOnce (k : Nat) : Bool := [0x03, 0x04, 0x05, 0x10, 0x11, 0x15, 0x16].contains k

/-- The masque's MASQUE_FIRED record (R369). -/
def State.masqueDone (s : State) (m : Masque) : State :=
  (s.flRaise (s.mkRec 0x0F01 (m.unit / 4096) (m.unit % 4096) (m.kind + m.fired % 2 ^ 16 * 256) true false) 0).orBits rFlStatus (2 ^ 27)

/-- One event of the masque `m` has fired: it is counted, and the masque leaves the pending list when it is complete. -/
def State.masqueFire (s : State) (m : Masque) : State :=
  let m' := { m with fired := m.fired + 1 }
  let s := s.bump rMasqueFired 1
  let rest := fun (l : List Masque) => l.erase m
  if m.count ≤ m'.fired ∨ masqueOnce m.kind then
    { s with fl := { s.fl with masques := rest s.fl.masques } }.masqueDone m'
  else { s with fl := { s.fl with masques := s.fl.masques.replace m m' } }

/-- A masque that cannot fire is counted (R369). -/
def State.masqueSkip (s : State) (m : Masque) (k : Nat) : State :=
  { s.bump rMasqueSkip k with fl := { s.fl with masques := s.fl.masques.erase m } }

/-- The first pending masque of a kind on a unit for the running frame. -/
def State.masqueOf (s : State) (kind unit : Nat) : Option Masque :=
  if s.workFrame then s.fl.masques.find? (fun m => m.kind == kind && m.unit == unit && m.frame.toNat == s.frameNo) else none

/-- Inverts bits of the stored SRAM word (kinds SRAM_CE and SRAM_UE). -/
def State.flipSram (s : State) (n line w : Nat) (bits : List Nat) : State :=
  let tl := s.tile n
  let old := tl.wrongOf line w
  let new := (old.filter (fun b => !bits.contains b)) ++ bits.filter (fun b => !old.contains b)
  let s := s.setTile n { tl with wrong := smapPut (fun _ => []) tl.wrong (8 * line + w) new }
  { s with fl := { s.fl with marks := ssetSet s.fl.marks (8 * line + w + 2 ^ 17 * n) true } }

/-- The ports that cartridge `c` feeds, with whether it is their second feed (08 Table 8-2). -/
def cartPorts (c : Nat) : List (Nat × Bool) :=
  (List.range 16).filterMap (fun p => if p % 4 = c then some (p, false) else if (p + 1) % 4 = c then some (p, true) else none)

/-- Some port reads FEED_A_LOW or FEED_B_LOW. -/
def State.anyFeedLow (s : State) : Bool := (List.range 16).any (fun p => s.field (rLkStatus p) 20 2 != 0)

/-- A cartridge stops feeding its eight ports: each writes FEED_LOST, and the device one CARTRIDGE record (08 R199, 14 R359, 18 R445). -/
def State.feedsLost (s : State) (c : Nat) (inj : Bool) : State :=
  ((cartPorts c).foldl (fun s x => s.loseFeed x.1 x.2 inj) s).recordInj 0x0803 uCart c c inj

/-- Cartridge `c`. -/
def State.cart (s : State) (c : Nat) : Cart := smapGet (fun _ => Cart.fresh) s.power.carts c
def State.setCart (s : State) (c : Nat) (v : Cart) : State :=
  { s with power := { s.power with carts := smapPut (fun _ => Cart.fresh) s.power.carts c v } }

/-- Cartridge `c` feeds its ports, or does not; a port without the feed writes nothing of it here. -/
def State.feeds (s : State) (c : Nat) (on : Bool) : State :=
  (cartPorts c).foldl (fun s x => s.setFeed x.1 x.2 on) (s.setCart c { s.cart c with feeding := on })

/-- The events of a masque at slot 0 of its frame (14 Table 14-7). -/
def State.masqueAtTick (s : State) (m : Masque) : State :=
  let u := m.unit % 4096
  if m.kind = 0x03 then
    (if s.bit (rLkState u) 26 then
      let q := s.port u
      ({ s with ports := smapPut (fun _ => Port.fresh) s.ports u { q with dark := q.dark ||| 2 ^ m.sub } }).masqueFire m
    else s.masqueSkip m 1)
  else if m.kind = 0x04 then
    (if s.anyFeedLow then s.masqueSkip m 1
    else ((s.setCart u { s.cart u with feeding := false, masque := true, masqueLeft := m.count }).feedsLost u true).masqueFire m)
  else if m.kind = 0x05 then (s.flipSram u m.sel m.sub [0]).masqueFire m
  else if m.kind = 0x10 then (s.flipSram u m.sel m.sub [0, 1]).masqueFire m
  else if m.kind = 0x15 then (s.setTile u (s.tile u).withhold).masqueFire m
  else if m.kind = 0x16 then ({ s with time := { s.time with twin := s.time.twin + 1, twinInj := true } }).masqueFire m
  else s

/-- The masques of the frame that begins; those of an intercalary frame are discarded. -/
def State.masqueTick (s : State) : State :=
  (s.fl.masques.filter (fun m => m.frame.toNat == s.frameNo)).foldl
    (fun s m => if s.frame.ical then s.masqueSkip m 1 else s.masqueAtTick m) s

/-- The masques of the frame that ends: the events that it did not offer are counted, and what fired is recorded (R369). -/
def State.masqueEnd (s : State) : State :=
  (s.fl.masques.filter (fun m => m.frame.toNat == s.frameNo)).foldl
    (fun s m =>
      let s := s.masqueSkip m (m.count - m.fired)
      if 0 < m.fired then s.masqueDone m else s) s

/-- A FEED masque's frames run down; the shutter opens when none is left, unless the latch is open (18 R445). -/
def State.feedMasques (s : State) : State :=
  (List.range 4).foldl (fun s c =>
    let k := s.cart c
    if k.masque then
      (if k.masqueLeft ≤ 1 then (s.setCart c { k with masque := false, masqueLeft := 0 }).feeds c (k.latched && k.closedAt.isNone)
       else s.setCart c { k with masqueLeft := k.masqueLeft - 1 })
    else s) s

/-! Stopping (12 R323, R324). -/

/-- EXCHANGE_LOST: `k` records of port `p`'s outbound queue are dropped (14 R365). -/
def State.exchDrop (s : State) (p k : Nat) : State :=
  if k = 0 then s
  else
    let s := (s.bump rExchLost k).orBits rFlStatus (2 ^ 28)
    s.record 0x040C uPort p (p + k % 2 ^ 16 * 2 ^ 16)

/-- Port `p`'s outbound queue of exchange records. -/
def State.exchQ (s : State) (p : Nat) : List FRec := smapGet (fun _ => []) s.fl.exchange p

/-- PL_STATE.STATE takes a new value, which raises vector 8 (16 Table 16-3). -/
def State.enter (s : State) (st : Nat) : State := (s.setField rPlState 29 3 st).raiseVec 8

/-- The posted actions are dropped and counted. -/
def State.dropActions (s : State) : State := { s.bump rActDrop s.loader.actions.length with loader := { s.loader with actions := [] } }
/-- An accepted intercalary run is dropped. -/
def State.dropIcal (s : State) : State :=
  { s.setField rIcalResult 23 1 0 |>.setField rIcalResult 0 16 0 with frame := { s.frame with icalRun := none } }
/-- An accepted step change is dropped. -/
def State.dropStep (s : State) : State := { s.setField rStepResult 23 1 0 with time := { s.time with step := none, lowerWant := none } }
/-- The masques are dropped and counted. -/
def State.dropMasques (s : State) : State := { s.bump rMasqueSkip s.fl.masques.length with fl := { s.fl with masques := [] } }
/-- The watch arms are dropped and counted. -/
def State.dropArms (s : State) : State :=
  if s.ob.arms.isEmpty then s
  else { (s.bump rWatchDrop s.ob.arms.length).orBits rObStatus (2 ^ 28) with ob := { s.ob with arms := [] } }

/-- What a stop discards: actions, the intercalary request, the step request, masques, watch arms, commits, exchange records. -/
def State.discard (s : State) : State :=
  let s := s.dropActions.dropIcal.dropStep.dropMasques.dropArms
  let s := { s with serve := { s.serve with commits := [] } }
  let s := (List.range 16).foldl (fun s p => s.exchDrop p (s.exchQ p).length) s
  { s with fl := { s.fl with exchange := [], modes := [] }, shadow := [] }

/-- The first of Table 12-12 among the causes. -/
def firstCause (cs : List Nat) : Nat := (causeOrder.find? cs.contains).getD 1

/-- The plan stops with the given causes: no tile begins another frame (R323, R324). -/
def State.stopPlan (s : State) (cs : List Nat) : State :=
  let s := s.discard
  let s := s.eachTile (fun n s => s.setTile n ((s.tile n).set rTlStatus (setBitsAt ((s.tile n).get rTlStatus) 31 1 0)))
  let s := (s.setField rPlState 24 3 (firstCause cs)).setField rTmStatus 19 3 0
  { s with frame := { s.frame with running := false, causes := [], next := none, stopAt := none } }.enter psStopped

/-- Two records to a line: the trace slots' room for records (15 R383). -/
def State.traceRoom (s : State) : Nat := 2 * (match s.loader.plan with
  | some p => p.almanac.traceCap
  | none => 0)

/-- A record's 32 bytes (15 Table 15-3). -/
def TraceRec.bytes (r : TraceRec) : Nat :=
  r.frame % 2 ^ 64 + (r.slot % 2 ^ 32) * 2 ^ 64 + (r.tile % 2 ^ 16) * 2 ^ 96 + (r.kind % 256) * 2 ^ 112 + (r.eng % 4) * 2 ^ 120
    + (r.data % 2 ^ 128) * 2 ^ 128

/-- A trace record bound for the ring (15 R383). -/
def State.traceToRing (s : State) (r : TraceRec) : State :=
  if s.ringOn traceRing && !s.ringFull traceRing then s.ringWrite traceRing r.bytes
  else (s.bump rTraceLost 1).orBits rObStatus (2 ^ 31)

/-- The OB block writes the last frame's records, as many as the trace slots hold; the others are dropped (R383). -/
def State.writeTrace (s : State) : State :=
  let rs := s.ob.trace
  let s := { s with ob := { s.ob with trace := [] } }
  let room := s.traceRoom
  let s := (rs.take room).foldl State.traceToRing s
  let k := (rs.drop room).length
  if k = 0 then s else (s.bump rTraceLost k).orBits rObStatus (2 ^ 31)

/-! The hash ring (13 R351). -/

/-- Puts a hash record in its place: by issue slot, then by virtual tile, then as it came. -/
def insertHash (x : HashRec) : List HashRec → List HashRec
  | [] => [x]
  | y :: ys => if x.slot < y.slot ∨ (x.slot = y.slot ∧ x.tile < y.tile) then x :: y :: ys else y :: insertHash x ys

/-- A hash record bound for the ring. -/
def State.hashToRing (s : State) (r : HashRec) : State :=
  if s.ringOn hashRing && !s.ringFull hashRing then s.ringWrite hashRing r.bytes else s.bump rHashLost 1

/-- The frame's hash records go to the hash ring. -/
def State.writeHashes (s : State) : State :=
  (s.serve.hashes.foldl (fun l x => insertHash x l) []).foldl State.hashToRing { s with serve := { s.serve with hashes := [] } }

/-! The manifest seal and the gates (13 R336, R344 to R346). -/

/-- First line of the slot of frame `k`. -/
def State.mfSlot (s : State) (k : Nat) : Nat := 256 * s.field rMfBase 0 25 + 64 * (k % 4)

/-- Seals the slot of work frame `k` (R346): ACCEPTED, or STANDING with its reason, and the hold mask; the bits sealed clear. -/
def State.sealManifest (s : State) (k : Nat) : State :=
  let hold := s.get64 rGateHold
  if !s.bit rMfBase 31 then s
  else
    let s := (s.set64 rGateLast hold).set64 rGateHold 0
    let a := s.mfSlot k
    let (v, f) := s.hbmRead (a + 1)
    let chunks := bitsAt v.data.toNat 0 16
    let ok := s.serve.commits.contains (BitVec.ofNat 64 k)
    let reason := if !ok then 1 else if f = .bad ∨ v.poison then 3 else if s.field rMfCap 0 8 < chunks then 2 else 0
    let s := { s with serve := { s.serve with commits := s.serve.commits.filter (fun c => decide (k < c.toNat)) } }
    let line := k % 2 ^ 64 + (if reason = 0 then 1 else 2) * 2 ^ 64 + reason * 2 ^ 72 + (if reason = 0 then chunks else 0) * 2 ^ 80 + hold * 2 ^ 128
    let s := s.hbmWrite a ⟨BitVec.ofNat 512 line, false⟩
    if reason = 0 then s.bump rMfAccept 1 else s.bump rMfStanding 1

end Sys2Proof.Machine
end

