-- ==== Sys2Proof/Machine/Frame.lean ====
section
/-! DEFINITION. The frame family (01, 12 R322, R323, R326): the frame tick, the commit point, the plan's start, and a tile's commit flag. -/

namespace Sys2Proof.Machine

/-! The end of a frame. -/

/-- The status of the frame that ends (01 Table 1-7). -/
def State.frameStatus (s : State) : Nat :=
  let f := s.frame
  2 ^ 31 + b2n f.ical * 2 ^ 30 + f.bits + s.step_ * 2 ^ 20 + (if f.ical then 0 else f.ctx * 2 ^ 14 + f.shape)

/-- In debug mode, the HAZARD record of tile `n` (07 R192, 14 Table 14-1). -/
def State.hazardRecord (n : Nat) (s : State) : State :=
  let tl := s.tile n
  if tl.hzFrame = 0 then s
  else s.record 0x0110 uTile n (bitsAt (tl.get rTlHzFirst) 28 4 + (if tl.hzFrame < 65535 then tl.hzFrame else 65535) * 2 ^ 16
    + tl.get rTlHzFirstSlot * 2 ^ 32)

/-- The trace records of tile `n` pass to the OB block (15 R383). -/
def State.takeTrace (n : Nat) (s : State) : State :=
  let tl := s.tile n
  { s.setTile n { tl with trace := [] } with ob := { s.ob with trace := s.ob.trace ++ tl.trace } }

/-- TM_MARGIN_r.WORST takes the frame's least reading (10 R271). -/
def State.marginWorst (s : State) : State :=
  let lows := s.time.marginLow
  lows.foldl (fun s e => match e.2 with
    | some v => s.setField (rMargin e.1) 8 8 v
    | none => s) { s with time := { s.time with marginLow := [] } }

/-- What the tick does with the frame that ends: its status and counts, its masques, its hazards, its trace and digests (01 R38, R39; 14 R363, R369;
15 R383, R387). -/
def State.endFrame (s : State) : State :=
  let s := s.masqueEnd
  let s := s.eachTile State.hazardRecord
  let s := s.set rLastStatus s.frameStatus
  let s := if s.frame.bits = 0 then s else s.bump rUnclean 1
  let s := if s.frame.ical then s.bump rIcalCnt 1 else s
  let s := if s.fl.wrote && s.bit rFlIrq 31 then s.raiseVec (s.field rFlIrq 0 6) else s
  let s := { s with fl := { s.fl with wrote := false, keys := [], keysSince := s.now, modes := [], exchSent := [] } }
  let s := s.marginWorst.writeHashes
  let s := s.writeTrace
  let s := (s.enabledTiles).foldl (fun s n => State.takeTrace n s) s
  { s with ob := { s.ob with closed := if s.ob.dig.sums.isEmpty then s.ob.closed else s.ob.closed ++ [s.ob.dig] } }

/-! The beginning of a frame. -/

/-- Writes a frame-latched register: a context binding or a tile's trace control. Its reserved bits stay 0 (00 R11). -/
def State.poke (s : State) (off : Nat) (v : W32) : State :=
  if TLW 0 0 ≤ off then
    let n := (off - TLW 0 0) / 0x10000
    s.setTile n ((s.tile n).set (off % 0x10000) (tileKeeps (off % 0x10000) v))
  else s.set off (keeps off v)

/-- Applies one scheduled action at the tick (12 Table 12-11, R326). STOP has become a cause of the stop. -/
def State.applyAction (s : State) (a : Action) : State :=
  let kind := bitsAt a.w3.toNat 28 4
  let s := s.bump rActDone 1
  if kind = 4 then s.poke a.w4.toNat a.w5
  else if kind = 1 ∨ kind = 2 then
    (match s.xlate (bitsAt a.w4.toNat 16 6) (bitsAt a.w4.toNat 0 12) with
    | some i => s.syncApply { s.stepAt i kind a.w5.toNat 0 with eff := -1 }
    | none => s)
  else s

/-- The port's receiver takes E as the frame's base B, and its regular entries are fresh (09 R237). What the ingress queue still holds of the frame that
ends is dropped: no slot of the new frame takes it. -/
def Port.newFrame (q : Port) : Port :=
  let upd := fun vc (q : Port) => let c := q.chan vc
    { q with chans := smapPut (fun _ => Chan.fresh) q.chans vc { c with base := c.e, held := [] } }
  { upd 1 (upd 0 q) with entries := [], past := q.entries, leapUsed := 0, cur := q.cur.map (fun k => { k with entry := none }) }

/-- Every port at the tick. -/
def State.portsTick (s : State) : State :=
  (List.range 16).foldl (fun s p => { s with ports := smapPut (fun _ => Port.fresh) s.ports p (s.port p).newFrame }) s

/-- The transfers that shape `sh` lists on controller `c`. -/
def State.xferPlans (s : State) (sh c : Nat) : List Xfer :=
  match s.shape? sh with
  | some p => smapGet (fun _ => []) p.xfers c
  | none => []

/-- Controller `c` at the tick. -/
def State.hbmTick (s : State) (ical : Bool) (sh c : Nat) : State :=
  let k := smapGet (fun _ => HbmCtl.idle) s.hbmCtl c
  let xs := if ical then [] else (s.xferPlans sh c).map (fun _ => XferRun.fresh)
  { s with hbmCtl := smapPut (fun _ => HbmCtl.idle) s.hbmCtl c { k with xfers := xs, retries := [] } }

/-- The configuration of the frame after a given one (01 R16, R24; 12 R314): the rota's entry for its work frame count, the latched writes, the step and the
actions bound to it. -/
def State.configFor (s : State) (k j : Nat) : NextFrame :=
  let ical := match s.frame.icalRun with
    | some (f, n) => decide (f ≤ k ∧ k < f + n)
    | none => false
  let e : SeqEntry := match s.loader.plan with
    | some p => p.seq.getD (j % p.seq.length) ⟨0, 0⟩
    | none => ⟨0, 0⟩
  { ical := ical
    shape := if ical then 0 else e.shape
    ctx := if ical then 0 else e.ctx
    step := match s.time.step with
      | some p => if p.withPlan ∧ p.frame.toNat = k then some p.step else none
      | none => none
    writes := s.shadow.filterMap (fun e => e.2.map (fun v => (e.1, v)))
    actions := s.loader.actions.filter (fun a => a.frame == k) }

/-- A new step is in force (10 R267). -/
def State.stepNow (s : State) (k : Nat) : State :=
  let s := (s.setField rTmStatus 22 3 k).bump rStepChange 1
  { s.setField rStepResult 23 1 0 with time := { s.time with step := none, ramp := some s.now, lowerWant := none } }

/-- The groups armed for work frame count `j` (15 R389). -/
def State.armedFor (s : State) (j : Nat) : List WatchRun :=
  (s.ob.arms.filter (fun a => a.work == j)).map (fun a => ⟨a.group, 0, 0, 0, 0⟩)

/-! Step requests (10 R268). -/

/-- An outcome of TM_STEP_RESULT or TM_EQX_STATUS raises this vector (16 Table 16-3). -/
def tmVector := 9

/-- The request arrives at or after the commit point of frame F − 1. -/
def State.pastCommit (s : State) (f : Nat) : Bool :=
  decide (s.commitOf ((f : Int) - 1) ≤ (s.clock : Int)) || (s.frame.running && (decide (f ≤ s.frameNo) || (f == s.frameNo + 1 && s.frame.committed)))

/-- The status of a request for step `k` at frame `f`, in the order of Table 10-3. -/
def State.stepStatus (s : State) (k f : Nat) : Nat :=
  let run := s.planRuns
  if s.selftest then stBusySelftest
  else if 5 ≤ k ∨ s.field rTmStatus 16 3 < k then stRejected
  else if run ∧ k < s.field rTmStatus 19 3 then stRejected
  else if run ∧ s.pastCommit f then stLate
  else if run ∧ s.step_ < k ∧ s.tickOf f < (s.clock : Int) + 100000 then stLate
  else if s.time.step.isSome then stBusy
  else stOk

/-- Answers a request in TM_STEP_RESULT; an accepted one is pending. -/
def State.stepAsk (s : State) (k f : Nat) : State :=
  let st := s.stepStatus k f
  let s := if st = stOk then { s with time := { s.time with step := some ⟨k, BitVec.ofNat 64 f, s.now, s.planRuns⟩ } } else s
  (s.set rStepResult (st * 2 ^ 28 + k % 8 * 2 ^ 24 + b2n s.time.step.isSome * 2 ^ 23)).raiseVec tmVector

/-- Management firmware's own request for step `dst` at frame `f`; one that is answered BUSY is made again at each tick (10 R273). -/
def State.firmwareAsk (s : State) (dst f : Nat) : State :=
  let busy := s.time.step.isSome
  let s := s.stepAsk dst f
  { s with time := { s.time with lowerWant := if busy then some dst else none } }

/-- Frame `k` begins with configuration `c` and work frame count `j`. -/
def State.beginFrame (s : State) (k j : Nat) (c : NextFrame) : State :=
  let was := if s.workFrame then some ⟨s.frameNo, s.frame.shape, s.frame.ctx, s.frame.tickAt.toNat⟩ else none
  let s := if s.frame.running then s.syncShift (-((-(s.reading : Int) * s.rate) / 1280) - s.edge0 0).toNat
    else { s with sync := { s.sync with hist := [], base := [] } }
  let s := (s.set64 rFrameNum k).set64 rWorkFrame j
  let s := c.writes.foldl (fun s w => s.poke w.1 w.2) s
  let s := match c.step with
    | some p => s.stepNow p
    | none => s
  let alen := match s.shape? c.shape with
    | some sh => sh.alen
    | none => 0
  let s := { s with
    frame := { s.frame with
      running := true, ical := c.ical, shape := c.shape, ctx := c.ctx, alen := if c.ical then 0 else alen, committed := false,
      bits := 0, next := none, causes := [], slot := 0, rail := s.frame.railNext, railNext := false, tickAt := s.time.counter, nowAt := s.now, was := was },
    pkts := [], routers := [],
    loader := { s.loader with actions := s.loader.actions.filter (fun a => a.frame != k) },
    ob := { s.ob with dig := ⟨BitVec.ofNat 64 k, BitVec.ofNat 64 j, c.ctx, []⟩, runs := if c.ical then [] else s.armedFor j, copied := [] } }
  let s := s.eachTile (fun n s => s.putTile n ((s.tile n).newFrame c.ical c.shape (s.stopOf c.shape (s.virtOf n))))
  let s := s.portsTick
  let s := (List.range 8).foldl (fun s i => s.hbmTick c.ical c.shape i) s
  let s := c.actions.foldl State.applyAction s
  let s := match s.frame.icalRun with
    | some (f, n) =>
      let left := f + n - k
      if k < f then s
      else if left = 0 then { (s.setField rIcalResult 23 1 0).setField rIcalResult 0 16 0 with frame := { s.frame with icalRun := none } }
      else s.setField rIcalResult 0 16 (left - 1)
    | none => s
  let s := match s.time.lowerWant with
    | some dst => s.firmwareAsk dst (k + 1)
    | none => s
  let s := s.feedMasques
  s.masqueTick

/-! Commands. -/

/-- The causes for which the plan stops instead of beginning frame `k`: those raised so far, an accepted PL_STOP, a STOP action. -/
def State.causesAt (s : State) (k : Nat) (c : NextFrame) : List Nat :=
  s.frame.causes ++ (if s.frame.stopAt = some k then [1] else [])
    ++ (if c.actions.any (fun a => bitsAt a.w3.toNat 28 4 == 3) then [1] else [])

/-- The STOP actions that take effect are applied actions (12 R326). -/
def State.stopActions (s : State) (k : Nat) : State :=
  let hit := s.loader.actions.filter (fun a => a.frame == k && bitsAt a.w3.toNat 28 4 == 3)
  { s.bump rActDone hit.length with loader := { s.loader with actions := s.loader.actions.filter (fun a => !hit.contains a) } }

/-- `FRAME_TICK` (R18): the running frame has passed its commit point and the set counter reads T0 + k·P. After a time-counter fault no tick comes: the
plan stops where the frame ends (10 R277). The work frame count advances with the end of every work frame, the plan's last one included (R16). -/
def effFrameTick (s : State) : State :=
  let k := s.frameNo + 1
  let j := if s.frame.ical then s.workNo else s.workNo + 1
  if s.planState = psRunning ∧ s.counterState ≠ 2 ∧ s.frame.causes.contains 6 then (s.endFrame.set64 rWorkFrame j).stopPlan s.frame.causes else
  match s.frame.next with
  | some c =>
    if s.frame.running ∧ s.frame.committed ∧ s.planState = psRunning ∧ s.counterState = 2 ∧ (s.time.counter.toNat : Int) = s.tickOf k then
      let s := s.endFrame
      let cs := s.causesAt k c
      if cs = [] then s.beginFrame k j c else ((s.stopActions k).set64 rWorkFrame j).stopPlan cs
    else s
  | none => s

/-- A tile's flag is missing. -/
def State.flagMissing (s : State) (n : Nat) : Bool := s.frame.rail || !(s.tile n).committed

/-- The record of a commit-point fault (14 Table 14-1): the lowest tile missing and how many. -/
def State.commitFault (s : State) (missing : List Nat) : State :=
  let s := (s.frameBit fbCommit).cause 3
  let s := if missing.any (fun n => !s.frame.rail && !(s.tile n).withheld && !(s.tile n).frozen) then s.frameBit fbLeap else s
  s.record 0x0701 uDevice 0 (missing.foldl (fun a b => if b < a then b else a) 2047 + missing.length * 2 ^ 16)

/-- In debug mode, the barriers of virtual tile `v` against the plan's values (07 Table 7-3, BARRIER_END). -/
def State.barrierEnd (s : State) (v : Nat) : State :=
  match s.tilePlan v, s.loader.plan with
  | some tp, some p =>
    let n := s.physOf p.head.grid44 v
    let want := tp.barriers.getD s.frame.shape []
    s.setTile n ((List.range 16).foldl (fun tl b => if tl.barrier b = want.getD b 0 then tl else tl.hazard 6 b .sq tl.now) (s.tile n))
  | _, _ => s

/-- Table 14-5's bits for a port whose partner's mode word is `m`. -/
def State.splitBits (s : State) (m : Option ModeWord) : Nat :=
  match m with
  | none => 1
  | some m =>
    2 * b2n (m.frame.toNat != s.frameNo) + 4 * b2n (m.work.toNat != s.workNo) + 8 * b2n (m.step != s.step_)
      + 16 * b2n (m.shape != s.frame.shape || m.ctx != s.frame.ctx)

/-- The ports that the port map uses (09 R235). -/
def State.usedPorts (s : State) : List Nat :=
  match s.loader.plan with
  | some p => (List.range 16).filter (fun i => match p.ports[i]? with
    | some q => q.used
    | none => false)
  | none => []

/-- The comparison with the exchange packets' mode words (14 R366). -/
def State.splitCheck (s : State) : State :=
  let bad := s.usedPorts.filterMap (fun p =>
    let b := s.splitBits (smapGet (fun _ => none) s.fl.modes p)
    if b = 0 then none else some (p, b))
  if bad = [] then s
  else
    let s := ((s.bump rSplitCnt 1).orBits rFlStatus (2 ^ 29)).cause 7
    bad.foldl (fun s x => s.recordSub 0x040B uDevice 0 (x.1 + x.2 * 2 ^ 4) (x.1 + 1)) s

/-- The first HLA of the watch buffer (15 Table 15-9). -/
def State.watchBase (s : State) : Nat := 1024 * s.field rWatchBuf 0 23

/-- The loaded plan's watch group `g`. -/
def State.watchGroup (s : State) (g : Nat) : Option WatchGroup := s.loader.plan.bind (fun p => p.almanac.watch[g]?)

/-- Writes the header line of a group that the frame has copied, and counts the watch as done (15 R391). -/
def State.watchHeader (s : State) (r : WatchRun) : State :=
  match s.watchGroup r.group with
  | none => s
  | some g =>
    let line := s.workNo + s.frameNo * 2 ^ 64 + r.group * 2 ^ 128 + s.frame.ctx * 2 ^ 136 + r.points * 2 ^ 144 + r.lines * 2 ^ 160
      + r.poisoned * 2 ^ 192 + r.eve * 2 ^ 224 + s.frame.tickAt.toNat * 2 ^ 256
    let s := s.hbmWrite (s.watchBase + g.off) ⟨BitVec.ofNat 512 line, false⟩
    let s := ((s.bump rWatchDone 1).orBits rObStatus (2 ^ 29)).set rWatchLast (2 ^ 31 + r.group)
    { s with ob := { s.ob with arms := s.ob.arms.filter (fun a => !(a.group == r.group && a.work == s.workNo)) } }

/-- The guard time's third action (01 R24): what the next frame will be; a work frame's manifest is sealed. -/
def State.fixNext (s : State) : State :=
  let k := s.frameNo + 1
  let j := if s.frame.ical then s.workNo else s.workNo + 1
  let c := s.configFor k j
  let s := { s with frame := { s.frame with next := some c, committed := true }, shadow := [] }
  if c.ical then s else s.sealManifest k

/-- `COMMIT_POINT` (R23): the set counter reads T0 + k·P + P − G. -/
def effCommitPoint (s : State) : State :=
  if s.frame.running ∧ s.frame.committed = false ∧ s.counterState = 2 ∧ (s.time.counter.toNat : Int) = s.commitOf s.frameNo then
    let tiles := s.planTiles
    let s := if s.frame.ical then s else tiles.foldl (fun s n => s.tileSync n (nmax (s.slotBefore n) (s.tile n).now)) s
    let s := tiles.foldl (fun s n => if s.tileRuns n && (s.tile n).syncWait.isSome then s.vigilOver n (s.slotBefore n) else s) s
    let missing := tiles.filter s.flagMissing
    let s := if s.sync.hung.isEmpty then s else s.enabledTiles.foldl (fun s n => s.setTile n { s.tile n with frozen := true }) s
    let s := if missing = [] then s else s.commitFault missing
    let s := if s.frame.ical then s else ((List.range tiles.length).foldl State.barrierEnd s).splitCheck
    let s := s.ob.runs.foldl State.watchHeader s
    s.fixNext
  else s

/-- `PLAN_START` (R322): at T0 an armed plan ticks frame 0; with the counter not set it stops with cause TIME. -/
def effPlanStart (s : State) : State :=
  if s.planState ≠ psArmed then s
  else if s.counterState ≠ 2 then s.stopPlan (6 :: s.frame.causes)
  else if s.time.counter.toNat ≠ s.get64 rT0 then s
  else
    let c := s.configFor 0 0
    let s := { s with shadow := [] }
    let cs := s.causesAt 0 c
    if cs = [] then
      let s := if c.ical then s else s.sealManifest 0
      let s := (s.enter psRunning).setField rTmStatus 19 3 (match s.loader.plan with
        | some p => p.head.floor
        | none => 0)
      s.beginFrame 0 0 c
    else (s.stopActions 0).stopPlan cs

/-- The tile has done all that the frame asks of it (02 R51): SQ.END has decoded, nothing is queued or in flight, and no re-execution is outstanding. -/
def Tile.finished (tl : Tile) : Bool :=
  tl.seq.ended && tl.mx.queue.isEmpty && tl.vx.queue.isEmpty && tl.mv.queue.isEmpty && tl.mx.flight.all (fun o => o.retired) && tl.vx.flight.all (fun o => o.retired)
    && tl.mv.flight.all (fun o => o.retired) && tl.again.isNone && tl.reexec.isEmpty
    && (List.range 16).all (fun e => match tl.range e with
      | some r => !r.failed
      | none => true)

/-- Raises the commit flag, unless a fault of the frame withholds it. -/
def Tile.raiseFlag (tl : Tile) : Tile := if tl.finished && !tl.withheld then tl.orBits rTlStatus stCommit else tl

/-- `COMMIT_FLAG_RAISE` (R51). -/
def effCommitFlagRaise (n t : Nat) (s : State) : State := s.tileEvent n t Tile.raiseFlag

/-! The meanings of the rows of this family. -/

/-- `FRAME_TICK` (R18). -/
def execFrameTick (s : State) : Host.Outcome State Fault Refusal := .next (effFrameTick s)

/-- `COMMIT_POINT` (R23). -/
def execCommitPoint (s : State) : Host.Outcome State Fault Refusal := .next (effCommitPoint s)

/-- `PLAN_START` (R322). -/
def execPlanStart (s : State) : Host.Outcome State Fault Refusal := .next (effPlanStart s)

/-- `COMMIT_FLAG_RAISE` (R51). -/
def execCommitFlagRaise (n t : Nat) (s : State) : Host.Outcome State Fault Refusal := .next (effCommitFlagRaise n t s)

end Sys2Proof.Machine
end

