-- ==== Sys2Proof/Machine/SequencerRows.lean ====
section
/-! DEFINITION. The sequencer family (02 R51 to R61, 09 R248): each row runs the sequencer's event on tile `n` in slot `t`. A row acts when
the word that the sequencer decodes there is its instruction. -/

namespace Sys2Proof.Machine

/-- The resident routine `r` that the routine stores hold (R59, R60). -/
def State.routine (s : State) (r : Nat) : Option Routine := s.library.find? (fun x => x.number == r)

/-- The class of a routine number (Table 2-10); none for 0x80 to 0xFF, which no library defines. -/
def classOf (r : Nat) : Option Nat :=
  if r < 0x20 then some 0 else if r < 0x30 then some 1 else if r < 0x40 then some 2 else if r < 0x60 then some 3 else if r < 0x70 then some 4
  else if r < 0x80 then some 5 else none

/-- Whether the library defines routine `r` (R58, R60). -/
def State.definesRoutine (s : State) (r : Nat) : Bool := match s.routine r with
  | some x => classOf r == some x.cls
  | none => false

/-- The declared length of a routine, in cycles. -/
def State.routineLen (s : State) (r : Nat) : Nat := match s.routine r with
  | some x => x.len
  | none => 0

/-- The registers among S16 to S31 that a routine changes, as a mask: those the table lists among S16 to S23, and S24 to S31 (R58, R60). -/
def State.routineWrites (s : State) (r : Nat) : Nat := match s.routine r with
  | some x => x.writes % 256 + 0xFF00
  | none => 0

/-- The dispatch cycles of a routine's engine commands, counted from the call (R60). -/
def State.routineList (s : State) (r : Nat) : List Nat := match s.routine r with
  | some x => x.list.map (·.1)
  | none => []

/-- What a time event of class 5 loads, the work frame count and the shape index; a routine of another class sees neither (R60, Table 2-10). -/
def State.routineTimes (s : State) (r : Nat) : List Nat := if classOf r = some 5 then [s.workNo, s.frame.shape] else []

/-- The version of the library in the stores (R59). -/
def State.storeVersion (s : State) : Nat := s.field rLibVersion 0 16

/-- `SQ_NOP` (R53). -/
def effSqNop (n t : Nat) (s : State) : State :=
  s.tileEvent n t (fun tl => tl.sqDo t s.definesRoutine (fun i => match i with
    | .nop => some (id, 0)
    | _ => none))

/-- `SQ_END` (R51). -/
def effSqEnd (n t : Nat) (s : State) : State := s.tileEvent n t (fun tl => tl.sqEnd t s.definesRoutine)

/-- `SQ_LOOP` (R56). -/
def effSqLoop (n t : Nat) (s : State) : State := s.tileEvent n t (fun tl => tl.sqLoop t s.definesRoutine)

/-- The checks of the remote-read service on a READ line (09 R240, Table 9-15): FORMAT, the zero bytes, the context that owns the frame, the reply
route's DRANK and the reply entry's length. -/
def State.readOk (s : State) (lines : Nat) (l : Line) : Bool :=
  let d := l.data.toNat
  !l.poison && bitsAt d 120 8 == 1 && bitsAt d 128 384 == 0 && bitsAt d 33 31 == 0 && bitsAt d 92 4 == 0 && bitsAt d 112 8 == s.frame.ctx
    && bitsAt d 96 16 == orDrank (s.optRoute (bitsAt d 80 12)) && bitsAt d 64 16 == lines && decide (1 ≤ lines ∧ lines ≤ 128)

/-- What a remote-read service knows of its READ line: whether the checks pass, HLA, LINES and RROUTE. -/
def State.readView (s : State) (r : Nat) (args : List W64) (l : Line) : List Nat :=
  let d := l.data.toNat
  [b2n (s.readOk (Config.replyLines s.storeVersion r args) l), bitsAt d 0 33, bitsAt d 64 16, bitsAt d 80 12]

/-- The queue from which a routine pops a READ line: a collective-control routine that is a remote-read service has one among its arguments. -/
def State.readQueue (s : State) (r : Nat) (args : List W64) : Option Nat :=
  if classOf r = some 0 then (Config.remoteRead s.storeVersion r args).map (fun q => q % 64) else none

/-- `SQ_CALL` (R58). -/
def effSqCall (n t : Nat) (s : State) : State :=
  s.tileEvent n t (fun tl => tl.sqCall t s.definesRoutine s.routineLen s.readQueue s.readView)

/-- `SQ_CALL_RETURN` (R58). -/
def effSqCallReturn (n t : Nat) (s : State) : State :=
  s.tileEvent n t (fun tl => tl.sqCallReturn t s.storeVersion s.routineWrites s.routineList s.routineTimes)

/-- `SQ_HOLD` (R53). -/
def effSqHold (n t : Nat) (s : State) : State := s.tileEvent n t (fun tl => tl.sqHold t s.definesRoutine)

/-- `SQ_HOLD_RELEASE` (R67). -/
def effSqHoldRelease (n t : Nat) (s : State) : State := s.tileEvent n t (fun tl => tl.sqHoldRelease (s.furtherMet t) t)

/-- `SQ_SETI` (R54). -/
def effSqSeti (n t : Nat) (s : State) : State :=
  s.tileEvent n t (fun tl => tl.sqDo t s.definesRoutine (fun i => match i with
    | .seti d imm => some (fun tl' => tl'.setS d (immExt imm), 0)
    | _ => none))

/-- `SQ_SETHI` (R54): the low half of Sd stays. -/
def effSqSethi (n t : Nat) (s : State) : State :=
  s.tileEvent n t (fun tl => tl.sqDo t s.definesRoutine (fun i => match i with
    | .sethi d imm => some (fun tl' => tl'.setS d (BitVec.ofNat 64 ((tl'.s d).toNat % 2 ^ 32 + imm.toNat * 2 ^ 32)), 0)
    | _ => none))

/-- `SQ_ADDI` (R54). -/
def effSqAddi (n t : Nat) (s : State) : State :=
  s.tileEvent n t (fun tl => tl.sqDo t s.definesRoutine (fun i => match i with
    | .addi d a imm => some (fun tl' => tl'.setS d (tl'.s a + immExt imm), 0)
    | _ => none))

/-- A two-operand scalar instruction (R54). -/
def State.sqAluRow (n t : Nat) (op : AluOp) (s : State) : State := s.tileEvent n t (fun tl => tl.sqAlu t s.definesRoutine op)

/-- `SQ_ADD` (R54). -/
def effSqAdd (n t : Nat) (s : State) : State := s.sqAluRow n t .add
/-- `SQ_SUB` (R54). -/
def effSqSub (n t : Nat) (s : State) : State := s.sqAluRow n t .sub
/-- `SQ_MUL` (R54). -/
def effSqMul (n t : Nat) (s : State) : State := s.sqAluRow n t .mul
/-- `SQ_AND` (R54). -/
def effSqAnd (n t : Nat) (s : State) : State := s.sqAluRow n t .and
/-- `SQ_OR` (R54). -/
def effSqOr (n t : Nat) (s : State) : State := s.sqAluRow n t .or
/-- `SQ_XOR` (R54). -/
def effSqXor (n t : Nat) (s : State) : State := s.sqAluRow n t .xor
/-- `SQ_SHL` (R54). -/
def effSqShl (n t : Nat) (s : State) : State := s.sqAluRow n t .shl
/-- `SQ_SHR` (R54). -/
def effSqShr (n t : Nat) (s : State) : State := s.sqAluRow n t .shr
/-- `SQ_SRA` (R54). -/
def effSqSra (n t : Nat) (s : State) : State := s.sqAluRow n t .sra

/-- `SQ_POPS` (R54). -/
def effSqPops (n t : Nat) (s : State) : State := s.tileEvent n t (fun tl => tl.sqPops t s.definesRoutine)

/-- `SQ_EVE_OPEN` (09 R248). -/
def effSqEveOpen (n t : Nat) (s : State) : State := s.tileEvent n t (fun tl => tl.sqEveOpen t s.definesRoutine)

/-- `SQ_EVE_CLOSE` (09 R248). -/
def effSqEveClose (n t : Nat) (s : State) : State := s.tileEvent n t (fun tl => tl.sqEveClose t s.definesRoutine)

/-- `ILLEGAL_INSTRUCTION` (R72). -/
def effIllegalInstruction (n t : Nat) (s : State) : State := s.tileEvent n t (fun tl => tl.sqIllegal t s.definesRoutine)

/-- Whether a routine occupies the sequencer. -/
def Tile.inCall (tl : Tile) : Bool := match tl.seq.hold with
  | .call _ _ _ _ => true
  | _ => false

/-- `ENGINE_COMMAND_DISPATCH` (R61): of the stream, or of the routine that runs (R58). -/
def effEngineCommandDispatch (n t : Nat) (s : State) : State :=
  s.tileEvent n t (fun tl =>
    if tl.inCall then tl.routineDispatch s.frame.alen t s.storeVersion s.routineLen s.routineList
    else tl.dispatch s.frame.alen t s.definesRoutine)

/-! The meanings of the rows of this family. -/

/-- `SQ_NOP` (R53). -/
def execSqNop (n t : Nat) (s : State) : Host.Outcome State Fault Refusal := .next (effSqNop n t s)

/-- `SQ_END` (R51). -/
def execSqEnd (n t : Nat) (s : State) : Host.Outcome State Fault Refusal := .next (effSqEnd n t s)

/-- `SQ_LOOP` (R56). -/
def execSqLoop (n t : Nat) (s : State) : Host.Outcome State Fault Refusal := .next (effSqLoop n t s)

/-- `SQ_CALL` (R58). -/
def execSqCall (n t : Nat) (s : State) : Host.Outcome State Fault Refusal := .next (effSqCall n t s)

/-- `SQ_CALL_RETURN` (R58). -/
def execSqCallReturn (n t : Nat) (s : State) : Host.Outcome State Fault Refusal := .next (effSqCallReturn n t s)

/-- `SQ_HOLD` (R53). -/
def execSqHold (n t : Nat) (s : State) : Host.Outcome State Fault Refusal := .next (effSqHold n t s)

/-- `SQ_HOLD_RELEASE` (R67). -/
def execSqHoldRelease (n t : Nat) (s : State) : Host.Outcome State Fault Refusal := .next (effSqHoldRelease n t s)

/-- `SQ_SETI` (R54). -/
def execSqSeti (n t : Nat) (s : State) : Host.Outcome State Fault Refusal := .next (effSqSeti n t s)

/-- `SQ_SETHI` (R54). -/
def execSqSethi (n t : Nat) (s : State) : Host.Outcome State Fault Refusal := .next (effSqSethi n t s)

/-- `SQ_ADDI` (R54). -/
def execSqAddi (n t : Nat) (s : State) : Host.Outcome State Fault Refusal := .next (effSqAddi n t s)

/-- `SQ_ADD` (R54). -/
def execSqAdd (n t : Nat) (s : State) : Host.Outcome State Fault Refusal := .next (effSqAdd n t s)

/-- `SQ_SUB` (R54). -/
def execSqSub (n t : Nat) (s : State) : Host.Outcome State Fault Refusal := .next (effSqSub n t s)

/-- `SQ_MUL` (R54). -/
def execSqMul (n t : Nat) (s : State) : Host.Outcome State Fault Refusal := .next (effSqMul n t s)

/-- `SQ_AND` (R54). -/
def execSqAnd (n t : Nat) (s : State) : Host.Outcome State Fault Refusal := .next (effSqAnd n t s)

/-- `SQ_OR` (R54). -/
def execSqOr (n t : Nat) (s : State) : Host.Outcome State Fault Refusal := .next (effSqOr n t s)

/-- `SQ_XOR` (R54). -/
def execSqXor (n t : Nat) (s : State) : Host.Outcome State Fault Refusal := .next (effSqXor n t s)

/-- `SQ_SHL` (R54). -/
def execSqShl (n t : Nat) (s : State) : Host.Outcome State Fault Refusal := .next (effSqShl n t s)

/-- `SQ_SHR` (R54). -/
def execSqShr (n t : Nat) (s : State) : Host.Outcome State Fault Refusal := .next (effSqShr n t s)

/-- `SQ_SRA` (R54). -/
def execSqSra (n t : Nat) (s : State) : Host.Outcome State Fault Refusal := .next (effSqSra n t s)

/-- `SQ_POPS` (R54). -/
def execSqPops (n t : Nat) (s : State) : Host.Outcome State Fault Refusal := .next (effSqPops n t s)

/-- `SQ_EVE_OPEN` (R248). -/
def execSqEveOpen (n t : Nat) (s : State) : Host.Outcome State Fault Refusal := .next (effSqEveOpen n t s)

/-- `SQ_EVE_CLOSE` (R248). -/
def execSqEveClose (n t : Nat) (s : State) : Host.Outcome State Fault Refusal := .next (effSqEveClose n t s)

/-- `ILLEGAL_INSTRUCTION` (R72). -/
def execIllegalInstruction (n t : Nat) (s : State) : Host.Outcome State Fault Refusal := .next (effIllegalInstruction n t s)

/-- `ENGINE_COMMAND_DISPATCH` (R61). -/
def execEngineCommandDispatch (n t : Nat) (s : State) : Host.Outcome State Fault Refusal := .next (effEngineCommandDispatch n t s)

end Sys2Proof.Machine
end

