-- ==== Sys2Proof/Machine/EngineRows.lean ====
section
/-! DEFINITION. The matrix and the vector engine's rows (04, 05): issue and retirement on tile `n` in slot `t`, the masques MATRIX and VECTOR
(14 Table 14-7), and anchor misses (02 R64). -/

namespace Sys2Proof.Machine

/-- An issue that a pending masque of `kind` on the tile corrupts: it fires when the operation goes in flight. -/
def State.injectIssue (s : State) (n t kind : Nat) (f : Bool → Tile → Tile) : State :=
  let m := s.masqueOf kind (uTile * 4096 + n)
  let s' := s.tileEvent n t (f m.isSome)
  match m with
  | some m => if (s'.tile n).ops = (s.tile n).ops then s' else s'.masqueFire m
  | none => s'

/-- `MX_NOP` (04 R98). -/
def effMxNop (n t : Nat) (s : State) : State := s.tileEvent n t (fun tl => tl.issueNop (s.furtherMet t) n s.frameNo s.frame.alen .mx t)

/-- `MX_MM` (04 R102); `ups` are the upsets of the operation's datapath (R112 to R115). -/
def effMxMm (n t : Nat) (ups : List MxUpset) (s : State) : State :=
  s.tileEvent n t (fun tl => tl.mxStart (s.furtherMet t) n s.frameNo s.frame.alen t 1 ups false)

/-- `MX_MMI` (04 R104). -/
def effMxMmi (n t : Nat) (ups : List MxUpset) (s : State) : State :=
  s.injectIssue n t 0x13 (fun inj tl => tl.mxStart (s.furtherMet t) n s.frameNo s.frame.alen t 2 ups inj)

/-- `MX_MMS` (04 R108). -/
def effMxMms (n t : Nat) (ups : List MxUpset) (s : State) : State :=
  s.injectIssue n t 0x13 (fun inj tl => tl.mxStart (s.furtherMet t) n s.frameNo s.frame.alen t 3 ups inj)

/-- `MX_OPERATION_RETIRE` (04 R105) of the operation that issued in slot `i`. -/
def effMxOperationRetire (n t i : Nat) (s : State) : State := s.tileEvent n t (fun tl => tl.mxRetire n s.frameNo t i)

/-- `VX_NOP` (05 R122). -/
def effVxNop (n t : Nat) (s : State) : State := s.tileEvent n t (fun tl => tl.issueNop (s.furtherMet t) n s.frameNo s.frame.alen .vx t)

/-- A VX operation with operation code `op` issues; `ups` are the upsets of its datapath (R138). -/
def State.vxRow (n t op : Nat) (ups : List VxUpset) (s : State) : State :=
  s.injectIssue n t 0x14 (fun inj tl => tl.vxStart (s.furtherMet t) n s.frameNo s.frame.alen t op ups inj)

/-- `VX_EW` (05 R123). -/
def effVxEw (n t : Nat) (ups : List VxUpset) (s : State) : State := s.vxRow n t 1 ups
/-- `VX_CVT` (05 R127). -/
def effVxCvt (n t : Nat) (ups : List VxUpset) (s : State) : State := s.vxRow n t 2 ups
/-- `VX_RED` (05 R131). -/
def effVxRed (n t : Nat) (ups : List VxUpset) (s : State) : State := s.vxRow n t 3 ups
/-- `VX_FN` (05 R134). -/
def effVxFn (n t : Nat) (ups : List VxUpset) (s : State) : State := s.vxRow n t 4 ups
/-- `VX_STN` (05 R137). -/
def effVxStn (n t : Nat) (ups : List VxUpset) (s : State) : State := s.vxRow n t 5 ups
/-- `VX_RNG` (05 R141). -/
def effVxRng (n t : Nat) (ups : List VxUpset) (s : State) : State := s.vxRow n t 6 ups

/-- `VX_OPERATION_RETIRE` (05 R128) of the operation that issued in slot `i`. -/
def effVxOperationRetire (n t i : Nat) (s : State) : State := s.tileEvent n t (fun tl => tl.vxRetire n s.frameNo t i)

/-- `ANCHOR_MISS` (02 R64). -/
def effAnchorMiss (n t : Nat) (eng : Engine) (s : State) : State :=
  s.tileEvent n t (fun tl => tl.anchorMiss s.frame.alen t eng (s.furtherMet t))

/-! The meanings of the rows of this family. -/

/-- `MX_NOP` (R98). -/
def execMxNop (n t : Nat) (s : State) : Host.Outcome State Fault Refusal := .next (effMxNop n t s)

/-- `MX_MM` (R102). -/
def execMxMm (n : Nat) (w : MxIssue) (s : State) : Host.Outcome State Fault Refusal := .next (effMxMm n w.slot w.ups s)

/-- `MX_MMI` (R104). -/
def execMxMmi (n : Nat) (w : MxIssue) (s : State) : Host.Outcome State Fault Refusal := .next (effMxMmi n w.slot w.ups s)

/-- `MX_MMS` (R108). -/
def execMxMms (n : Nat) (w : MxIssue) (s : State) : Host.Outcome State Fault Refusal := .next (effMxMms n w.slot w.ups s)

/-- `MX_OPERATION_RETIRE` (R105). -/
def execMxOperationRetire (n t i : Nat) (s : State) : Host.Outcome State Fault Refusal := .next (effMxOperationRetire n t i s)

/-- `VX_NOP` (R122). -/
def execVxNop (n t : Nat) (s : State) : Host.Outcome State Fault Refusal := .next (effVxNop n t s)

/-- `VX_EW` (R123). -/
def execVxEw (n : Nat) (w : VxIssue) (s : State) : Host.Outcome State Fault Refusal := .next (effVxEw n w.slot w.ups s)

/-- `VX_CVT` (R127). -/
def execVxCvt (n : Nat) (w : VxIssue) (s : State) : Host.Outcome State Fault Refusal := .next (effVxCvt n w.slot w.ups s)

/-- `VX_RED` (R131). -/
def execVxRed (n : Nat) (w : VxIssue) (s : State) : Host.Outcome State Fault Refusal := .next (effVxRed n w.slot w.ups s)

/-- `VX_FN` (R134). -/
def execVxFn (n : Nat) (w : VxIssue) (s : State) : Host.Outcome State Fault Refusal := .next (effVxFn n w.slot w.ups s)

/-- `VX_STN` (R137). -/
def execVxStn (n : Nat) (w : VxIssue) (s : State) : Host.Outcome State Fault Refusal := .next (effVxStn n w.slot w.ups s)

/-- `VX_RNG` (R141). -/
def execVxRng (n : Nat) (w : VxIssue) (s : State) : Host.Outcome State Fault Refusal := .next (effVxRng n w.slot w.ups s)

/-- `VX_OPERATION_RETIRE` (R128). -/
def execVxOperationRetire (n t i : Nat) (s : State) : Host.Outcome State Fault Refusal := .next (effVxOperationRetire n t i s)

/-- `ANCHOR_MISS` (R64). -/
def execAnchorMiss (n t : Nat) (eng : Engine) (s : State) : Host.Outcome State Fault Refusal := .next (effAnchorMiss n t eng s)

end Sys2Proof.Machine
end

