-- ==== Sys2Proof/Machine/Mesh.lean ====
section
/-! DEFINITION. The mesh (07 R177 to R186, R193 to R196): a packet's way through the routers, the holds of router outputs and injection channels,
the timed crossings, and the ejection of lines. -/

namespace Sys2Proof.Machine

/-! The grid and its edges. -/

/-- One router on a packet's way: the physical tile, the input by which the packet enters (0 north, 1 east, 2 south, 3 west, 4 injection), the cost
C(j), the output it needs (none in the destination router), and whether it comes over a timed crossing and with what delay before the crossing. -/
structure HopAt where
  tile : Nat
  inp : Nat
  cost : Nat
  out : Option Nat
  crossing : Option Nat
  deriving DecidableEq, Repr

/-- The directions of a route entry, one for each hop (Table 7-2): the first leg of length 0 ends it. -/
def routeDirs (w : Nat) : Nat → List Nat
  | 0 => []
  | k + 1 =>
    let leg := bitsAt w (8 * (4 - (k + 1))) 8
    if leg % 64 = 0 then [] else List.replicate (leg % 64) (leg / 64) ++ routeDirs w k

/-- The rows of the virtual grid. -/
def gridRows (grid44 : Bool) : Nat := if grid44 then 44 else 48

/-- The neighbour of virtual tile `v` in direction `d`; none past the edge of the grid. -/
def neighbour (grid44 : Bool) (v d : Nat) : Option Nat :=
  let x := v % 32
  let y := v / 32
  match d with
  | 0 => if y = 0 then none else some (v - 32)
  | 1 => if x = 31 then none else some (v + 1)
  | 2 => if y + 1 < gridRows grid44 then some (v + 32) else none
  | _ => if x = 0 then none else some (v - 1)

/-- The port tiles of port `p` as virtual tiles (R196, Table 7-4). -/
def portTiles (grid44 : Bool) (p : Nat) : List Nat :=
  let d := p / 4
  let i := p % 4
  let y := if d < 2 then 0 else gridRows grid44 - 1
  let x := fun (o : Nat) => if d % 2 = 0 then o else 31 - o
  [32 * y + x (1 + 4 * i), 32 * y + x (2 + 4 * i)]

/-- The nine edge tiles of controller `c` as virtual tiles (R196, Table 7-4); the loader binds its links to the physical rows that carry them. -/
def edgeTiles (grid44 : Bool) (c : Nat) : List Nat :=
  let d := c / 2
  let y0 := (if d < 2 then 0 else gridRows grid44 / 2) + 3 + 9 * (c % 2)
  (List.range 9).map (fun i => 32 * (y0 + i) + (if d % 2 = 0 then 0 else 31))

/-- The cost of a hop between physical tiles `a` and `b` before any pad (R180). -/
def hopBase (a b : Nat) : Nat := if dieOf a ≠ dieOf b then 10 else if regionOf a ≠ regionOf b then 6 else 2

/-- The pad that the receiving router holds on its input (R195). -/
def State.hopPad (s : State) (b d : Nat) : Nat :=
  if d = 2 then bitsAt ((s.tile b).get rTlMeshPad) 0 4 else if d = 0 then bitsAt ((s.tile b).get rTlMeshPad) 4 4 else 0

/-- The rest of a way from virtual tile `v` (physical `n`, entered by `inp` at cost `cost`) in the given directions. -/
def State.walk (s : State) (grid44 : Bool) : List Nat → Nat → Nat → Nat → Option Nat → List HopAt
  | [], v, inp, cost, cr => [⟨s.physOf grid44 v, inp, cost, none, cr⟩]
  | d :: ds, v, inp, cost, cr =>
    match neighbour grid44 v d with
    | none => [⟨s.physOf grid44 v, inp, cost, none, cr⟩]
    | some w =>
      let a := s.physOf grid44 v
      let b := s.physOf grid44 w
      let base := hopBase a b
      ⟨a, inp, cost, some d, cr⟩ :: s.walk grid44 ds w ((d + 2) % 4) (cost + base + s.hopPad b d) (if 6 ≤ base then some (base - 6) else none)

/-- Whether the loaded plan is for the 32 × 44 grid. -/
def State.grid44 (s : State) : Bool := match s.loader.plan with
  | some p => p.head.grid44
  | none => false

/-- The way of a route entry from physical tile `n`. -/
def State.way (s : State) (n route : Nat) : List HopAt := s.walk s.grid44 (routeDirs route 4) (s.virtOf n) 4 0 none

/-- The way of a packet. -/
def State.wayOf (s : State) (k : Packet) : List HopAt := s.way k.src k.route

/-- The router at the end of a route, and the sum of the hops' costs. -/
def State.wayEnd (s : State) (n route : Nat) : Nat × Nat := match (s.way n route).getLast? with
  | some h => (h.tile, h.cost)
  | none => (n, 0)

/-- Entry `i` of tile `n`'s mesh route table (R179). -/
def State.meshRoute (s : State) (n i : Nat) : Nat := (smapGet (fun _ => (0 : W32)) (s.tile n).routes i).toNat

/-! Packets. -/

/-- The cycles of a packet: two lines each (R177). -/
def Packet.pairs (k : Packet) : Nat := (k.len + 1) / 2

/-- The flits of the packet are dropped from its head on. -/
def Packet.headLost (k : Packet) : Bool := k.lost == some 0

/-- The flit of line `i` has not been dropped. -/
def Packet.alive (k : Packet) (i : Nat) : Bool := match k.lost with
  | some j => decide (i < j)
  | none => true

/-- Line `i` as it was handed over. -/
def Packet.line? (k : Packet) (i : Nat) : Option Line := smapGet (fun _ => none) k.lines i

/-- The lines by their place in a packet. -/
def lineMap (ls : List Line) : SMap (Option Line) :=
  (ls.zip (List.range ls.length)).foldl (fun m x => smapPut (fun _ => none) m x.2 (some x.1)) []

/-- A packet of `len` lines enters the mesh; the lines that are known already are given. -/
def State.inject (s : State) (from_ : PktFrom) (src route dvt : Nat) (dest : PktDest) (len : Nat) (lines : List Line) (t0 : Nat) : State :=
  if len = 0 then s
  else { s with pkts := s.pkts ++ [⟨s.pktCtr, from_, src, route, dvt, dest, len, lineMap lines, t0, 0, none, []⟩], pktCtr := s.pktCtr + 1 }

/-- Packet `id`. -/
def State.pkt? (s : State) (id : Nat) : Option Packet := s.pkts.find? (fun k => k.id == id)

/-- Replaces the packet with the same number. -/
def State.setPkt (s : State) (k : Packet) : State := { s with pkts := s.pkts.map (fun x => if x.id = k.id then k else x) }

/-- Drops every flit of packet `id` from line `i` on, where its flits have not got further. -/
def State.drop (s : State) (id i : Nat) : State :=
  match s.pkt? id with
  | none => s
  | some k => if k.alive i then s.setPkt { k with lost := some i } else s

/-- Cycle `j` of the packet is handed to the router: a tile that has frozen injects no more (11 R304). -/
def State.handed (s : State) (k : Packet) (j : Nat) : Bool :=
  match k.from_ with
  | .mv _ _ => !(s.tile k.src).frozen || decide (k.t0 + j < (s.tile k.src).now)
  | _ => true

/-- The rank of a packet among the heads that meet in an injection channel (R182). -/
def PktFrom.rank : PktFrom → Nat
  | .mv _ t => t
  | .hbm => 2 ^ 64
  | .port => 2 ^ 65

/-- Two lines of one transfer, in one slot of its almanac, travel side by side (R177). -/
def Packet.beside (a b : Packet) : Bool :=
  match a.dest, b.dest with
  | .hbm c x i _, .hbm c' x' i' _ => c == c' && x == x' && i / 2 == i' / 2 && i != i' && a.t0 == b.t0
  | _, _ => false

/-! Routers. -/

/-- Router of tile `n`. -/
def State.router (s : State) (n : Nat) : Router := smapGet (fun _ => Router.mk [] []) s.routers n
def State.setRouter (s : State) (n : Nat) (r : Router) : State := { s with routers := smapPut (fun _ => Router.mk [] []) s.routers n r }

/-- The crossing queue of an input. -/
def Router.queue (r : Router) (inp : Nat) : List Crossing := smapGet (fun _ => []) r.queues inp
def Router.setQueue (r : Router) (inp : Nat) (q : List Crossing) : Router := { r with queues := smapPut (fun _ => []) r.queues inp q }

/-- The kinds of TL_MESH_LAST (Table 7-5). -/
def mkCollision := 1
def mkMisroute := 2
def mkCrossing := 3

/-- What the tile of a router does on a mesh fault (R183, R184, R186): it counts and records it and withholds its commit flag. -/
def State.meshFault (s : State) (n kind inp slot : Nat) : State :=
  let tl := s.tile n
  let counter := if kind = mkCollision then rTlMeshColl else if kind = mkMisroute then rTlMeshMisroute else rTlMeshCross
  let tl := (((tl.bump counter 1).orBits rTlMeshStatus (2 ^ (32 - kind))).set rTlMeshLast (kind * 2 ^ 30 + inp * 2 ^ 27)).set rTlMeshLastSlot slot
  let tl := ((tl.event 0x2B 1).raise (0x0200 + kind) slot inp)
  s.putTile n tl.withhold

/-- The router output or injection channel `out` of tile `n` is held in slot `t`. -/
def Router.holder (r : Router) (out t : Nat) : Option Hold := r.holds.find? (fun h => h.out == out && decide (h.lo ≤ t) && decide (t ≤ h.hi))

/-- The flits of a packet that has lost the output it took in slot `t` of router `n` go no further: their places in the next router's crossing queue, and what else it took there in that slot, are free. -/
def State.takeBack (s : State) (n id t : Nat) : State :=
  let r := s.router n
  let s := s.setRouter n { r with holds := r.holds.filter (fun h => !(h.pkt == id && h.lo == t)) }
  match s.pkt? id with
  | none => s
  | some k => match (s.wayOf k)[k.hop]? with
    | none => s
    | some b =>
      let r := s.router b.tile
      s.setRouter b.tile (r.setQueue b.inp ((r.queue b.inp).filter (fun c => c.pkt != id)))

/-- The head of packet `k`, which entered by `inp`, asks for `out` of router `n` in slot `t` (R182). Two heads in one cycle: the input first in the order
north, east, south, west, injection wins an output, and an injection channel goes by rank. -/
def State.contest (s : State) (n t out : Nat) (k : Packet) (inp : Nat) : State × Bool :=
  let r := s.router n
  let mine : Hold := ⟨out, k.id, inp, t, t + k.pairs - 1⟩
  match r.holder out t with
  | none => (s.setRouter n { r with holds := mine :: r.holds }, true)
  | some h =>
    match s.pkt? h.pkt with
    | some other =>
      if k.beside other then (s, true)
      else
        let better := h.lo == t && (if out < 4 then decide (inp < h.inp) else decide (k.from_.rank < other.from_.rank))
        if better then
          let s := s.takeBack n h.pkt t
          let r := s.router n
          let s := s.setRouter n { r with holds := mine :: r.holds }
          ((s.drop h.pkt 0).meshFault n mkCollision h.inp t, true)
        else ((s.drop k.id 0).meshFault n mkCollision inp t, false)
    | none => ((s.drop k.id 0).meshFault n mkCollision inp t, false)

/-- The flits that a crossing queue holds in a lane (R185). -/
def crossingDepth : Nat := 8

/-- The entries of a crossing queue that stand in it in slot `w`, as it looks in slot `t`: written, and neither released by then nor due. -/
def crossingFill (q : List Crossing) (t w : Nat) : Nat :=
  (q.filter (fun c => decide (c.wrote ≤ w) && !(decide (t ≤ c.wrote + 6) && decide (c.wrote + 6 ≤ w)))).length

/-- Cycle `j` of packet `k`, which leaves the router before it in slot `t + j`, enters the crossing queue of `b` with its stamp. A flit that finds the queue full is not there when it is due. -/
def State.cross (k : Packet) (b : HopAt) (t lead : Nat) (s : State) (j : Nat) : State :=
  let r := s.router b.tile
  let w := t + lead + j
  if crossingFill (r.queue b.inp) t w < crossingDepth then s.setRouter b.tile (r.setQueue b.inp (r.queue b.inp ++ [⟨w, w % 64, k.id, j⟩]))
  else match s.pkt? k.id with
    | some k => if k.alive (2 * j) then (s.drop k.id (2 * j)).meshFault b.tile mkCrossing b.inp (w + 6) else s
    | none => s

/-- A packet's flits leave a router of its way towards `b` in the cycles from `t` on: over a timed crossing they enter its queue with their stamps (R185). -/
def State.leave (s : State) (k : Packet) (b : HopAt) (t : Nat) : State :=
  match b.crossing with
  | none => s
  | some lead => (List.range k.pairs).foldl (State.cross k b t lead) s

/-- Cycle `j` of packet `id` still waits in a crossing queue of tile `n`. -/
def State.crossingHas (s : State) (n inp id j : Nat) : Bool := ((s.router n).queue inp).any (fun c => c.pkt == id && c.pair == j)

/-- Mesh traffic runs in the slots of a work frame (01 R26). -/
def State.meshLive (s : State) : Bool := s.workFrame && !s.frame.committed
def State.meshSlot (s : State) (t : Nat) : Bool := s.meshLive && decide (t < s.frame.alen)

/-- `MESH_HEAD_ARRIVAL` (R182): the head of packet `id` is in router `n` in slot `t`, by input `inp`. -/
def effMeshHeadArrival (n t : Nat) (id inp : Nat) (s : State) : State :=
  match s.pkt? id with
  | none => s
  | some k =>
    let way := s.wayOf k
    match way[k.hop]?, way[k.hop + 1]? with
    | some h, some b =>
      match h.out with
      | none => s
      | some o =>
        if s.meshSlot t ∧ h.tile = n ∧ h.inp = inp ∧ t = k.t0 + h.cost ∧ k.headLost = false ∧ s.handed k 0 = true ∧ s.crossingHas n inp id 0 = false then
          let s := s.seen t
          let (s, ok) := if inp = 4 then s.contest n t (4 + o) k inp else (s, true)
          if !ok then s
          else
            let s := if inp = 4 then s.setTile n ((s.tile n).event 0x28 k.len) else s
            let (s, ok) := s.contest n t o k inp
            if !ok then s
            else
              let s := s.setTile n ((s.tile n).event 0x2A k.len)
              (s.setPkt { k with hop := k.hop + 1 }).leave k b t
        else s
    | _, _ => s

/-- The router of tile `n` is one that the packet may leave the mesh at (R184): its own virtual tile is the one that the sideband names. -/
def State.owns (s : State) (n : Nat) (k : Packet) : Bool :=
  match k.dest with
  | .port p _ _ => ((portTiles s.grid44 p).map (s.physOf s.grid44)).contains n
  | .fwd p vc x _ => match s.shapeNow.bind (fun sh => (smapGet (fun _ => []) sh.arrivals (2 * p + vc))[x]?) with
    | some a => ((portTiles s.grid44 (orOut (s.optRoute a.route))).map (s.physOf s.grid44)).contains n
    | none => false
  | _ => s.virtOf n == k.dvt

/-- The lines of a packet that has all been ejected, with those that carry the poison marker. -/
def Packet.payload (k : Packet) : List LineBits × List Nat :=
  let ls := (List.range k.len).map (fun i => (k.line? i).getD .void)
  (ls.map (fun l => l.data), (List.range k.len).filter (fun i => (ls.getD i .zero).poison))

/-- What a notice does to the tile (09 R242, R250), which traces it (15 Table 15-4). -/
def Tile.notice (tl : Tile) (n frame t g code : Nat) : Tile :=
  (match code with
    | 1 => tl.noticeConfirm g
    | 2 => tl.noticeFail g
    | 3 => tl.noticeLeap g
    | _ => tl.noticeDead g).emit n frame 4 3 t (g + code * 2 ^ 8)

/-- Line `i` of the packet is ejected in slot `t`: what happens to it in the tile happens in the next cycle; with the packet's last line, an optical packet waits in its
port's egress queue. Lines for an HBM edge stand there (06 R160), and lines from one wait for LINE_ARRIVAL. -/
def State.eject (s : State) (n t : Nat) (k : Packet) (i : Nat) (v : Line) : State :=
  let k := { k with pushed := ssetSet k.pushed i true }
  let s := s.setPkt k
  match k.dest with
  | .queue q => s.arrivalEvent n (t + 1) (fun tl => tl.meshPush (t + 1) q v false)
  | .eve g q ent first => s.arrivalEvent n (t + 1) (fun tl => (tl.event 0x2C 1).eveLine (t + 1) g q ent (first + i) v)
  | .leap g => s.arrivalEvent n (t + 1) (fun tl => tl.leapLine (t + 1) g i v)
  | .notice g code => s.arrivalEvent n (t + 1) (fun tl => tl.notice n s.frameNo (t + 1) g code)
  | .fwd p vc x j => s.forwardLine p vc x j v.data v.poison
  | .port p header leap =>
    if (List.range k.len).all (ssetHas k.pushed) then s.sendOut p header k.payload.1 k.payload.2 leap else s
  | .edge _ | .hbm _ _ _ _ => s

/-- The tile whose move engine injects packet `k` has come to the cycle in which line `i` leaves it, and the frame to slot `t`. -/
def State.readFor (s : State) (k : Packet) (i t : Nat) : State :=
  match k.from_ with
  | .mv _ _ => (s.seen t).tileSync k.src (k.t0 + i / 2)
  | _ => s.seen t

/-- `MESH_LINE_ARRIVAL` (R180, R184): line `i` of packet `id` is in its destination router, tile `n`, in slot `t`. -/
def effMeshLineArrival (n t : Nat) (id i : Nat) (s : State) : State :=
  match s.pkt? id with
  | none => s
  | some k =>
    let way := s.wayOf k
    match way[k.hop]? with
    | none => s
    | some h =>
      if s.meshSlot t ∧ k.hop + 1 = way.length ∧ h.tile = n ∧ i < k.len ∧ ssetHas k.pushed i = false ∧ t = k.t0 + i / 2 + h.cost
          ∧ k.alive i = true ∧ s.handed k (i / 2) = true ∧ s.crossingHas n h.inp id (i / 2) = false then
        let s := s.readFor k i t
        match s.pkt? id with
        | none => s
        | some k => match k.line? i with
          | none => s
          | some v => if s.owns n k then s.eject n t k i v else (s.drop id i).meshFault n mkMisroute h.inp t
      else s

/-- `CROSSING_RELEASE` (R185, R186): input `inp` of router `n` in slot `t`. The front flits go on in the slot stamp + 6; found after that slot, or with stamps out of the order in which they
were written, they are a late crossing, and the rest of their packet is dropped. -/
def effCrossingRelease (n t : Nat) (inp : Nat) (s : State) : State :=
  if !s.meshSlot t then s
  else
    match (s.router n).queue inp with
    | [] => s
    | c :: cs =>
      let ordered := (cs.filter (fun x => decide (x.wrote ≤ t))).all (fun x => decide ((x.stamp + 64 - c.stamp % 64) % 64 < 32))
      if t < c.wrote then s
      else if c.wrote + 6 < t ∨ ordered = false then
        let s := (s.seen t).setRouter n ((s.router n).setQueue inp (cs.filter (fun x => x.pkt != c.pkt)))
        (s.drop c.pkt (2 * c.pair)).meshFault n mkCrossing inp t
      else if (c.stamp + 6) % 64 = t % 64 then (s.seen t).setRouter n ((s.router n).setQueue inp cs)
      else s

/-! The meanings of the rows of this family. -/

/-- `MESH_HEAD_ARRIVAL` (R182). -/
def execMeshHeadArrival (n t : Nat) (pkt inp : Nat) (s : State) : Host.Outcome State Fault Refusal := .next (effMeshHeadArrival n t pkt inp s)

/-- `MESH_LINE_ARRIVAL` (R180). -/
def execMeshLineArrival (n t : Nat) (pkt line : Nat) (s : State) : Host.Outcome State Fault Refusal := .next (effMeshLineArrival n t pkt line s)

/-- `CROSSING_RELEASE` (R185). -/
def execCrossingRelease (n t : Nat) (inp : Nat) (s : State) : Host.Outcome State Fault Refusal := .next (effCrossingRelease n t inp s)

end Sys2Proof.Machine
end

