-- ==== Sys2Proof/Machine/MvRows.lean ====
section
/-! DEFINITION. The move engine's rows (06 R143 to R157, 11 R300): sends, requests, waits, remote signals and retirements; the block hash (13 R349) and the
layer digest (15 R385, R386) of an MV.PUT, which its retirement records. -/

namespace Sys2Proof.Machine

/-- `MV_NOP` (R144). -/
def effMvNop (n t : Nat) (s : State) : State := s.tileEvent n t (fun tl => tl.issueNop (s.furtherMet t) n s.frameNo s.frame.alen .mv t)

/-- The MV command with operation code `op` that tile `n` can issue in slot `t`, with the tile as it stands there. -/
def State.mvReady (s : State) (n t op : Nat) : Option (Tile × Cmd) :=
  (s.tileThere n t).bind (fun tl => (tl.mvHead t op).map (fun c => (tl, c)))

/-- A sending command issues: its lines, as MV reads them, go to `dest` over route entry `route` of the tile. -/
def State.mvSendTo (s : State) (n t : Nat) (tl : Tile) (c : Cmd) (route dvt : Nat) (dest : PktDest) : State :=
  (s.tileEvent n t (fun x => x.mvSendIssue n s.frameNo s.frame.alen t c)).inject (.mv tl.ops t) n route dvt dest (mvLen c) [] (t + 3)

/-- `MV_SEND` (R147). -/
def effMvSend (n t : Nat) (s : State) : State :=
  match s.mvReady n t 1 with
  | none => s
  | some (tl, c) => s.mvSendTo n t tl c (s.meshRoute n (c.f 40 12)) (c.f 72 11) (.queue (c.f 66 6))

/-- The mesh route entry of tile `n` that an optical route names, and the port it leads to (09 R236). -/
def State.optWay (s : State) (n route : Nat) : Nat × Nat :=
  let e := s.optRoute route
  (s.meshRoute n (orMesh e), orOut e)

/-- `MV_OSEND` (R148): the packet's header comes from the command (08 R217). -/
def effMvOsend (n t : Nat) (s : State) : State :=
  match s.mvReady n t 2 with
  | none => s
  | some (tl, c) =>
    let route := c.f 35 12
    let (way, p) := s.optWay n route
    let h := header 1 (c.f 54 1) (mvLen c) (s.field rRank 0 16) (c.f 72 16) (c.f 61 11) (c.f 55 6) route s.frameNo
    let s := s.mvSendTo n t tl c way 0 (.port p h false)
    s.setTile n ((s.tile n).event 0x3C 1)

/-! Requests (R153, R160, R171). -/

/-- The low 33 bits of an HBM line address plus its offset register (R143): the offset field of six bits lies at `off`. -/
def hlaOf (c : Cmd) (hla off : Nat) : Nat := (hla + (if bitAt (c.f off 6) 5 then c.s (c.f off 5) else 0)) % 2 ^ 33

/-- The almanac's transfers whose request slot is the cycle in which a flit that tile `n` hands over in slot `handed` reaches their edge, each with its controller and its place there. -/
def State.xfersAt (s : State) (n handed : Nat) : List (Nat × Nat × Xfer) :=
  match s.shapeNow with
  | none => []
  | some sh => (List.range 8).flatMap (fun c =>
      let xs := smapGet (fun _ => []) sh.xfers c
      ((xs.zip (List.range xs.length)).filter (fun e =>
        e.1.tile == s.virtOf n && handed + (s.wayEnd n e.1.route).2 + 1 == e.1.reqSlot)).map (fun e => (c, e.2, e.1)))

/-- The transfer that a request flit is for: of those of its slot the one with its direction, tag and stack, else one with its direction, else any. DESIGN CHOICE (log 24): the flit carries no route. -/
def State.xferFor (s : State) (n handed : Nat) (f : ReqFlit) : Option (Nat × Nat × Xfer) :=
  let xs := s.xfersAt n handed
  (xs.find? (fun e => e.2.2.read == f.read && e.2.2.tag == f.tag && e.1 == f.hla / 2 ^ 30)).orElse (fun _ =>
    (xs.find? (fun e => e.2.2.read == f.read)).orElse (fun _ => xs.head?))

/-- The packet of a request flit, with a write's lines beside it, leaves over the route that the transfer names (R160); a flit for which the almanac has no transfer has no route. -/
def State.request (s : State) (n t handed len : Nat) (op : Nat) (lines : List Line) (f : ReqFlit) : State :=
  match s.xferFor n handed f with
  | some (_, _, x) => s.inject (.mv op t) n x.route (s.virtOf (s.wayEnd n x.route).1) (.edge f) len lines handed
  | none => s

/-- A reading MV command reserves `f.len` lines of queue DQ and sends its request (R153). -/
def State.mvReserve (s : State) (n t : Nat) (tl : Tile) (c : Cmd) (f : ReqFlit) : State :=
  let (ctl, x) := match s.xferFor n (t + 1) f with
    | some (ctl, x, p) => (ctl, if p.read then some x else none)
    | none => (f.hla / 2 ^ 30, none)
  let s' := s.tileEvent n t (fun tl =>
    ((tl.mvFly n s.frameNo s.frame.alen t (t + 1) c).reserve t (c.f 90 6) f.len ctl x).event 0x3B 1)
  s'.request n t (t + 1) 1 tl.ops [.zero] f

/-- `MV_GET` (R153). -/
def effMvGet (n t : Nat) (s : State) : State :=
  match s.mvReady n t 3 with
  | none => s
  | some (tl, c) =>
    if tl.tracker.length < trackerSize then
      s.mvReserve n t tl c ⟨true, none, c.f 74 16, hlaOf c (c.f 41 33) 21, c.f 27 14 + 1⟩
    else s

/-- `MV_GATHER` (R171): NE index entries of GL lines each. -/
def effMvGather (n t : Nat) (s : State) : State :=
  match s.mvReady n t 5 with
  | none => s
  | some (tl, c) =>
    if tl.tracker.length < trackerSize then
      let ne := c.f 30 11 + 1
      let gl := c.f 20 10 + 1
      s.mvReserve n t tl c ⟨true, some (ne, gl), c.f 74 16, hlaOf c (c.f 41 33) 14, ne * gl⟩
    else s

/-! Hash and digest of an MV.PUT. -/

def hashM1 : W64 := 0x9c6e23a1d47f58b3
def hashM2 : W64 := 0x6a510c9fe28b3d47
def hashK : W64 := 0x3b1d5a970e64c2f9

/-- Word `k` of a line. -/
def lineWord (d : LineBits) (k : Nat) : W64 := BitVec.ofNat 64 (bitsAt d.toNat (64 * k) 64)

/-- A line's value (13 R349). -/
def lineValue (d : LineBits) : W64 :=
  (List.range 8).foldl (fun v k =>
    let x := lineWord d k + BitVec.ofNat 64 (k + 1) * hashK
    let x := (x ^^^ (x >>> 31)) * hashM1
    v ^^^ x.rotateLeft (8 * k)) 0

/-- A block's hash (13 R349). -/
def blockHash (chain : W64) (ls : List LineBits) : W64 :=
  let h := ls.foldl (fun h d => h.rotateLeft 17 ^^^ lineValue d) (chain ^^^ hashM2)
  let h := h + BitVec.ofNat 64 ls.length
  let h := (h ^^^ (h >>> 33)) * hashM1
  h ^^^ (h >>> 29)

/-- The lines in blocks of 1,024. -/
def hashBlocks : Nat → List Line → List (List Line)
  | 0, _ => []
  | k + 1, ls => if ls.isEmpty then [] else ls.take 1024 :: hashBlocks k (ls.drop 1024)

/-- A block's hash record (13 Table 13-3). -/
def hashRecord (h chain : W64) (frame hla ctx vt : Nat) (ls : List Line) : Nat :=
  h.toNat + chain.toNat * 2 ^ 64 + (frame % 2 ^ 32) * 2 ^ 128 + (hla % 2 ^ 32) * 2 ^ 160
    + (bitsAt hla 32 1 + 2 * b2n (ls.any (fun l => l.poison))) * 2 ^ 192 + ctx * 2 ^ 200 + vt * 2 ^ 208 + ls.length * 2 ^ 224

/-- The records of the blocks, each chained to the one before. -/
def hashRecords (frame ctx vt : Nat) : W64 → Nat → List (List Line) → List Nat
  | _, _, [] => []
  | chain, hla, b :: bs =>
    let h := blockHash chain (b.map (fun l => l.data))
    hashRecord h chain frame hla ctx vt b :: hashRecords frame ctx vt h (hla + b.length) bs

/-- The most hash records of a frame (13 R351). -/
def hashCap : Nat := 4096

/-- HASH: the command's records wait for the quiet interval (13 R351). -/
def State.hashPut (s : State) (n t hla : Nat) (c : Cmd) (ls : List Line) : State :=
  let vt := s.virtOf n
  let rs := hashRecords s.frameNo s.frame.ctx vt (BitVec.ofNat 64 (c.s ((c.f 6 5 + 1) % 32))) hla (hashBlocks 16 ls)
  let s := s.setTile n ((s.tile n).event 0x39 rs.length)
  let room := hashCap - s.serve.hashes.length
  let s := s.bump rHashLost (rs.drop room).length
  { s with serve := { s.serve with hashes := s.serve.hashes ++ (rs.take room).map (fun b => ⟨t, vt, b⟩) } }

def digM1 : W64 := 0xa5c31d7b62e904f1
def digM2 : W64 := 0x7b3e9d25c1f86a4b

/-- An element's term (15 R386). -/
def digTerm (tag i : Nat) (b : W64) : W64 :=
  let z := BitVec.ofNat 64 (tag <<< 40) ^^^ BitVec.ofNat 64 i
  let z := z * digM1
  let z := z ^^^ (z >>> 32)
  let x := (z ^^^ b) * digM2
  let x := (x ^^^ (x >>> 29)) * digM1
  x ^^^ (x >>> 32)

/-- The sum of the terms of a line whose first element has stream position `k`. -/
def digLine (tag base bits k : Nat) (d : LineBits) : W64 :=
  (List.range (512 / bits)).foldl (fun a e => a + digTerm tag ((base + k + e) % 2 ^ 40) (BitVec.ofNat 64 (bitsAt d.toNat (bits * e) bits))) 0

/-- DIG: the partial sum joins the frame's table (15 R387); a bad specifier contributes nothing. -/
def State.digestPut (s : State) (n : Nat) (c : Cmd) (ls : List Line) : State :=
  let spec := c.s (c.f 6 5)
  let es := bitsAt spec 49 3
  if 4 < es ∨ bitsAt spec 40 9 ≠ 0 then (s.bump rDigBad 1).orBits rObStatus (2 ^ 27)
  else
    let tag := bitsAt spec 52 12
    let bits := esizeBits es
    let per := 512 / bits
    let sum := (ls.zip (List.range ls.length)).foldl (fun a p => a + digLine tag (bitsAt spec 0 40) bits (per * p.2) p.1.data) 0
    let s := s.setTile n ((s.tile n).event 0x38 ls.length)
    let d := smapGet (fun _ => (⟨0, 0, false⟩ : DigSum)) s.ob.dig.sums tag
    let d : DigSum := ⟨(d.sum + sum.toNat) % 2 ^ 64, (d.count + per * ls.length) % 2 ^ 32, d.poison || ls.any (fun l => l.poison)⟩
    { s with ob := { s.ob with dig := { s.ob.dig with sums := smapPut (fun _ => ⟨0, 0, false⟩) s.ob.dig.sums tag d } } }

/-- The lines that a sending operation has read. -/
def Op.lines (o : Op) : List Line := (List.range (mvLen o.cmd)).map (fun i => o.line i)

/-- The first line that an MV.PUT writes. -/
def putHla (c : Cmd) : Nat := hlaOf c (c.f 39 33) 19

/-- What HASH and DIG of an MV.PUT record once it has read its lines. -/
def State.putRecords (s : State) (n : Nat) (o : Op) : State :=
  let s := if o.cmd.f 12 1 = 1 then s.hashPut n o.issued (putHla o.cmd) o.cmd o.lines else s
  if o.cmd.f 11 1 = 1 then s.digestPut n o.cmd o.lines else s

/-- `MV_PUT` (R160). -/
def effMvPut (n t : Nat) (s : State) : State :=
  match s.mvReady n t 4 with
  | none => s
  | some (tl, c) =>
    (s.tileEvent n t (fun x => x.mvSendIssue n s.frameNo s.frame.alen t c)).request n t (t + 3) (mvLen c) tl.ops []
      ⟨false, none, c.f 72 16, putHla c, mvLen c⟩

/-- `MV_WAIT` (R155). -/
def effMvWait (n t : Nat) (s : State) : State := s.tileEvent n t (fun tl => tl.mvWaitDo n s.frameNo s.frame.alen t)

/-- The payload of a SYNC packet (11 Table 11-3). -/
def syncPayload (vid kind part failed inc : Nat) : LineBits :=
  BitVec.ofNat 512 (vid % 4096 + kind * 2 ^ 16 + part % 16 * 2 ^ 24 + failed % 2 * 2 ^ 32 + inc % 65536 * 2 ^ 64)

/-- A remote signal or part: a SYNC packet of one line on the optical route that the command names (11 R300). -/
def State.syncRemote (s : State) (n t sop : Nat) (pay : Cmd → LineBits) : State :=
  match s.syncHead n t sop with
  | none => s
  | some c =>
    let op := (s.tile n).ops
    let s := s.syncIssue n t c
    let route := syncRoute c
    let e := s.optRoute route
    let (way, p) := s.optWay n route
    let h := header 2 (orVc e) 1 (s.field rRank 0 16) (orDrank e) 0 0 route s.frameNo
    s.inject (.mv op t) n way 0 (.port p h false) 1 [⟨pay c, false⟩] (t + 3)

/-- `MV_SYNC_RSIGNAL` (11 R300). -/
def effMvSyncRsignal (n t : Nat) (s : State) : State := s.syncRemote n t 4 (fun c => syncPayload (syncVid c) 1 0 0 (syncInc c))

/-- `MV_SYNC_RPART` (11 R300). -/
def effMvSyncRpart (n t : Nat) (s : State) : State :=
  s.syncRemote n t 5 (fun c => syncPayload (syncVid c) 2 (syncPartNo c) (b2n (syncPartFail c)) 0)

/-- `MV_OPERATION_RETIRE` (R146). -/
def effMvOperationRetire (n t : Nat) (s : State) : State :=
  let o := (s.tileThere n t).bind (fun tl => tl.mv.retiring t)
  let s := s.tileEvent n t (fun tl => tl.mvRetire n s.frameNo t)
  match o with
  | some o => if o.cmd.op = 4 then s.putRecords n o else s
  | none => s

/-! The meanings of the rows of this family. -/

/-- `MV_NOP` (R144). -/
def execMvNop (n t : Nat) (s : State) : Host.Outcome State Fault Refusal := .next (effMvNop n t s)

/-- `MV_SEND` (R147). -/
def execMvSend (n t : Nat) (s : State) : Host.Outcome State Fault Refusal := .next (effMvSend n t s)

/-- `MV_OSEND` (R148). -/
def execMvOsend (n t : Nat) (s : State) : Host.Outcome State Fault Refusal := .next (effMvOsend n t s)

/-- `MV_GET` (R153). -/
def execMvGet (n t : Nat) (s : State) : Host.Outcome State Fault Refusal := .next (effMvGet n t s)

/-- `MV_PUT` (R160). -/
def execMvPut (n t : Nat) (s : State) : Host.Outcome State Fault Refusal := .next (effMvPut n t s)

/-- `MV_GATHER` (R171). -/
def execMvGather (n t : Nat) (s : State) : Host.Outcome State Fault Refusal := .next (effMvGather n t s)

/-- `MV_WAIT` (R155). -/
def execMvWait (n t : Nat) (s : State) : Host.Outcome State Fault Refusal := .next (effMvWait n t s)

/-- `MV_SYNC_RSIGNAL` (R300). -/
def execMvSyncRsignal (n t : Nat) (s : State) : Host.Outcome State Fault Refusal := .next (effMvSyncRsignal n t s)

/-- `MV_SYNC_RPART` (R300). -/
def execMvSyncRpart (n t : Nat) (s : State) : Host.Outcome State Fault Refusal := .next (effMvSyncRpart n t s)

/-- `MV_OPERATION_RETIRE` (R146). -/
def execMvOperationRetire (n t : Nat) (s : State) : Host.Outcome State Fault Refusal := .next (effMvOperationRetire n t s)

end Sys2Proof.Machine
end

