-- ==== Sys2Proof/Machine/Hbm.lean ====
section
/-! DEFINITION. The HBM controllers (06 R150 to R175): request checks, almanac commands, delivery and late slots, retries, scrub, heat mode, and the
HBM masques (14 Table 14-7). Controller `c` serves stack `c`; `x` names a transfer of the running frame's shape on it, `i` a line of the transfer. -/

namespace Sys2Proof.Machine

/-- Controller `c` beside its registers. -/
def State.ctl (s : State) (c : Nat) : HbmCtl := smapGet (fun _ => HbmCtl.idle) s.hbmCtl c
def State.setCtl (s : State) (c : Nat) (k : HbmCtl) : State := { s with hbmCtl := smapPut (fun _ => HbmCtl.idle) s.hbmCtl c k }

/-- Transfer `x` of controller `c` in the running frame: what the plan says of it and how far it has come. -/
def State.xfer (s : State) (c x : Nat) : Option (Xfer × XferRun) :=
  match s.shapeNow with
  | none => none
  | some _ => match (s.xferPlans s.frame.shape c)[x]?, (s.ctl c).xfers[x]? with
    | some p, some r => some (p, r)
    | _, _ => none

/-- Replaces the running part of transfer `x`. -/
def State.setXfer (s : State) (c x : Nat) (r : XferRun) : State :=
  let k := s.ctl c
  s.setCtl c { k with xfers := k.xfers.set x r }

/-- The pseudo-channel of a line (Table 6-3). -/
def pcOf (hla : Nat) : Nat := (hla % 2 ^ 30) / 16 % 64
/-- The bank of a line. -/
def bankOf (hla : Nat) : Nat := (hla % 2 ^ 30) / 1024 % 48

/-- The HLA of line `i` of a transfer; none for a line of an invalid gather entry (R153, R172). -/
def XferRun.lineAt (p : Xfer) (r : XferRun) (i : Nat) : Option Nat :=
  match p.gather with
  | none => some ((r.hla + i) % 2 ^ 33)
  | some (_, gl) => (smapGet (fun _ => none) r.entries (i / gl)).map (fun a => (a + i % gl) % 2 ^ 33)

/-! The request check (R160). -/

/-- The packet whose request flit reached an edge of controller `c` in the transfer's request slot, on its route. -/
def State.flitFor (s : State) (c : Nat) (p : Xfer) : Option (Packet × ReqFlit) :=
  let n := s.physOf s.grid44 p.tile
  let (last, cost) := s.wayEnd n p.route
  if ((edgeTiles s.grid44 c).map (s.physOf s.grid44)).contains last then
    (s.pkts.filterMap (fun k => match k.dest with
      | .edge f => if k.src = n ∧ k.route = p.route ∧ k.t0 + cost + 1 = p.reqSlot ∧ ssetHas k.pushed 0 = true then some (k, f) else none
      | _ => none)).head?
  else none

/-- The flit agrees with the transfer. -/
def flitFits (c : Nat) (p : Xfer) (f : ReqFlit) : Bool :=
  f.read == p.read && f.tag == p.tag && f.hla / 2 ^ 30 == c && f.hla % 1024 == p.phase && f.len == p.len && f.gather == p.gather
    && (match p.bank with
      | some b => b == bankOf f.hla
      | none => true)

/-- The transfer is void: counted and recorded (R160). -/
def State.refuse (s : State) (c x : Nat) (p : Xfer) (r : XferRun) (f : Option ReqFlit) : State :=
  let s := s.setXfer c x { r with state := .refused }
  let s := ((s.bump (rHbReqFault c) 1).orBits (rHbStatus c) (2 ^ 28)).hbLast c 4 (match f with
    | some f => f.hla % 2 ^ 30
    | none => 0x3FFFFFFF)
  s.record 0x0304 uHbm c (p.tag + (match f with
    | some f => f.tag
    | none => 0) * 2 ^ 16)

/-- `REQUEST_FLIT_ARRIVAL` (R160). A flit that reaches an edge in no transfer's request slot is paired with none. -/
def effRequestFlitArrival (c x : Nat) (s : State) : State :=
  match s.xfer c x with
  | none => s
  | some (p, r) =>
    if r.state ≠ .waiting then s
    else
      let s := s.seen p.reqSlot
      match s.flitFor c p with
      | none => s.refuse c x p r none
      | some (k, f) =>
        if flitFits c p f then s.setXfer c x { r with state := .accepted, hla := f.hla, pkt := some k.id } else s.refuse c x p r (some f)

/-! Almanac commands (R158). -/

/-- A line or an entry is refused (R151, R172). -/
def State.windowFault (s : State) (c hla k : Nat) (r : XferRun) : State × XferRun :=
  (((s.bump (rHbWinFault c) k).orBits (rHbStatus c) (2 ^ 29)).hbLast c 3 (hla % 2 ^ 30),
    { r with refused := r.refused + k, refusedAt := if r.refused = 0 then hla % 2 ^ 30 else r.refusedAt })

/-- The record of a transfer's refused lines, once all its lines have been sent or written. -/
def State.windowRecord (s : State) (c : Nat) (p : Xfer) (r : XferRun) : State :=
  if 0 < r.refused ∧ r.sent.length = p.len then s.record 0x0303 uHbm c (r.refusedAt + r.refused % 2 ^ 14 * 2 ^ 32) else s

/-- RD of line `i`: the line is read as it is stored; the window check; a line refused, or of an invalid entry, stands at the edge as the void line (R151, R172). -/
def State.cmdRead (s : State) (c x i : Nat) (p : Xfer) (r : XferRun) : State :=
  let take := fun (hla : Nat) => { r with read := smapPut (fun _ => none) r.read i (some (s.hbmRaw hla, s.symErrs hla)) }
  let void := fun (r : XferRun) => { r with ready := smapPut (fun _ => none) r.ready i (some Line.void) }
  match r.lineAt p i with
  | none => s.setXfer c x (void { r with read := smapPut (fun _ => none) r.read i (some (Line.void, [])) })
  | some hla =>
    if p.gather.isSome ∨ s.windowHas c s.frame.ctx hla false then s.setXfer c x (take hla)
    else
      let (s, r) := s.windowFault c hla 1 (take hla)
      s.setXfer c x (void r)

/-- Write line `i` of a transfer, if it stands at the edge in slot `t`: it reaches it in the cycle after it is in the edge tile's router (R160). -/
def State.edgeLine (s : State) (p : Xfer) (r : XferRun) (i t : Nat) : Option Line :=
  (r.pkt.bind s.pkt?).bind (fun k =>
    if ssetHas k.pushed i ∧ k.t0 + i / 2 + (s.wayEnd (s.physOf s.grid44 p.tile) p.route).2 + 1 ≤ t then k.line? i else none)

/-- WR of line `i` in slot `t`: an absent or poisoned line is written poisoned (R161), a line outside the windows is dropped (R151). -/
def State.cmdWrite (s : State) (c x i t : Nat) (p : Xfer) (r : XferRun) : State :=
  let hla := (r.hla + i) % 2 ^ 33
  let v := (s.edgeLine p r i t).getD .void
  let (s, r) := if s.windowHas c s.frame.ctx hla true then (s.hbmWrite hla v, r) else s.windowFault c hla 1 r
  let r := { r with sent := smapPut (fun _ => none) r.sent i (some (v, false)) }
  (s.setXfer c x r).windowRecord c p r

/-- A gather entry is valid (R172): reserved bits zero, the gather's stack, the almanac's phase, every line admitted. -/
def State.entryOk (s : State) (c : Nat) (p : Xfer) (gl e v : Nat) : Bool :=
  v / 2 ^ 33 == 0 && v / 2 ^ 30 == c && v % 1024 == p.entryPhases.getD e 0
    && (List.range gl).all (fun k => s.windowHas c s.frame.ctx (v + k) false)

/-- The index read of index line `i` (R171): it consumes up to eight entries. -/
def State.cmdIndex (s : State) (c x i : Nat) (p : Xfer) (r : XferRun) : State :=
  match p.gather with
  | none => s
  | some (ne, gl) =>
    let hla := (r.hla + i) % 2 ^ 33
    let (v, f) := s.hbmRead hla
    let (s, v) := if !(s.windowHas c s.frame.ctx hla false && hla / 2 ^ 30 == c) then (s, none)
      else match f with
      | .bad =>
        let s := ((s.bump (rHbUe c) 1).orBits (rHbStatus c) (2 ^ 31)).hbLast c 1 (hla % 2 ^ 30)
        (s.record 0x0301 uHbm c (hla % 2 ^ 30), none)
      | .corrected => (s.bump (rHbCe c) 1, if v.poison then none else some v)
      | .good => (s, if v.poison then none else some v)
    let es := (List.range 8).filter (fun k => decide (8 * i + k < ne))
    let (s, r) := es.foldl (fun (sr : State × XferRun) k =>
      let e := 8 * i + k
      match v with
      | none => sr.1.windowFault c hla 1 sr.2
      | some l =>
        let w := bitsAt l.data.toNat (64 * k) 64
        if sr.1.entryOk c p gl e w then (sr.1, { sr.2 with entries := smapPut (fun _ => none) sr.2.entries e (some w) })
        else sr.1.windowFault c (w % 2 ^ 33) 1 sr.2) (s, r)
    s.setXfer c x r

/-- Runs `f` on an accepted transfer. -/
def State.onXfer (s : State) (c x : Nat) (f : Xfer → XferRun → State) : State :=
  match s.xfer c x with
  | none => s
  | some (p, r) => if r.state = .accepted then f p r else s

/-- The controller is in heat mode. -/
def State.heat (s : State) (c : Nat) : Bool := s.bit (rHbStatus c) 26

/-- The almanac's command list for controller `c` in the running frame (01 R15, R30). -/
def State.cmdList (s : State) (c : Nat) : List HbmSlot :=
  if s.frame.ical then (match s.loader.plan with
    | some p => smapGet (fun _ => []) p.almanac.ical c
    | none => [])
  else (match s.shapeNow with
    | some sh => smapGet (fun _ => []) sh.cmds c
    | none => [])

/-- The almanac lists the command at slot `t`; in heat mode an added refresh may have moved it later by at most 392 ns (R165). -/
def State.cmdListed (s : State) (c t : Nat) (op : HbmOp) : Bool :=
  (s.cmdList c).any (fun e => e.op == op && (e.slot == t || (s.heat c && decide (e.slot ≤ t) && decide ((t - e.slot) * 20 ≤ 392 * s.rate))))

/-- `HBM_COMMAND` (R158), in slot `t`: ACT, PRE, REFab and RFM move no data. -/
def effHbmCommand (c t : Nat) (op : HbmOp) (s : State) : State :=
  if !s.frame.running || s.frame.committed || !s.cmdListed c t op then s
  else
    let s := s.seen t
    match op with
    | .rd x i => s.onXfer c x (fun p r => if p.read ∧ i < p.len ∧ smapGet (fun _ => none) r.read i = none then s.cmdRead c x i p r else s)
    | .wr x i => s.onXfer c x (fun p r =>
        if p.read = false ∧ i < p.len ∧ smapGet (fun _ => none) r.sent i = none then s.cmdWrite c x i t p r else s)
    | .index x i => s.onXfer c x (fun p r => s.cmdIndex c x i p r)
    | .act _ _ | .pre _ _ | .refab _ | .rfm _ => s

/-! Reads (R161, R162, R166, R167). -/

/-- A retry is possible (R167): a late slot is unassigned, and the next maintenance slot of the pseudo-channel has room and is not taken by a refresh. -/
def State.canRetry (s : State) (c : Nat) (p : Xfer) (r : XferRun) (hla : Nat) : Bool :=
  decide (r.late.length + r.lateUsed < p.lw) && decide ((smapGet (fun _ => []) (s.ctl c).retries (pcOf hla)).length < 4) && !s.heat c

/-- An uncorrectable line read for a tile (Table 6-6). -/
def State.readUe (s : State) (c hla : Nat) (retried : Bool) : State :=
  let inj := ssetHas s.fl.hbmMarks hla
  let s := { s with fl := { s.fl with hbmMarks := ssetSet s.fl.hbmMarks hla false } }
  let s := ((s.bump (rHbUe c) 1).orBits (rHbStatus c) (2 ^ 31)).hbLast c 1 (hla % 2 ^ 30)
  s.recordInj 0x0301 uHbm c (hla % 2 ^ 30 + b2n retried * 2 ^ 30) inj

/-- Line `i`, whose error is found now, waits for a retry in its pseudo-channel's next maintenance slot and for the transfer's next late slot. -/
def State.assignRetry (s : State) (c x i hla : Nat) (r : XferRun) : State :=
  let k := s.ctl c
  let q := smapGet (fun _ => []) k.retries (pcOf hla)
  (s.setCtl c { k with retries := smapPut (fun _ => []) k.retries (pcOf hla) (q ++ [(x, i, s.now)]) }).setXfer c x { r with late := r.late ++ [i] }

/-- The line stands decoded at the mesh edge. -/
def State.setReady (s : State) (c x i : Nat) (r : XferRun) (v : Line) : State :=
  s.setXfer c x { r with ready := smapPut (fun _ => none) r.ready i (some v) }

/-- `READ_LINE_READY` (R161, Table 6-6): line `i`, as its RD command read it, is decoded, with the symbol errors `errs` met on the read path. -/
def effReadLineReady (c x i : Nat) (errs : List (Nat × Nat)) (s : State) : State :=
  s.onXfer c x (fun p r =>
    match smapGet (fun _ => none) r.read i, r.lineAt p i with
    | some (raw, stored), some hla =>
      if smapGet (fun _ => none) r.ready i ≠ none ∨ r.late.contains i then s
      else
        let (errs, s) := match s.masqueOf 0x06 (uHbm * 4096 + c) with
          | some m => ((0, 255) :: errs, s.masqueFire m)
          | none => (errs, s)
        let (v, f) := decodeLine raw (stored ++ errs)
        match f with
        | .good => s.setReady c x i r v
        | .corrected =>
          let s := s.bump (rHbCe c) 1
          if s.canRetry c p r hla then s.assignRetry c x i hla r else s.setReady c x i r v
        | .bad =>
          if s.canRetry c p r hla then s.assignRetry c x i hla r
          else (s.readUe c hla false).setReady c x i r .void
    | _, _ => s)

/-- The edge tile injects line `i` in slot `t` over the transfer's route to its tile (07 R177). -/
def State.send (s : State) (c x i t : Nat) (p : Xfer) (r : XferRun) (v : Line) (late : Bool) : State :=
  let r := { r with sent := smapPut (fun _ => none) r.sent i (some (v, late)) }
  ((s.setXfer c x r).windowRecord c p r).inject .hbm (s.physOf s.grid44 p.edge) p.back p.tile (.hbm c x i late) 1 [v] t

/-- A line with no late slot left is delivered poisoned (R162). -/
def State.lateOvf (s : State) (c x i t : Nat) (p : Xfer) (r : XferRun) : State :=
  let l := ((r.lineAt p i).getD 0) % 2 ^ 30
  let s := ((s.bump (rHbLateOvf c) 1).orBits (rHbStatus c) (2 ^ 27)).hbLast c 5 l
  (s.record 0x0305 uHbm c l).send c x i t p r .void false

/-- `HBM_DELIVERY_SLOT` (R161): the regular slot of line `i`, which is slot `t`. -/
def effHbmDeliverySlot (c x i t : Nat) (s : State) : State :=
  match s.xfer c x with
  | none => s
  | some (p, r) =>
    if !s.meshSlot t || !p.read || decide (p.len ≤ i) || p.slots[i]? != some t || (smapGet (fun _ => none) r.sent i).isSome then s
    else
      let s := s.seen t
      match r.state with
      | .waiting => s
      | .refused => s.send c x i t p r .void false
      | .accepted =>
        match smapGet (fun _ => none) r.ready i with
        | some v => if r.late.contains i then s.bump (rHbLate c) 1 else s.send c x i t p r v false
        | none =>
          if r.late.contains i then s.bump (rHbLate c) 1
          else if r.late.length + r.lateUsed < p.lw then (s.bump (rHbLate c) 1).setXfer c x { r with late := r.late ++ [i] }
          else s.lateOvf c x i t p r

/-- `LATE_SLOT` (R162): the next late slot of the transfer, which is slot `t`. -/
def effLateSlot (c x t : Nat) (s : State) : State :=
  s.onXfer c x (fun p r =>
    if s.meshSlot t = false ∨ p.lates[r.lateUsed]? ≠ some t then s
    else
      let s := s.seen t
      match r.late with
      | [] => s.setXfer c x { r with lateUsed := r.lateUsed + 1 }
      | i :: rest =>
        match smapGet (fun _ => none) r.ready i with
        | none => s
        | some v => s.send c x i t p { r with late := rest, lateUsed := r.lateUsed + 1 } v true)

/-- `LINE_ARRIVAL` (R153, R154): line `i`, ejected in the slot before, is written into its reserved position in slot `t`; `n` is the transfer's tile. -/
def effLineArrival (n t : Nat) (c x i : Nat) (s : State) : State :=
  match s.pkts.find? (fun k => (match k.dest with
      | .hbm c' x' i' _ => c' == c && x' == x && i' == i
      | _ => false) && ssetHas k.pushed 0 && k.t0 + (s.wayEnd k.src k.route).2 + 1 == t) with
  | none => s
  | some k =>
    if (s.wayEnd k.src k.route).1 ≠ n then s
    else match k.line? 0, k.dest with
      | some v, .hbm _ _ _ late => s.arrivalEvent n t (fun tl => tl.arrive t c x i v late)
      | _, _ => s

/-! Maintenance slots (R169). -/

/-- One retry (R167). -/
def State.retryLine (s : State) (c : Nat) (xi : Nat × Nat × Nat) : State :=
  match s.xfer c xi.1 with
  | none => s
  | some (p, r) =>
    match r.lineAt p xi.2.1 with
    | none => s
    | some hla =>
      let s := s.bump (rHbRetry c) 1
      let (v, f) := s.hbmRead hla
      if f = .bad then (s.readUe c hla true).setReady c xi.1 xi.2.1 r .void else s.setReady c xi.1 xi.2.1 r v

/-- Scrubs one line within the write-backs left. -/
def State.scrubLine (sw : State × Nat) (c hla : Nat) : State × Nat :=
  let (s, w) := sw
  if (s.symErrs hla).isEmpty ∨ w = 0 then (s, w)
  else
    let (v, f) := s.hbmRead hla
    match f with
    | .good => (s, w)
    | .corrected => (s.hbmWrite hla v, w - 1)
    | .bad =>
      let inj := ssetHas s.fl.hbmMarks hla
      let s := { s with fl := { s.fl with hbmMarks := ssetSet s.fl.hbmMarks hla false } }
      let s := ((s.bump (rHbUe c) 1).orBits (rHbStatus c) (2 ^ 30)).hbLast c 2 (hla % 2 ^ 30)
      ((s.hbmWrite hla .void).recordInj 0x0302 uHbm c (hla % 2 ^ 30) inj, w - 1)

/-- Scrubs `k` segments of pseudo-channel `p`, from its pointer on. -/
def State.scrubSegs (c p : Nat) : Nat → State × Nat → State × Nat
  | 0, sw => sw
  | k + 1, (s, w) =>
    let i := s.get (rScrubPtr c p)
    let (s, w) := (List.range 16).foldl (fun sw l => State.scrubLine sw c (c * 2 ^ 30 + 1024 * i + 16 * p + l)) (s, w)
    let s := if i + 1 < 48 * s.fuse.rows then s.set (rScrubPtr c p) (i + 1)
      else (s.set (rScrubPtr c p) 0).bump (rHbScrubPass c) 1
    State.scrubSegs c p k (s, w)

/-- The HBM_UE masque of the frame on controller `c`: two symbols of the stored line are inverted. -/
def State.masqueHbm (s : State) (c : Nat) : State :=
  match s.masqueOf 0x11 (uHbm * 4096 + c) with
  | none => s
  | some m =>
    let hla := c * 2 ^ 30 + m.sel
    let flip := fun (w : SMap Byte) (k : Nat) => smapPut (fun _ => 0) w (68 * hla + k) (smapGet (fun _ => 0) w (68 * hla + k) ^^^ 0xFF)
    let s := { s with hbm := { s.hbm with wrong := flip (flip s.hbm.wrong 0) 1 }, fl := { s.fl with hbmMarks := ssetSet s.fl.hbmMarks hla true } }
    s.masqueFire m

/-- `MAINTENANCE_SLOT` (R169): on pseudo-channel `p` of controller `c`; it serves the retries whose errors were found at least 4 ns before it begins (R167). -/
def effMaintenanceSlot (c p : Nat) (s : State) : State :=
  if 8 ≤ c ∨ 64 ≤ p ∨ !s.frame.running then s
  else
    let s := s.masqueHbm c
    if s.heat c then s.bump (rHbHeat c) 1
    else
      let k := s.ctl c
      let q := smapGet (fun _ => []) k.retries p
      let now := if s.frame.ical then [] else (q.filter (fun e => decide (e.2.2 + 4 ≤ s.now))).take 4
      let s := s.setCtl c { k with retries := smapPut (fun _ => []) k.retries p (q.filter (fun e => !now.contains e)) }
      let s := now.foldl (fun s xi => s.retryLine c xi) s
      (State.scrubSegs c p (8 - now.length) (s, 4)).1

/-! Refresh, temperature and the stack's reports (R163 to R165). -/

/-- `KEEP_ALIVE` (R163): a REFab moves no data. -/
def effKeepAlive (_c : Nat) (s : State) : State := s

/-- `HBM_TEMP_SAMPLE` (R165): the stack reads `temp` °C. -/
def effHbmTempSample (c temp : Nat) (s : State) : State :=
  if 8 ≤ c then s
  else
    let temp := if temp < 256 then temp else 255
    let s := s.set (rHbTemp c) (2 ^ 31 + temp)
    let limit := s.field (rHbTempLimit c) 0 8
    let k := s.ctl c
    let s := if limit < temp then (s.orBits (rHbStatus c) (2 ^ 26)).setCtl c { k with coolSince := none }
      else if temp + 3 ≤ limit then s.setCtl c { k with coolSince := some (k.coolSince.getD s.now) }
      else s.setCtl c { k with coolSince := none }
    if 105 < temp then (s.orBits (rHbStatus c) (2 ^ 25)).record 0x0306 uHbm c temp else s

/-- `HEAT_MODE_EXIT` (R165). -/
def effHeatModeExit (c : Nat) (s : State) : State :=
  match (s.ctl c).coolSince with
  | some a => if s.heat c ∧ a + 1000000 ≤ s.now then s.clrBits (rHbStatus c) (2 ^ 26) else s
  | none => s

/-- `HEAT_REFRESH` (R165): an added REFab outside a maintenance slot. -/
def effHeatRefresh (c _p : Nat) (s : State) : State := if c < 8 ∧ s.heat c then s.bump (rHbHeat c) 1 else s

/-- `ADAPTIVE_RFM_REQUEST` (R164). -/
def effAdaptiveRfmRequest (c _p : Nat) (s : State) : State := if c < 8 then s.bump (rHbArfm c) 1 else s

/-- `CA_PARITY_ERROR` (Table 6-4, 14 R356). -/
def effCaParityError (c p : Nat) (s : State) : State :=
  if c < 8 then (s.orBits (rHbStatus c) (2 ^ 24)).record 0x0307 uHbm c (p % 64) else s

/-! The meanings of the rows of this family. -/

/-- `HBM_COMMAND` (R158). -/
def execHbmCommand (c : Nat) (w : HbmSlot) (s : State) : Host.Outcome State Fault Refusal := .next (effHbmCommand c w.slot w.op s)

/-- `REQUEST_FLIT_ARRIVAL` (R160). -/
def execRequestFlitArrival (c x : Nat) (s : State) : Host.Outcome State Fault Refusal := .next (effRequestFlitArrival c x s)

/-- `READ_LINE_READY` (R161). -/
def execReadLineReady (c x i : Nat) (errs : List (Nat × Nat)) (s : State) : Host.Outcome State Fault Refusal := .next (effReadLineReady c x i errs s)

/-- `HBM_DELIVERY_SLOT` (R161). -/
def execHbmDeliverySlot (c x i t : Nat) (s : State) : Host.Outcome State Fault Refusal := .next (effHbmDeliverySlot c x i t s)

/-- `LATE_SLOT` (R162). -/
def execLateSlot (c x t : Nat) (s : State) : Host.Outcome State Fault Refusal := .next (effLateSlot c x t s)

/-- `LINE_ARRIVAL` (R153). -/
def execLineArrival (n t : Nat) (c x i : Nat) (s : State) : Host.Outcome State Fault Refusal := .next (effLineArrival n t c x i s)

/-- `MAINTENANCE_SLOT` (R169). -/
def execMaintenanceSlot (c p : Nat) (s : State) : Host.Outcome State Fault Refusal := .next (effMaintenanceSlot c p s)

/-- `KEEP_ALIVE` (R163). -/
def execKeepAlive (c : Nat) (s : State) : Host.Outcome State Fault Refusal := .next (effKeepAlive c s)

/-- `HBM_TEMP_SAMPLE` (R165). -/
def execHbmTempSample (c temp : Nat) (s : State) : Host.Outcome State Fault Refusal := .next (effHbmTempSample c temp s)

/-- `HEAT_MODE_EXIT` (R165). -/
def execHeatModeExit (c : Nat) (s : State) : Host.Outcome State Fault Refusal := .next (effHeatModeExit c s)

/-- `HEAT_REFRESH` (R165). -/
def execHeatRefresh (c p : Nat) (s : State) : Host.Outcome State Fault Refusal := .next (effHeatRefresh c p s)

/-- `ADAPTIVE_RFM_REQUEST` (R164). -/
def execAdaptiveRfmRequest (c p : Nat) (s : State) : Host.Outcome State Fault Refusal := .next (effAdaptiveRfmRequest c p s)

/-- `CA_PARITY_ERROR` (R356). -/
def execCaParityError (c p : Nat) (s : State) : Host.Outcome State Fault Refusal := .next (effCaParityError c p s)

end Sys2Proof.Machine
end

