-- ==== Sys2Proof/Machine/LinkOps.lean ====
section
/-! DEFINITION. What the optical ports' commands share (08): the training states, lane maps and erasures, link-control messages and flits, and sending
flits as codewords and alignment markers. -/

namespace Sys2Proof.Machine

/-- All ones: a time field while a counter is unset (08 R216). -/
def noTime : Nat := 2 ^ 64 - 1

/-! Link-control messages (Table 8-9). -/

def lcNak (vc seq count : Nat) : LcMsg := BitVec.ofNat 64 (2 * 2 ^ 56 + vc % 2 * 2 ^ 55 + seq % 65536 * 2 ^ 39 + (count - 1) % 32 * 2 ^ 34)
def lcLane (mask gen : Nat) : LcMsg := BitVec.ofNat 64 (6 * 2 ^ 56 + mask % 2 ^ 13 * 2 ^ 43 + gen % 4 * 2 ^ 41)
def lcKind (m : LcMsg) : Nat := bitsAt m.toNat 56 8

/-- The STATUS message of port `p` (R214, R228): ACKv is E − 1. -/
def State.lcStatus (s : State) (p : Nat) : LcMsg :=
  let q := s.port p
  let ack := fun vc => ((q.chan vc).e + 65535) % 65536
  BitVec.ofNat 64 (2 ^ 56 + ack 0 * 2 ^ 40 + ack 1 * 2 ^ 24 + b2n (q.chan 0).conf * 2 ^ 23 + b2n (q.chan 1).conf * 2 ^ 22
    + s.field (rLkState p) (lkOffTx 0) 1 * 2 ^ 21 + s.field (rLkState p) (lkOffTx 1) 1 * 2 ^ 20 + s.field (rLkState p) 19 2 * 2 ^ 18 + b2n q.idOk * 2 ^ 17)

/-- IDENT0 and IDENT1 of this device. -/
def State.lcIdent (s : State) (p : Nat) : List LcMsg :=
  let plan := s.get64 rPlanId
  [BitVec.ofNat 64 (7 * 2 ^ 56 + s.field rDeviceAddr 0 16 * 2 ^ 40 + s.field rRank 0 16 * 2 ^ 24 + bitsAt plan 40 24),
    BitVec.ofNat 64 (8 * 2 ^ 56 + bitsAt plan 0 40 * 2 ^ 16 + p % 16 * 2 ^ 12)]

/-- A link-control flit with the given messages, STATUS first (Table 8-8). -/
def lcFlit (ms : List LcMsg) : LineBits :=
  let bs := ((List.range 7).map (fun i => bigBytes 8 (ms.getD i 0).toNat)).flatten ++ List.replicate 6 0
  bytesLine (bs ++ bigBytes 2 (crc16 bs))

/-! Alignment markers (Table 8-5). -/

/-- The fibres that carry the logical lanes of a map, in lane order (R208). -/
def laneFibres (mask : Nat) : List Nat := (fibresOf mask).take 12

/-- L: the logical lanes of a map. -/
def laneCount (mask : Nat) : Nat := if (fibresOf mask).length ≤ 11 then 11 else 12

/-- The codewords of a period with the lanes of `mask` (R203). -/
def periodCodewords (mask : Nat) : Nat := if laneCount mask = 11 then 16379 else 16383

/-- The lane symbols of a period, its marker among them (R203). -/
def periodSymbols (mask : Nat) : Nat := if laneCount mask = 11 then 405031 else 371371

/-- The eight content symbols of the marker of fibre `f`. -/
def markerSyms (mask p f period gen : Nat) : List Nat :=
  let lane := if (fibresOf mask).length = 13 ∧ f = 12 then 15 else ((fibresOf mask).filter (· < f)).length
  [0x2B5, 0x1CA, 0x3F0, 0x0D9, 0x26E, 2 * 256 + lane * 16 + f, period % 1024, p % 16 * 4 + gen % 4]

/-- A whole marker: leading zero data symbols add nothing to the check symbols. -/
def markerOf (mask p f period gen : Nat) : List Nat :=
  let m := markerSyms mask p f period gen
  m ++ rsParity m

/-- The symbols of a received marker that is valid (R204). -/
def markerRead (syms : List Nat) : Option (List Nat) :=
  if syms.length ≠ 23 then none
  else match rsFix syms with
    | none => none
    | some (m, _) =>
      if m.take 5 = [0x2B5, 0x1CA, 0x3F0, 0x0D9, 0x26E] ∧ bitsAt (m.getD 5 0) 8 2 = 2 ∧ bitsAt (m.getD 7 0) 6 4 = 0 then some m else none

/-! Lane maps (R208, R212). -/

/-- The stop of a plan that does not tolerate the loss of a lane on port `p` (R212). -/
def State.laneStop (s : State) (p fibre : Nat) : State :=
  let tol := s.bit (rLkCtrl p) 30
  let stop := !tol && s.planRuns
  let s := if stop then s.cause 4 else s
  s.flRaise (s.mkRec 0x0405 uPort p (fibre + 16 * b2n tol) false stop) 0

/-- The first fibre that a mask leaves out. -/
def firstMissing (mask : Nat) : Nat := ((List.range 13).find? (fun f => !bitAt mask f)).getD 0

/-- LK_LANE_MAP and the bits of LK_STATE for the map that `mask` gives. -/
def State.laneMap (s : State) (p mask gen : Nat) : State :=
  let live := fibresOf mask
  let lane := fun i => if i < 12 ∧ i < live.length then live.getD i 15 else 15
  let pack := fun lo k => (List.range k).foldl (fun a i => a + lane (lo + i) * 2 ^ (4 * i)) 0
  let s := s.set (rLaneLo p) (pack 0 8)
  let s := s.set (rLaneHi p) (pack 8 4 + (if live.length = 13 then 12 else 15) * 2 ^ 16)
  (((s.setField (rLkState p) lkReduced 1 (b2n (live.length ≤ 11))).setField (rLkState p) lkParity 1 (b2n (live.length = 13))).setField
    (rLkState p) lkErasure 1 0).setField (rLkState p) 19 2 gen

/-- The receiver takes a new map into use; a move to 11 lanes may stop the plan. -/
def State.rxMap (s : State) (p mask gen : Nat) : State :=
  let was := s.bit (rLkState p) lkReduced
  let s := s.laneMap p mask gen
  if !was && s.bit (rLkState p) lkReduced then s.laneStop p (firstMissing mask) else s

/-! Moving between the training states (R206). -/

/-- A failure to reach UP; each third one in succession is recorded. -/
def State.trainFail (s : State) (p : Nat) : State :=
  let k := (s.port p).fails + 1
  let s := (s.updPort p (fun q => { q with fails := k })).toSignal p
  if k % 3 = 0 then s.record 0x0403 uPort p (if k < 65535 then k else 65535) else s

/-- Both channels before training is complete: nothing received, nothing sent. -/
def Port.renew (q : Port) : Port :=
  let one := fun vc (q : Port) => let c := q.chan vc
    q.setChan vc { Chan.fresh with egress := c.egress, held := c.held }
  one 1 (one 0 q)

/-- The port enters UP: both channels count from 0 (R227). -/
def State.enterUp (s : State) (p : Nat) : State :=
  (s.setTrain p trUp).updPort p (fun q => { q.renew with fails := 0, cur := none, rx := [], fram := [], hunting := false, gapSeen := true })

/-- ALIGN: the full lane map, generation 0, new periods, no packet confirmed (R214), no history of errors (R213). -/
def State.enterAlign (s : State) (p : Nat) : State :=
  (((s.setTrain p trAlign).laneMap p 0x1FFF 0).set (LK p 0x58) 0).updPort p (fun q =>
    { q.renew with
      rx := [], rxCw := 0, lcIn := [], lcOut := [], lcNow := false, lcAsk := false, calAsk := false, fram := [], txCw := 0, txCol := [],
      txMask := 0x1FFF, txGen := 0, txWant := none, mapWant := none, decodes := false, berCount := 0, berErrs := [], gapSeen := true, hunting := true })

/-- The locked fibres are deskewed: their last markers lie within 512 lane symbols of one another (Table 8-7). -/
def State.deskewed (s : State) (p : Nat) : Bool :=
  let at_ := (fibresOf (s.lockMask p)).map (fun f => ((smapGet (fun _ => Fibre.fresh) (s.port p).fibres f).last).getD 0)
  let P := periodSymbols 0x1FFF
  at_.all (fun a => at_.all (fun b => let d := (a + P - b % P) % P; decide (d ≤ 512) || decide (P ≤ d + 512)))

/-- IDENT is entered once 12 fibres are locked and deskewed and codewords decode. -/
def State.tryIdent (s : State) (p : Nat) : State :=
  if s.train p = trAlign ∧ 12 ≤ (fibresOf (s.lockMask p)).length ∧ s.deskewed p = true ∧ (s.port p).decodes = true then
    (s.setTrain p trIdent).updPort p (fun q => { q with idGot := 0, idOk := false })
  else s

/-- The receiver asks for the map of its lock mask, with the generation after the one in use (R208). -/
def State.askMap (s : State) (p : Nat) : State :=
  s.updPort p (fun q => { q with mapWant := some (s.lockMask p, (s.field (rLkState p) 19 2 + 1) % 4) })

/-- The receiver erases fibre `f` in UP (R210, R211). -/
def State.eraseFibre (s : State) (p f : Nat) : State :=
  let q := s.port p
  let x := smapGet (fun _ => Fibre.fresh) q.fibres f
  let mask := s.lockMask p - (s.lockMask p &&& 2 ^ f)
  let gen := (s.field (rLkState p) 19 2 + 1) % 4
  let s := s.setPort p { q with fibres := smapPut (fun _ => Fibre.fresh) q.fibres f { x with erased := true }, mapWant := some (mask, gen) }
  let s := (s.setField (rLkState p) 0 13 mask).lkCount p (rLaneEvent p) lsLaneLost
  let s := if s.bit (rLkState p) lkParity ∧ f < 12 then s.setField (rLkState p) lkErasure 1 1 else s
  let s := (s.record 0x0401 uPort p (f + mask * 16)).lcQueue p (lcLane mask gen)
  if (fibresOf mask).length < 11 then s.leaveUp p else s

/-! Sending (R202, R203, R209, R215). -/

/-- Fibre `f` of the port's transmitter carries no light: a masque darkens it, or both feeds are lost (R199). -/
def Port.unlit (q : Port) (f : Nat) : Bool := bitAt q.dark f || q.feedLost == 3

/-- The alignment markers that close a period: one on each fibre in use that is not dark. The wanted lane map starts with the next period (R208). -/
def State.closePeriod (s : State) (p : Nat) : State :=
  let q := s.port p
  let s := (fibresOf q.txMask).foldl (fun s f =>
    if q.unlit f then s else s.emit (.marker p f (markerOf q.txMask p f q.txPeriod q.txGen))) s
  let s := s.updPort p (fun q => { q with txCw := 0, txCol := [], txPeriod := (q.txPeriod + 1) % 1024 })
  match q.txWant with
  | some (mask, gen) =>
    if s.train p = trUp then
      let s := s.updPort p (fun q => { q with txMask := mask, txGen := gen, txWant := none })
      if (fibresOf mask).length ≤ 11 ∧ 11 < (fibresOf q.txMask).length then s.laneStop p (firstMissing mask) else s
    else s
  | none => s

/-- Eight symbols of a codeword are corrupted (14 Table 14-7): which ones, and how, is not in the manual. -/
def corrupt (v : Nat) (syms : List Nat) : List Nat :=
  let start := v % 265
  (syms.zip (List.range syms.length)).map (fun x =>
    if start ≤ x.2 ∧ x.2 < start + 8 then x.1 ^^^ (1 + (v / 512) % 1023) else x.1)

/-- The sums of the complete lane positions of 12 symbols in a list: the parity fibre's symbols (R209). -/
def paritySyms : Nat → List Nat → List Nat
  | 0, _ => []
  | k + 1, xs => if xs.length < 12 then [] else (xs.take 12).foldl (· ^^^ ·) 0 :: paritySyms k (xs.drop 12)

/-- Codeword `k` of a period on the fibres of `mask` (R203, R209): fibre, lane position and symbol. `col` are the symbols of its first lane position that the codeword before it has sent. -/
def stripe (mask k : Nat) (col syms : List Nat) : List (Nat × Nat × Nat) :=
  let L := laneCount mask
  let fs := laneFibres mask
  let data := (syms.zip (List.range syms.length)).map (fun x => let g := 272 * k + x.2; (fs.getD (g % L) 0, g / L, x.1))
  let par := if (fibresOf mask).length = 13 then paritySyms 24 (col ++ syms) else []
  data ++ (par.zip (List.range par.length)).map (fun x => (12, 272 * k / L + x.2, x.1))

/-- One codeword of five flits leaves port `p`. -/
def State.sendCodeword (s : State) (p : Nat) (bad : Bool) (fs : List Flit) : State :=
  let q := s.port p
  let (y, hist) := scrambleBits (flitsPayload fs) payloadBits q.txHist 0
  let (v, s) := if bad then s.draw else (0, s)
  let syms := if bad then corrupt v.toNat (codewordOf y) else codewordOf y
  let s := s.emit (.symbols p ((stripe q.txMask q.txCw q.txCol syms).filter (fun x => !q.unlit x.1)))
  let all := q.txCol ++ syms
  s.updPort p (fun q => { q with txHist := hist, txCw := q.txCw + 1, txCol := all.drop (all.length / laneCount q.txMask * laneCount q.txMask) })

/-- The link-control flit that port `p` sends next: STATUS and up to six messages (R214, R215). ALIGN sends STATUS only, IDENT and HELD the identity and the lane mask,
and HELD no NAK. -/
def State.lcNext (s : State) (p : Nat) : State × Flit :=
  let st := s.train p
  let s := if st = trIdent ∨ st = trHeld then s.askMap p else s
  let q := s.port p
  let ident := s.lcIdent p ++ (match q.mapWant with
    | some (mask, gen) => [lcLane mask gen]
    | none => [])
  let ms := if st = trUp then q.lcOut.take 6 else if st = trIdent ∨ st = trHeld then ident else []
  let naks := (ms.filter (fun m => lcKind m == 2)).length
  let flit := lcFlit (s.lcStatus p :: ms)
  ((s.bump (rNakTx p) naks).updPort p (fun q => { q with lcOut := if st = trUp then q.lcOut.drop 6 else [], lcNow := false, lcAsk := false }), ⟨2, flit⟩)

/-! The off and on states of a receiver (R225). -/

/-- 192 KiB and 256 KiB. -/
def offBelow : Nat := 192 * 1024
def onFrom : Nat := 256 * 1024

/-- Sets a channel off or on as its free space asks; the change goes out in the next codeword slot. -/
def State.flow (s : State) (p vc : Nat) : State :=
  if s.train p ≠ trUp then s
  else
    let now := fun (s : State) => s.updPort p (fun q => { q with lcNow := true })
    let off := s.bit (rLkState p) (lkOffTx vc)
    let free := (s.port p).free vc
    if !off && decide (free < offBelow) then now ((s.setField (rLkState p) (lkOffTx vc) 1 1).lkCount p (rOffTx p) lsOff)
    else if off && decide (onFrom ≤ free) then now (s.setField (rLkState p) (lkOffTx vc) 1 0)
    else s

/-! NAKs (R228). -/

/-- The runs of consecutive numbers of an increasing list, each of at most 32. -/
def nakRuns : List Nat → List (Nat × Nat)
  | [] => []
  | x :: xs =>
    match nakRuns xs with
    | (a, k) :: rest => if (x + 1) % 65536 = a ∧ k < 32 then (x, k + 1) :: rest else (x, 1) :: (a, k) :: rest
    | [] => [(x, 1)]

/-- NAKs the numbers listed on channel `vc`. -/
def State.nakAll (s : State) (p vc : Nat) (ns : List Nat) : State :=
  let s := s.updChan p vc (fun c => { c with naked := ns.foldl (fun m n => ssetSet m n true) c.naked })
  (nakRuns ns).foldl (fun s r => s.lcQueue p (lcNak vc r.1 r.2)) s

/-- E moves past every confirmed number that follows without a gap (Table 8-13). -/
def Chan.advance : Nat → Chan → Chan
  | 0, c => c
  | k + 1, c =>
    if ssetHas c.ahead c.e then
      Chan.advance k { c with ahead := ssetSet c.ahead c.e false, gone := ssetSet c.gone c.e false, naked := ssetSet c.naked c.e false, e := (c.e + 1) % 65536 }
    else c

/-- Number `n` of the channel is settled. -/
def Chan.settle (c : Chan) (n : Nat) : Chan := Chan.advance 16385 { c with ahead := ssetSet c.ahead n true }

end Sys2Proof.Machine
end

