-- ==== Sys2Proof/Machine/LinkRx.lean ====
section
/-! DEFINITION. The receiving half of the optical link (08, 09 R237, R238, R255, R259): training, markers, codewords, link-control messages, headers and
trailers. -/

namespace Sys2Proof.Machine

/-! Training. -/

/-- LK_CTRL.ENABLE of port `p` takes the value `on` (R206). -/
def State.portCtrl (s : State) (p : Nat) (on : Bool) : State :=
  let s := s.setField (rLkCtrl p) 31 1 (b2n on)
  if on then (if s.train p = trDisabled then s.toSignal p else s)
  else if s.train p = trDisabled then s
  else
    let s := if s.train p = trUp then (s.curFails p).orBits (rLkStatus p) lsAlignLost else s
    (((s.updPort p (fun q => { q with dark := 0 })).toSignal p).setTrain p trDisabled)

/-- `PORT_ENABLE` (R206, R260): LK_CTRL is RWL. -/
def effPortEnable (p : Nat) (a : Agent) (on : Bool) (s : State) : State :=
  let s := s.touch a
  if 16 ≤ p then s else if !isPf0OrFw a || s.planRuns || s.selftest then s.ignored else s.portCtrl p on

/-- `FIBRE_CLOCK_LOCK` (R206): the fibres of `mask` hold clock lock. -/
def effFibreClockLock (p mask : Nat) (s : State) : State :=
  if 16 ≤ p ∨ s.train p ≠ trSignal then s
  else
    let s := s.updPort p (fun q => { q with clock := mask % 2 ^ 13 })
    if 12 ≤ (fibresOf mask).length then s.enterAlign p else s

/-- A training state's time limit of `ns` has passed. -/
def State.overdue (s : State) (p st ns : Nat) : Bool := decide (p < 16) && s.train p == st && decide ((s.port p).since + ns ≤ s.now)

/-- `SIGNAL_TIMEOUT` (R206): 5 ms. -/
def effSignalTimeout (p : Nat) (s : State) : State := if s.overdue p trSignal 5000000 then s.trainFail p else s

/-- `ALIGN_TIMEOUT` (R206): 1 ms. -/
def effAlignTimeout (p : Nat) (s : State) : State := if s.overdue p trAlign 1000000 then s.trainFail p else s

/-- The partner's identity is refused with the given reason (09 R259). -/
def State.idRefused (s : State) (p reason : Nat) : State :=
  ((s.orBits (rPeerStatus p) psIdRefused).setField (rPeerStatus p) 28 3 reason).record 0x0407 uPort p reason

/-- `IDENT_TIMEOUT` (R206): 100 µs; with an identity message missing, the identity is refused for reason 5 (09 R259). -/
def effIdentTimeout (p : Nat) (s : State) : State :=
  if s.overdue p trIdent 100000 then (if (s.port p).idGot = 3 then s.trainFail p else (s.idRefused p 5).setTrain p trHeld) else s

/-- The fibres that carry the logical lanes under the map that the receiver uses, in lane order (Table 8-14). -/
def State.rxFibres (s : State) (p : Nat) : List Nat :=
  ((List.range 8).map (fun i => s.field (rLaneLo p) (4 * i) 4) ++ (List.range 4).map (fun i => s.field (rLaneHi p) (4 * i) 4)).filter (· < 13)

/-- The mask of those fibres. -/
def State.rxMask (s : State) (p : Nat) : Nat :=
  (s.rxFibres p).foldl (fun m f => m ||| 2 ^ f) (if s.bit (rLkState p) lkParity then 2 ^ 12 else 0)

/-- Replaces the receiver of fibre `f`. -/
def State.setFibre (s : State) (p f : Nat) (x : Fibre) : State :=
  s.updPort p (fun q => { q with fibres := smapPut (fun _ => Fibre.fresh) q.fibres f x })

/-- The lane symbols at which the next marker of a locked fibre may end: under the map in use, or under the one asked for where its periods last longer or shorter (R203, R208). -/
def State.markerDue (s : State) (p : Nat) (x : Fibre) (pos : Nat) : Bool :=
  let l := x.last.getD 0
  let now := periodSymbols (s.rxMask p)
  pos == l + (x.bad + 1) * now
    || (match (s.port p).mapWant with
      | some (mask, _) => (List.range (x.bad + 1)).any (fun j => pos == l + j * now + periodSymbols mask)
      | none => false)

/-- A receiver whose lock mask is not the one it last asked for asks again (R208). -/
def State.maskChanged (s : State) (p : Nat) : State :=
  if s.train p = trUp then
    let s := s.askMap p
    match (s.port p).mapWant with
    | some (mask, gen) => s.lcQueue p (lcLane mask gen)
    | none => s
  else s

/-- The receiver takes the map that it asked for into use (R208). What has changed since is asked for anew. -/
def State.takeMap (s : State) (p mask gen : Nat) : State :=
  let s := (s.updPort p (fun q => { q with mapWant := none })).rxMap p mask gen
  if s.train p = trUp ∧ s.lockMask p ≠ mask then s.maskChanged p else s

/-- A marker that the hunting receiver of fibre `f` finds (R207): five in a row, a 12-lane period apart, lock it. -/
def State.huntMarker (s : State) (p f pos : Nat) (x : Fibre) : State :=
  let good := if x.last = some (pos - periodSymbols 0x1FFF) ∧ periodSymbols 0x1FFF ≤ pos then x.good + 1 else 1
  let s := s.setFibre p f { x with good := good, bad := 0, last := some pos }
  if good < 5 then s
  else
    let s := (s.setField (rLkState p) f 1 1).updPort p (fun q => { q with rxCw := 0 })
    (s.maskChanged p).tryIdent p

/-- A valid marker at the expected place of the locked fibre `f`: it ends a period, and it may carry the generation asked for. -/
def State.goodMarker (s : State) (p f pos gen : Nat) (x : Fibre) : State :=
  let s := (s.setFibre p f { x with bad := 0, last := some pos }).updPort p (fun q => { q with rxCw := if s.train p = trAlign then 0 else q.rxCw })
  match (s.port p).mapWant with
  | some (mask, want) => if s.train p = trUp ∧ gen = want then (s.takeMap p mask want).updPort p (fun q => { q with rxCw := 0 }) else s
  | none => s

/-- An invalid marker there; the third in a row loses the fibre's lock (R207, R210). -/
def State.badMarker (s : State) (p f : Nat) (x : Fibre) : State :=
  if x.bad < 2 then s.setFibre p f { x with bad := x.bad + 1 }
  else
    let s := s.setFibre p f Fibre.fresh
    if s.train p = trUp then s.eraseFibre p f else s.setField (rLkState p) f 1 0

/-- `ALIGNMENT_MARKER` (R204, R207, R208): the 23 symbols that end at lane symbol `pos` of fibre `f`. A locked fibre looks only where its markers must be. -/
def effAlignmentMarker (p f pos : Nat) (syms : List Nat) (s : State) : State :=
  if !s.linkOn p || decide (13 ≤ f) then s
  else
    let x := smapGet (fun _ => Fibre.fresh) (s.port p).fibres f
    if x.erased then s
    else
      match markerRead syms, bitAt (s.lockMask p) f with
      | none, false => s
      | some _, false => s.huntMarker p f pos x
      | none, true => if pos = x.last.getD 0 + (x.bad + 1) * periodSymbols (s.rxMask p) then s.badMarker p f x else s
      | some m, true => if s.markerDue p x pos then s.goodMarker p f pos (bitsAt (m.getD 7 0) 0 2) x else s

/-- `LOSS_OF_SIGNAL` (R210): fibre `f` has lost its light. -/
def effLossOfSignal (p f : Nat) (s : State) : State :=
  if !s.linkOn p || decide (13 ≤ f) || !bitAt (s.lockMask p) f then s
  else if s.train p = trUp then s.eraseFibre p f
  else (s.setField (rLkState p) f 1 0).setFibre p f Fibre.fresh

/-- `FEED_LOSS` (R199): the first or the second feed of Table 8-2. Without either the port is dark. -/
def effFeedLoss (p : Nat) (second : Bool) (s : State) : State := if 16 ≤ p then s else s.loseFeed p second false

/-! The stream of flits (Table 8-12). -/

/-- Bytes of a packet's payload and trailer. -/
def RxPkt.extent (k : RxPkt) : Nat := 64 * (bitsAt k.header 112 7 + 1) + 8

/-- The packet that is arriving takes its bytes from the stream; idle and link-control flits inside it are skipped (R225). An uncorrectable codeword counts
as five lost flits while the packet goes on beyond it; else the receiver hunts. -/
def Port.absorb : Nat → Port → Port
  | 0, q => q
  | n + 1, q =>
    match q.cur, q.rx with
    | some k, f :: rest =>
      let need := k.extent - k.body.length
      if need = 0 then q
      else if f.kind = 0 then Port.absorb n { q with rx := rest, gapSeen := true }
      else if f.kind = 2 then
        if 320 < need then Port.absorb n { q with rx := q.rx.drop 5, gapSeen := false, cur := some { k with body := k.body ++ List.replicate 320 none } }
        else { q with rx := q.rx.drop 5, gapSeen := false, hunting := true, cur := some { k with body := k.body ++ List.replicate need none } }
      else
        let take := if need < 64 - f.used then need else 64 - f.used
        let bs := ((lineBytes f.data).drop f.used).take take
        let rx := if f.used + take = 64 then rest else { f with used := f.used + take } :: rest
        Port.absorb n { q with rx := rx, gapSeen := false, cur := some { k with body := k.body ++ bs.map some } }
    | _, _ => q

/-- A byte of the arriving packet does not fit its channel's buffer (R226). -/
def State.overflow (s : State) (p : Nat) : State :=
  match (s.port p).cur with
  | none => s
  | some k =>
    if k.overflow || k.discard || k.dropped || decide ((s.port p).heldBytes (hdrVc k.header) ≤ rxBuffer) then s
    else
      let s := s.updPort p (fun q => { q with cur := some { k with overflow := true } })
      let s := (s.lkCount p (rRxOvf p) lsRxOvf).record 0x0406 uPort p (hdrVc k.header)
      match k.entry with
      | some e => s.entryFails p (hdrVc k.header) e k.leap
      | none => s

/-- Takes what the stream holds for the arriving packet. -/
def State.absorb (s : State) (p : Nat) : State :=
  let q := s.port p
  let q2 := Port.absorb (q.rx.length + 1) q
  let s := s.setPort p q2
  let s := if q2.hunting && !q.hunting then s.orBits (rLkStatus p) lsHunt else s
  ((s.overflow p).flow p 0).flow p 1

/-- The messages of a good link-control flit that the receiver acts on, and how many it does not know (R214). -/
def lcMessages (d : LineBits) : List LcMsg × Nat :=
  let bs := lineBytes d
  let ms := (List.range 7).map (fun i => (i, BitVec.ofNat 64 (bigNum ((bs.drop (8 * i)).take 8))))
  let known := fun (x : Nat × LcMsg) => if x.1 = 0 then lcKind x.2 == 1 else [2, 4, 6, 7, 8].contains (lcKind x.2)
  let empty := fun (x : Nat × LcMsg) => x.1 != 0 && lcKind x.2 == 0
  ((ms.filter known).map (fun x => x.2), (ms.filter (fun x => !known x && !empty x)).length)

/-- The nanoseconds that a flit takes from the receive connector plane to the end of flit parsing (Table 8-6). -/
def rxPath : Nat := 22

/-- The local time counter when the first symbol of the codeword that is decoded now crossed the connector plane (R216). -/
def State.rxStamp (s : State) : W64 := if s.counterState = 0 then BitVec.ofNat 64 noTime else BitVec.ofNat 64 (s.clock - rxPath)

/-- A received flit goes where its kind sends it (R201). -/
def State.takeFlit (p : Nat) (s : State) (f : Flit) : State :=
  let s := if f.kind = 2 then
      let bs := lineBytes f.data
      if crc16 (bs.take 62) = bigNum (bs.drop 62) then
        let (ms, bad) := lcMessages f.data
        let s := s.updPort p (fun q => { q with lcIn := q.lcIn ++ ms })
        if bad = 0 then s else (s.bump (rHdrErr p) bad).orBits (rLkStatus p) lsHdrErr
      else s.lkCount p (rHdrErr p) lsHdrErr
    else if f.kind = 3 then s.updPort p (fun q => { q with calIn := q.calIn ++ [(f.data, s.rxStamp)] })
    else s
  if s.train p ≠ trUp then s
  else
    s.updPort p (fun q =>
      if f.kind = 1 then { q with rx := q.rx ++ [⟨1, 0, f.data⟩] }
      else if (q.rx.getLast?.map (fun x => x.kind)) = some 0 then q
      else { q with rx := q.rx ++ [⟨0, 0, 0⟩] })

/-- The codewords over which LK_BER is formed. -/
def berSpan : Nat := 1000000000

/-- LK_BER for `errs` symbols corrected in the last 10^9 codewords: the ratio to three digits, rounded up or down as the part does; no error has no ratio of the register's form (Table 8-14). -/
def berWord (errs : Nat) : Nat :=
  if errs = 0 then bitsAt Config.berNone.toNat 16 8 * 2 ^ 16 + bitsAt Config.berNone.toNat 0 10
  else
    let all := 272 * berSpan
    let e := ((List.range 16).find? (fun e => decide (100 * all ≤ errs * 10 ^ e))).getD 15
    let m := errs * 10 ^ e / all + (if errs * 10 ^ e % all = 0 then 0 else b2n (Config.berUp errs))
    if m = 1000 then (e - 1) * 2 ^ 16 + 100 else e * 2 ^ 16 + m

/-- A decoded codeword with `errs` corrected symbols counts for LK_BER (R213). -/
def State.ber (s : State) (p errs : Nat) : State :=
  let q := s.port p
  let k := q.berCount + 1
  let es := (q.berErrs ++ (if errs = 0 then [] else [(k, errs)])).filter (fun e => decide (k < e.1 + berSpan))
  let s := s.setPort p { q with berCount := k, berErrs := es }
  s.set (LK p 0x58) (if k < berSpan then 0 else 2 ^ 31 + berWord (es.foldl (fun a e => a + e.2) 0))

/-- Symbol `f` of a lane position: while there is a parity fibre, the sum of the other fibres' in place of that of the one data fibre that is not live (R210). -/
def State.laneSymbol (s : State) (p : Nat) (lost : List Nat) (col : List Nat) (f : Nat) : Nat :=
  if s.bit (rLkState p) lkParity ∧ lost = [f] ∧ f < 12 then ((List.range 13).filter (fun g => g != f)).foldl (fun a g => a ^^^ col.getD g 0) 0
  else col.getD f 0

/-- The symbols of codeword `k` of a period over lanes on the fibres `fs`, out of the lane positions from its first one on (R203). -/
def State.unstripe (s : State) (p : Nat) (fs : List Nat) (k : Nat) (cols : List (List Nat)) : List Nat :=
  let L := fs.length
  let p0 := 272 * k / L
  let lost := (List.range 13).filter (fun f => !bitAt (s.lockMask p) f)
  (List.range 272).map (fun j => let g := 272 * k + j
    s.laneSymbol p lost (cols.getD (g / L - p0) []) (fs.getD (g % L) 0))

/-- The lane positions that hold codeword `k` on `L` lanes. -/
def colsOf (L k : Nat) : Nat := (272 * k + 271) / L - 272 * k / L + 1

/-- At the start of a period, with a map asked for: a codeword that decodes under that map only shows that the period runs on it (R208). -/
def State.tryMap (s : State) (p : Nat) (cols : List (List Nat)) : State :=
  match (s.port p).mapWant with
  | some (mask, gen) =>
    let fs := laneFibres mask
    if s.train p = trUp ∧ (s.port p).rxCw = 0 ∧ colsOf fs.length 0 ≤ cols.length ∧ (rsFix (s.unstripe p (s.rxFibres p) 0 cols)).isNone
        ∧ (rsFix ((s.setField (rLkState p) lkParity 1 0).unstripe p fs 0 cols)).isSome then s.takeMap p mask gen else s
  | none => s

/-- A codeword that decodes: its flits (R200 to R202). -/
def State.decoded (s : State) (p : Nat) (good : List Nat) (errs : Nat) : State :=
  let (x, hist) := descramble (s.port p).rxHist (symsNum (good.take 257))
  let s := ((s.bump (rCeSym p) errs).ber p errs).updPort p (fun q => { q with rxHist := hist, decodes := true })
  (((payloadFlits x).foldl (State.takeFlit p) s).tryIdent p).absorb p

/-- An uncorrectable codeword: five lost flits (Table 8-12). -/
def State.uncorrectable (s : State) (p : Nat) (syms : List Nat) : State :=
  let (_, hist) := descramble (s.port p).rxHist (symsNum (syms.take 257))
  let s := (s.lkCount p (rUcw p) lsUcw).updPort p (fun q =>
    { q with rxHist := hist, rx := if s.train p = trUp then q.rx ++ List.replicate 5 ⟨2, 0, 0⟩ else q.rx })
  s.absorb p

/-- `CODEWORD` (R200 to R203, R208 to R210, R213, R214, Table 8-12): the deskewed lane positions that hold the next codeword of the period, the first of them the one its symbol 0 stands in, each
as the symbols of the 13 fibres. -/
def effCodeword (p : Nat) (cols : List (List Nat)) (s : State) : State :=
  if !s.linkOn p then s
  else
    let s := s.tryMap p cols
    let fs := s.rxFibres p
    let k := (s.port p).rxCw
    if cols.length < colsOf fs.length k then s
    else
      let syms := s.unstripe p fs k cols
      let s := (s.bump64 (rCwCnt p) 1).updPort p (fun q => { q with rxCw := (k + 1) % (if fs.length = 11 then 16379 else 16383) })
      match rsFix syms with
      | none => s.uncorrectable p syms
      | some (good, errs) => s.decoded p good errs

/-! Link-control messages. -/

/-- The message at the front of the received ones, when it has the given kind. -/
def State.lcFront (s : State) (p kind : Nat) : Option LcMsg := ((s.port p).lcIn.head?).filter (fun m => lcKind m == kind)

/-- The front message is done with. -/
def State.lcPop (s : State) (p : Nat) : State := s.updPort p (fun q => { q with lcIn := q.lcIn.drop 1 })

/-- An acknowledgement that the transmitter ignores (09 R255, R261). -/
def State.ackViol (s : State) (p : Nat) : State := (s.bump (rAckViol p) 1).orBits (rPeerStatus p) psAckViol

/-- ACK `a` of channel `vc` (R214, R261): it covers packets sent and not yet acknowledged, or repeats the last acknowledgement. A packet that the framer still has stays until it has gone. -/
def State.acked (s : State) (p vc a : Nat) : State :=
  let q := s.port p
  let c := q.chan vc
  let k := (a + 65536 - c.oldest) % 65536
  let covered := fun (x : TxPkt) => decide ((x.seq + 65536 - c.oldest) % 65536 ≤ k)
  let busy := fun (x : TxPkt) => q.fram.any (fun f => f.id == x.id)
  if k < c.unacked ∧ c.replay.all (fun x => !covered x || x.sentAt.isSome || x.replayedAt.isSome) = true then
    s.updChan p vc (fun c => { c with oldest := (a + 1) % 65536, acked := true, replay := c.replay.filter (fun x => !covered x || busy x) })
  else if k = 65535 ∧ c.acked = true then s
  else s.ackViol p

/-- The partner's off state of channel `vc` (R225). -/
def State.offState (s : State) (p vc : Nat) (off : Bool) : State :=
  let was := s.bit (rLkState p) (lkOffRx vc)
  if off && !was then
    ((s.setField (rLkState p) (lkOffRx vc) 1 1).lkCount p (rOffRx p) lsOff).updChan p vc (fun c => { c with offSince := some s.now, offNoted := false })
  else if !off && was then
    (s.setField (rLkState p) (lkOffRx vc) 1 0).updChan p vc (fun c => { c with offSince := none, offNoted := false })
  else s

/-- `STATUS` (R214, R225, R261). -/
def effStatus (p : Nat) (s : State) : State :=
  match s.lcFront p 1 with
  | none => s
  | some m =>
    let m := m.toNat
    let s := s.lcPop p
    let s := if s.train p = trIdent ∧ (s.port p).idOk = true ∧ bitAt m 17 then s.enterUp p else s
    if s.train p ≠ trUp then s
    else
      let s := if bitAt m 23 then s.acked p 0 (bitsAt m 40 16) else s
      let s := if bitAt m 22 then s.acked p 1 (bitsAt m 24 16) else s
      (s.offState p 0 (bitAt m 21)).offState p 1 (bitAt m 20)

/-- A NAK names number `n` of channel `vc` (R229, 09 R255). -/
def State.nakOne (p vc : Nat) (s : State) (n : Nat) : State :=
  let c := (s.port p).chan vc
  let k := (n + 65536 - c.oldest) % 65536
  if 16384 ≤ k ∧ k < 49152 then s.lkCount p (rSeqViol p) lsSeqViol
  else
    match c.replay.find? (fun x => x.seq == n) with
    | none => s
    | some x =>
      let recent : Bool := match x.replayedAt with
        | some t => decide (s.now < t + s.field (rReplayTimeout p) 0 16)
        | none => false
      if recent then s
      else if x.abandoned then
        ((s.bump (rReplay p) 1).lcQueue p (lcAbandon vc n)).updChan p vc (fun c =>
          { c with replay := c.replay.map (fun y => if y.seq = n then { y with replayedAt := some s.now } else y) })
      else s.updChan p vc (fun c => { c with replay := c.replay.map (fun y => if y.seq = n then { y with marked := true } else y) })

/-- `NAK` (R229). HELD answers none. -/
def effNak (p : Nat) (s : State) : State :=
  match s.lcFront p 2 with
  | none => s
  | some m =>
    let s := s.lcPop p
    if s.train p ≠ trUp then s
    else (List.range (bitsAt m.toNat 34 5 + 1)).foldl (fun s i => State.nakOne p (bitsAt m.toNat 55 1) s ((bitsAt m.toNat 39 16 + i) % 65536)) s

/-! Regular entries (09 R237, R238). -/

/-- Rank `r` has a valid rank-table entry (09 R234). -/
def State.rankAddr (s : State) (r : Nat) : Option Nat :=
  match s.loader.plan with
  | some pl => let e := smapGet (fun _ => 0) pl.ranks r; if bitAt e 31 then some (bitsAt e 0 16) else none
  | none => none

/-- The entry that a header serves: by its number, or as a leap packet by its route (09 R237). -/
def State.entryFor (s : State) (p h : Nat) : Option (Nat × Bool) :=
  let vc := hdrVc h
  let q := s.port p
  let arr := s.arrivals p vc
  let k := (hdrSeq h + 65536 - (q.chan vc).base) % 65536
  if k < arr.length then (if (arr.map (fun a => a.route))[k]? = some (hdrRoute h) then some (k, false) else none)
  else ((List.range arr.length).find? (fun i => (arr.map (fun a => a.route))[i]? == some (hdrRoute h)
      && ((q.entry vc i).failed || (q.entry vc i).hdr.isNone))).map (fun i => (i, true))

/-- The first of the checks of 09 Table 9-3 that a header fails; 0 for none. -/
def State.peerCheck (s : State) (p h : Nat) : Nat :=
  let e := s.optRoute (hdrRoute h)
  let sr := bitsAt h 80 16
  let dr := bitsAt h 64 16
  if (s.rankAddr dr).isNone then 1
  else if !orValid e || orRole e == 1 || orRole e == 0 || orIn e != p || orVc e != hdrVc h || orSrank e != sr || orDrank e != dr then 2
  else if orRole e == 3 && bitsAt h 120 8 == 1 && (orDvt e != bitsAt h 53 11 || orDq e != bitsAt h 47 6) then 3
  else if !s.frame.running || bitsAt h 27 8 != s.frameNo % 256 then 4
  else if (s.entryFor p h).isNone then 5
  else 0

/-- `ABANDON` (09 R255). -/
def effAbandon (p : Nat) (s : State) : State :=
  match s.lcFront p 4 with
  | none => s
  | some m =>
    let s := s.lcPop p
    let vc := bitsAt m.toNat 55 1
    let n := bitsAt m.toNat 39 16
    let c := (s.port p).chan vc
    let d := (n + 65536 - c.e) % 65536
    if s.train p ≠ trUp then s
    else if 49152 ≤ d then s
    else if 16384 ≤ d ∨ (ssetHas c.ahead n ∧ ssetHas c.gone n = false) then s.ackViol p
    else
      let s := s.updChan p vc (fun c =>
        { ({ c with gone := ssetSet c.gone n true }).settle n with conf := true, held := c.held.filter (fun x => !(x.state == .failed && hdrSeq x.header == n)) })
      let s := s.updPort p (fun q => match q.cur with
        | some k => if hdrVc k.header = vc ∧ hdrSeq k.header = n then { q with cur := some { k with discard := true } } else q
        | none => q)
      let s := (s.bump (rAbandonRx p) 1).orBits (rPeerStatus p) psAbandonRx
      let k := (n + 65536 - c.base) % 65536
      if k < (s.arrivals p vc).length then s.entryFails p vc k false else s

/-- `LANE` (R208): the transmitter will use the derived map from its next period. -/
def effLane (p : Nat) (s : State) : State :=
  match s.lcFront p 6 with
  | none => s
  | some m =>
    let s := s.lcPop p
    let mask := bitsAt m.toNat 43 13
    if s.linkOn p ∧ 11 ≤ (fibresOf mask).length ∧ (s.port p).txGen ≠ bitsAt m.toNat 41 2 then
      s.updPort p (fun q => { q with txWant := some (mask, bitsAt m.toNat 41 2) })
    else s

/-! The partner's identity (09 R259). -/

/-- The first condition that the latched identity fails; 0 for none. -/
def State.idReason (s : State) (p : Nat) : Nat :=
  let plan := s.get64 rPlanId
  if s.get64 (rPeerPlan p) ≠ plan then 1
  else if plan = 0 then 0
  else
    match s.loader.plan.bind (fun pl => pl.ports[p]?) with
    | none => 2
    | some m =>
      let r := s.field (rPeerRank p) 0 16
      if r ≠ m.partner ∨ (s.rankAddr r).isNone then 2
      else if s.rankAddr r ≠ some (s.field (rPeerAddr p) 0 16) then 3
      else if s.field (rPeerRank p) 16 4 ≠ m.partnerPort then 4
      else 0

/-- With both messages, the port accepts the identity or enters HELD. -/
def State.identCheck (s : State) (p : Nat) : State :=
  if s.train p ≠ trIdent ∨ (s.port p).idGot ≠ 3 ∨ (s.port p).idOk = true then s
  else
    let r := s.idReason p
    if r = 0 then (s.setField (rPeerStatus p) 28 3 0).updPort p (fun q => { q with idOk := true })
    else (s.idRefused p r).setTrain p trHeld

/-- The port latches identities while it trains and while it is held. -/
def State.latching (s : State) (p : Nat) : Bool := s.train p == trIdent || s.train p == trHeld

/-- `IDENT0` (R259). -/
def effIdent0 (p : Nat) (s : State) : State :=
  match s.lcFront p 7 with
  | none => s
  | some m =>
    let s := s.lcPop p
    let m := m.toNat
    if s.latching p then
      let s := (s.set (rPeerAddr p) (2 ^ 31 + bitsAt m 40 16)).setField (rPeerRank p) 0 16 (bitsAt m 24 16)
      let s := s.set64 (rPeerPlan p) (s.get64 (rPeerPlan p) % 2 ^ 40 + bitsAt m 0 24 * 2 ^ 40)
      (s.updPort p (fun q => { q with idGot := q.idGot ||| 1 })).identCheck p
    else s

/-- `IDENT1` (R259). -/
def effIdent1 (p : Nat) (s : State) : State :=
  match s.lcFront p 8 with
  | none => s
  | some m =>
    let s := s.lcPop p
    let m := m.toNat
    if s.latching p then
      let s := s.setField (rPeerRank p) 16 4 (bitsAt m 12 4)
      let s := s.set64 (rPeerPlan p) (s.get64 (rPeerPlan p) / 2 ^ 40 * 2 ^ 40 + bitsAt m 16 40)
      (s.updPort p (fun q => { q with idGot := q.idGot ||| 2 })).identCheck p
    else s

/-! Headers. -/

/-- The next `n` bytes of the stream, idle and link-control flits skipped; none while they are not there. -/
def takeBytes : Nat → Nat → List RxFlit → List Byte → Option (List Byte × List RxFlit)
  | 0, _, _, _ => none
  | fuel + 1, n, rx, acc =>
    if n = 0 then some (acc, rx)
    else match rx with
      | [] => none
      | f :: rest =>
        if f.kind = 0 then takeBytes fuel n rest acc
        else if f.kind = 2 then none
        else
          let k := if n < 64 - f.used then n else 64 - f.used
          let bs := ((lineBytes f.data).drop f.used).take k
          takeBytes fuel (n - k) (if f.used + k = 64 then rest else { f with used := f.used + k } :: rest) (acc ++ bs)

/-- The header's CRC-16 passes. -/
def hdrGood (bs : List Byte) : Bool := crc16 (bs.take 14) == bigNum (bs.drop 14)

/-- The types of Table 8-11. -/
def typeKnown (h : Nat) : Bool := [1, 2, 3, 4].contains (hdrType h)

/-- The number lies within 16 of the channel's next expected one. -/
def Port.near (q : Port) (h : Nat) : Bool :=
  let d := (hdrSeq h + 65536 - (q.chan (hdrVc h)).e) % 65536
  decide (d ≤ 16) || decide (65520 ≤ d)

/-- Looks for the next header (R220, R221): the port with what it has passed over, the header found, and whether a header's CRC-16 has failed. -/
def Port.scan : Nat → Port → Port × Option Nat × Bool
  | 0, q => (q, none, false)
  | n + 1, q =>
    match q.rx with
    | [] => (q, none, false)
    | f :: rest =>
      let skip8 : Port := { q with rx := if 64 ≤ f.used + 8 then rest else { f with used := f.used + 8 } :: rest, gapSeen := false }
      if f.kind = 0 then Port.scan n { q with rx := rest, gapSeen := true }
      else if f.kind = 2 then Port.scan n { q with rx := q.rx.drop 5, hunting := true, gapSeen := false }
      else
        let first := bitsAt f.data.toNat (8 * f.used) 8
        let placed := !q.hunting || (q.gapSeen && f.used == 0)
        if placed && first == 0 then Port.scan n { q with rx := rest, gapSeen := false }
        else
          match takeBytes (q.rx.length + 1) 16 q.rx [] with
          | none =>
            if q.rx.any (fun x => x.kind == 2) then Port.scan n { q with rx := q.rx.dropWhile (fun x => x.kind != 2), gapSeen := false }
            else (q, none, false)
          | some (bs, rx) =>
            let h := bigNum bs
            if placed then
              (if hdrGood bs then ({ q with rx := rx, gapSeen := false }, some h, false)
               else ({ skip8 with hunting := true }, none, true))
            else if hdrGood bs && typeKnown h && q.near h then ({ q with rx := rx, gapSeen := false }, some h, false)
            else Port.scan n skip8

/-- The receiver knows a packet's header: classes, checks and the entry it serves (Table 8-13, R227, R228, 09 R237, R238). -/
def State.takeHeader (s : State) (p h : Nat) (marks : List Nat) : State :=
  let vc := hdrVc h
  let n := hdrSeq h
  let c := (s.port p).chan vc
  let d := (n + 65536 - c.e) % 65536
  let bad := !typeKnown h || bitsAt h 16 11 != 0
  let k : RxPkt := ⟨h, marks.filter (· < hdrLen h), [], .arriving, false, bad, false, false, 0, none, false⟩
  let cur := fun (s : State) (k : RxPkt) => s.updPort p (fun q => { q with cur := some k })
  let s := if bad then s.lkCount p (rHdrErr p) lsHdrErr else s
  if 49152 ≤ d then cur (s.bump (rDup p) 1) { k with discard := true }
  else if 16384 ≤ d then cur (s.lkCount p (rSeqViol p) lsSeqViol) { k with discard := true }
  else
    let gaps := ((List.range d).map (fun i => (c.e + i) % 65536)).filter (fun m => !ssetHas c.ahead m && !ssetHas c.naked m)
    let s := (s.nakAll p vc gaps).updChan p vc (fun c => { c with naked := ssetSet c.naked n true })
    let chk := s.peerCheck p h
    if chk = 0 then
      match s.entryFor p h with
      | some (i, leap) => cur (s.updEntry p vc i (fun e => { e with hdr := some h })) { k with entry := some i, leap := leap }
      | none => cur s k
    else
      let s := if chk = 1 then (s.bump (rDropDest p) 1).orBits (rPeerStatus p) psDropDest
        else (s.bump (rDropSrc p) 1).orBits (rPeerStatus p) psDropSrc
      cur (s.recordSub 0x0408 uPort p (chk + hdrRoute h * 2 ^ 16) chk) { k with dropped := true }

/-- `PACKET_HEADER` (R220, R221): the receiver finds the next header of its stream. `marks` are the lines of the packet that carry the poison marker (06 R149). -/
def effPacketHeader (p : Nat) (marks : List Nat) (s : State) : State :=
  let q := s.port p
  if 16 ≤ p ∨ s.train p ≠ trUp ∨ q.cur.isSome then s
  else
    let (q2, found, err) := Port.scan (9 * q.rx.length + 9) q
    let s := s.setPort p { q2 with hunting := q2.hunting && found.isNone }
    let s := if q2.hunting && !q.hunting then s.orBits (rLkStatus p) lsHunt else s
    let s := if err then s.lkCount p (rHdrErr p) lsHdrErr else s
    match found with
    | none => s
    | some h =>
      let s := if q2.hunting then
          let s := s.bump (rHunt p) 1
          (s.nakAll p 0 [(q2.chan 0).e]).nakAll p 1 [(q2.chan 1).e]
        else s
      (s.takeHeader p h marks).absorb p

/-- The lines of a packet's bytes, when all of them are there. -/
def linesOf : Nat → List Byte → List LineBits
  | 0, _ => []
  | k + 1, bs => bytesLine (bs.take 64) :: linesOf k (bs.drop 64)

/-- The payload of a complete packet. -/
def RxPkt.payload (k : RxPkt) : List LineBits := linesOf (bitsAt k.header 112 7 + 1) (k.body.map (fun b => b.getD 0))

/-- The trailer as it was received. -/
def RxPkt.trailer (k : RxPkt) : Option Nat :=
  let bs := k.body.drop (k.extent - 8)
  if bs.all (fun b => b.isSome) then some (bigNum (bs.map (fun b => b.getD 0))) else none

/-- The packet's trailer confirms it (Table 8-12). -/
def RxPkt.sound (k : RxPkt) : Bool :=
  !k.bad && k.body.all (fun b => b.isSome) && k.trailer == some (packetCrc k.header k.payload)

/-- A packet of entry `i` is confirmed (R222): its cut-through copy ends as it did. -/
def State.entryConfirmed (s : State) (p vc i : Nat) (k : RxPkt) : State :=
  let s := s.updEntry p vc i (fun e => { e with confirmed := true, failed := false, trailer := k.trailer })
  if k.leap then s else s.forwardClose p vc i (k.trailer.getD 0)

/-- `PACKET_TRAILER` (R222, R226, R228): the packet whose last byte has come is confirmed, or fails; its lines stand in the ingress queue, marked, until the outcome has been told. -/
def effPacketTrailer (p : Nat) (s : State) : State :=
  match (s.port p).cur with
  | none => s
  | some k =>
    if k.body.length < k.extent ∨ s.train p ≠ trUp then s
    else
      let vc := hdrVc k.header
      let n := hdrSeq k.header
      let s := s.updPort p (fun q => { q with cur := none })
      let keep := fun (c : Chan) (st : RxState) => if k.dropped then c.held else c.held ++ [{ k with state := st }]
      let s := if k.discard || k.overflow then s
        else if k.sound then
          let s := s.updChan p vc (fun c => { c.settle n with conf := true, held := keep c .confirmed })
          match k.entry with
          | some i => s.entryConfirmed p vc i k
          | none => s
        else
          let told : Bool := match k.entry with
            | some i => ((s.port p).entry vc i).notice != .none
            | none => true
          let s := (s.nakAll p vc [n]).updChan p vc (fun c => { c with held := if told then c.held else keep c .failed })
          match k.entry with
          | some i => (s.updEntry p vc i (fun e => if e.confirmed then e else { e with trailer := k.trailer })).entryFails p vc i k.leap
          | none => s
      (s.flow p 0).flow p 1

/-! The meanings of the rows of this family. -/

/-- `PORT_ENABLE` (R206). -/
def execPortEnable (p : Nat) (a : Agent) (on : Bool) (s : State) : Host.Outcome State Fault Refusal := .next (effPortEnable p a on s)

/-- `FIBRE_CLOCK_LOCK` (R206). -/
def execFibreClockLock (p mask : Nat) (s : State) : Host.Outcome State Fault Refusal := .next (effFibreClockLock p mask s)

/-- `SIGNAL_TIMEOUT` (R206). -/
def execSignalTimeout (p : Nat) (s : State) : Host.Outcome State Fault Refusal := .next (effSignalTimeout p s)

/-- `ALIGN_TIMEOUT` (R206). -/
def execAlignTimeout (p : Nat) (s : State) : Host.Outcome State Fault Refusal := .next (effAlignTimeout p s)

/-- `IDENT_TIMEOUT` (R206). -/
def execIdentTimeout (p : Nat) (s : State) : Host.Outcome State Fault Refusal := .next (effIdentTimeout p s)

/-- `ALIGNMENT_MARKER` (R207). -/
def execAlignmentMarker (p f : Nat) (w : MarkerAt) (s : State) : Host.Outcome State Fault Refusal := .next (effAlignmentMarker p f w.pos w.syms s)

/-- `CODEWORD` (R200). -/
def execCodeword (p : Nat) (cols : List (List Nat)) (s : State) : Host.Outcome State Fault Refusal := .next (effCodeword p cols s)

/-- `LOSS_OF_SIGNAL` (R210). -/
def execLossOfSignal (p f : Nat) (s : State) : Host.Outcome State Fault Refusal := .next (effLossOfSignal p f s)

/-- `FEED_LOSS` (R199). -/
def execFeedLoss (p : Nat) (second : Bool) (s : State) : Host.Outcome State Fault Refusal := .next (effFeedLoss p second s)

/-- `STATUS` (R214). -/
def execStatus (p : Nat) (s : State) : Host.Outcome State Fault Refusal := .next (effStatus p s)

/-- `NAK` (R229). -/
def execNak (p : Nat) (s : State) : Host.Outcome State Fault Refusal := .next (effNak p s)

/-- `ABANDON` (R255). -/
def execAbandon (p : Nat) (s : State) : Host.Outcome State Fault Refusal := .next (effAbandon p s)

/-- `LANE` (R208). -/
def execLane (p : Nat) (s : State) : Host.Outcome State Fault Refusal := .next (effLane p s)

/-- `IDENT0` (R259). -/
def execIdent0 (p : Nat) (s : State) : Host.Outcome State Fault Refusal := .next (effIdent0 p s)

/-- `IDENT1` (R259). -/
def execIdent1 (p : Nat) (s : State) : Host.Outcome State Fault Refusal := .next (effIdent1 p s)

/-- `PACKET_HEADER` (R221). -/
def execPacketHeader (w : HeaderAt) (s : State) : Host.Outcome State Fault Refusal := .next (effPacketHeader w.port w.marks s)

/-- `PACKET_TRAILER` (R222). -/
def execPacketTrailer (p : Nat) (s : State) : Host.Outcome State Fault Refusal := .next (effPacketTrailer p s)

end Sys2Proof.Machine
end

