-- ==== Sys2Proof/Machine/LinkTx.lean ====
section
/-! DEFINITION. The transmitting half of the optical link (08 R215, R220, R225, R227, R229, 09 R255, R256): the framer and its codeword slots, packets, replays, the vigil on a
partner's off state, and the transmitter's masques (14 Table 14-7). -/

namespace Sys2Proof.Machine

/-! The framer (08 R215, R216, R220, R225). -/

/-- The nanoseconds from the framer to the transmit connector plane (Table 8-6). -/
def txPath : Nat := 10

/-- The calends-marker flit that port `p` frames now (Table 8-10), and what the port keeps of it. The echo of a marker that came before the counter was set anew forms no exchange. -/
def State.calNext (s : State) (p : Nat) : State × Flit :=
  let q := s.port p
  let now := if s.counterState = 0 then noTime else s.clock + txPath
  let tx := (q.lastTx.map (fun x => x.toNat)).getD noTime
  let rx := if q.lastTx.isSome then q.lastRx.toNat else noTime
  let bs := bigBytes 8 now ++ bigBytes 2 q.cseq ++ bigBytes 8 tx ++ bigBytes 8 rx ++ List.replicate 36 0
  let m : SentMark := ⟨BitVec.ofNat 64 now, BitVec.ofNat 64 tx, BitVec.ofNat 64 (if q.stale then noTime else rx)⟩
  (s.updPort p (fun q => { q with cseq := (q.cseq + 1) % 65536, marks := m :: q.marks.take 15, calAsk := false }), ⟨3, bytesLine (bs ++ bigBytes 2 (crc16 bs))⟩)

/-- The bytes of a packet on the link as far as they are known: its header with SEQ and HCRC, its lines, its trailer. -/
def TxPkt.wire (x : TxPkt) (bad : Bool) : List Byte :=
  let h := bigBytes 14 ((setBitsAt x.header 96 16 x.seq) / 65536)
  h ++ bigBytes 2 (crc16 h) ++ (x.lines.map lineBytes).flatten
    ++ (match x.crc with
      | some crc => if x.lines.length = hdrLen x.header then bigBytes 8 (if bad then crc ^^^ 1 else crc) else []
      | none => [])

/-- The packet of a framing. -/
def Port.framed (q : Port) (f : Framing) : Option TxPkt := (q.chan f.vc).replay.find? (fun x => x.id == f.id)

/-- The last byte of a packet is framed: its transmission ends; an acknowledgement that has come in between releases it. -/
def State.framedAll (s : State) (p : Nat) (f : Framing) : State :=
  (s.updPort p (fun q => { q with fram := q.fram.drop 1 })).updChan p f.vc (fun c =>
    let c := c.updTx f.id (fun x => { x with sentAt := some s.now })
    { c with replay := c.replay.filter (fun x => x.id != f.id || decide ((x.seq + 65536 - c.oldest) % 65536 < c.unacked)) })

/-- Something other than a packet waits for a position between packets. -/
def Port.asks (q : Port) : Bool := q.lcNow || q.lcAsk || q.calAsk

/-- Fills up to `room` bytes of a data flit: the packet in progress goes on, and the next one starts right behind its trailer where nothing else waits for the position (R220). A packet whose
bytes have not all come yields nothing (09 R253), and neither does one whose channel the partner has off (R225). The flag says that a masque corrupts the codeword. -/
def State.fill (p : Nat) : Nat → Nat → State → List Byte → Bool → State × List Byte × Bool
  | 0, _, s, acc, bad => (s, acc, bad)
  | n + 1, room, s, acc, bad =>
    let q := s.port p
    match q.fram with
    | [] => (s, acc, bad)
    | f :: rest =>
      match q.framed f with
      | none => State.fill p n room (s.updPort p (fun q => { q with fram := rest })) acc bad
      | some x =>
        let left := x.size - f.sent
        let need := if left < room then left else room
        let bs := ((x.wire f.badCrc).drop f.sent).take need
        let stops := s.bit (rLkState p) (lkOffRx f.vc) || (f.sent == 0 && (q.asks || s.train p != trUp)) || bs.length != need
        if stops then (s, acc, bad)
        else
          let bad := bad || (match f.badAt with
            | some b => decide (f.sent ≤ b) && decide (b < f.sent + need)
            | none => false)
          if need = left then State.fill p n (room - need) (s.framedAll p f) (acc ++ bs) bad
          else (s.updPort p (fun q => { q with fram := { f with sent := f.sent + need } :: rest }), acc ++ bs, bad)

/-- The next flit of port `p` (R215, R220, R225): a change of an off state at once; a packet's data; between packets what is asked for, link-control messages that wait, or nothing. -/
def State.nextFlit (s : State) (p : Nat) : State × Flit × Bool :=
  if (s.port p).lcNow then let (s, f) := s.lcNext p; (s, f, false)
  else
    let (s, bs, bad) := State.fill p (4 + (s.port p).fram.length) 64 s [] false
    if !bs.isEmpty then (s, ⟨1, bytesLine (bs ++ List.replicate (64 - bs.length) 0)⟩, bad)
    else
      let q := s.port p
      let inside : Bool := match q.fram with
        | f :: _ => decide (0 < f.sent)
        | [] => false
      if inside then (s, ⟨0, 0⟩, false)
      else if q.lcAsk then let (s, f) := s.lcNext p; (s, f, false)
      else if q.calAsk then let (s, f) := s.calNext p; (s, f, false)
      else if s.train p = trUp ∧ q.lcOut ≠ [] then let (s, f) := s.lcNext p; (s, f, false)
      else (s, ⟨0, 0⟩, false)

/-- Five flits of a codeword. -/
def State.nextFlits (p : Nat) : Nat → State → State × List Flit × Bool
  | 0, s => (s, [], false)
  | k + 1, s =>
    let (s, f, b) := s.nextFlit p
    let (s, fs, c) := State.nextFlits p k s
    (s, f :: fs, b || c)

/-- One codeword slot of port `p` (R203): the codewords of a period follow one another, and its markers close it. -/
def State.codewordSlot (s : State) (p : Nat) : State :=
  if periodCodewords (s.port p).txMask ≤ (s.port p).txCw then s.closePeriod p
  else
    let (s, fs, bad) := State.nextFlits p 5 s
    s.sendCodeword p bad fs

/-- The codeword slots that begin in the present nanosecond: with 12 lanes 15 of 16 (937.5 · 10^6 in a second), with 11 lanes 55 of 64. -/
def State.frameSlot (s : State) (p : Nat) : State :=
  let r := 5 * laneCount (s.port p).txMask
  if s.linkOn p ∧ s.now * r / 64 ≠ (s.now + 1) * r / 64 then s.codewordSlot p else s

/-- `LINK_CONTROL_SEND` (R215): a reserved or free position between packets. -/
def effLinkControlSend (p : Nat) (s : State) : State := if s.linkOn p then s.updPort p (fun q => { q with lcAsk := true }) else s

/-! Packets. -/

/-- The replay buffer's limit, 768 KiB, and the window of sequence numbers (R227). -/
def replayBuffer : Nat := 768 * 1024
def seqWindow : Nat := 16384

/-- The bytes that the replay buffer holds. -/
def Port.replayBytes (q : Port) : Nat := ((q.chan 0).replay ++ (q.chan 1).replay).foldl (fun a k => a + k.size) 0

/-- The running frame is in the leap window of the link direction that leaves port `p` (01 R20). -/
def State.inLeap (s : State) (p : Nat) : Bool := match s.shapeNow with
  | some sh => !s.frame.committed && decide ((sh.link p).leap ≤ s.slotBy) && decide (s.slotBy < (sh.link p).stop)
  | none => false

/-- The packets that the plan allows in a leap window of port `p`'s link (01 R27). -/
def State.leapBudget (s : State) (p : Nat) : Nat := match s.loader.plan.bind (fun pl => pl.ports[p]?) with
  | some m => m.replays
  | none => 0

/-- A packet goes out in the leap window: the frame is unclean, and one beyond the link's leap budget marks the frame and stays (01 R27, R28, Table 1-7). -/
def State.leapSend (s : State) (p : Nat) (f : State → State) : State :=
  if s.inLeap p = false then s
  else if s.leapBudget p ≤ (s.port p).leapUsed then s.frameBit fbLeap
  else f ((s.frameBit fbReplay).updPort p (fun q => { q with leapUsed := q.leapUsed + 1 }))

/-- A masque of the given kind that acts on a regular packet that port `p` sends now. -/
def State.txMasque (s : State) (p kind : Nat) : Option Masque := if s.inLeap p then none else s.masqueOf kind (uPort * 4096 + p)

/-- Fires the masque, if there is one. -/
def State.fireOpt (s : State) (m : Option Masque) : State := match m with
  | some m => s.masqueFire m
  | none => s

/-- The framer takes packet `x` of channel `vc`; the marks of its lines go with it. -/
def State.toFramer (s : State) (p vc : Nat) (x : TxPkt) (badCrc badCw : Bool) : State :=
  let s := s.updPort p (fun q => { q with fram := q.fram ++ [⟨vc, x.id, 0, badCrc, if badCw then some 79 else none⟩] })
  if x.marks = [] then s else s.emit (.marks p vc x.seq x.marks)

/-- The first packet `x` of the egress queue of channel `vc` takes the channel's next number and goes out; the replay buffer holds it. -/
def State.transmit (s : State) (p vc : Nat) (x : TxPkt) : State :=
  let drop := if hdrType x.header = 1 ∧ x.abandoned = false ∧ x.leap = false then s.txMasque p 0x12 else none
  let crcM := if x.leap then none else s.txMasque p 0x01
  let cwM := if 2 ≤ hdrLen x.header ∧ x.leap = false then s.txMasque p 0x02 else none
  let x := if drop.isSome then x.abandon x.crc else x
  let x := { x with seq := ((s.port p).chan vc).next, order := (s.port p).txOrder }
  let s := s.updChan p vc (fun c => { c with egress := c.egress.drop 1, next := (c.next + 1) % 65536, replay := c.replay ++ [x] })
  let s := (s.updPort p (fun q => { q with txOrder := q.txOrder + 1 })).toFramer p vc x crcM.isSome cwM.isSome
  let s := ((s.fireOpt drop).fireOpt crcM).fireOpt cwM
  if x.abandoned then (s.bump (rAbandonTx p) 1).lcQueue p (lcAbandon vc x.seq) else s

/-- `PACKET_TRANSMIT` (R220, R225, R227, 09 R254, R256, 01 R30): the first packet of the egress queue of channel `vc` is numbered and handed to the framer, a leap copy in the link's leap
window only and none in an intercalary frame; or it is held back, which is counted once. -/
def effPacketTransmit (p vc : Nat) (s : State) : State :=
  let q := s.port p
  let c := q.chan vc
  match c.egress with
  | [] => s
  | x :: rest =>
    if 16 ≤ p ∨ 2 ≤ vc ∨ s.train p ≠ trUp ∨ s.bit (rLkState p) (lkOffRx vc) ∨ (s.frame.running ∧ s.frame.ical) then s
    else if seqWindow ≤ c.unacked ∨ replayBuffer < q.replayBytes + x.size then
      (if x.noted then s
      else (s.lkCount p (rTxHold p) lsTxHold).updChan p vc (fun c => { c with egress := { x with noted := true } :: rest }))
    else if x.leap then s.leapSend p (fun s => s.transmit p vc x)
    else s.transmit p vc x

/-! Replays (R229). -/

/-- The packets of a channel that no acknowledgement covers. -/
def Chan.waiting (c : Chan) : List TxPkt := c.replay.filter (fun x => decide ((x.seq + 65536 - c.oldest) % 65536 < c.unacked))

/-- `REPLAY_TIMEOUT` (R229, 09 R255): the oldest unacknowledged packet has waited for LK_REPLAY_TIMEOUT since its last transmission ended. -/
def effReplayTimeout (p vc : Nat) (s : State) : State :=
  match ((s.port p).chan vc).waiting with
  | [] => s
  | x :: _ =>
    match x.sentAt with
    | none => s
    | some t =>
      if s.train p ≠ trUp ∨ x.marked = true ∨ s.now < t + s.field (rReplayTimeout p) 0 16 then s
      else if x.abandoned then
        (((s.bump (rReplay p) 1).bump (rTimeout p) 1).lcQueue p (lcAbandon vc x.seq)).updChan p vc (fun c =>
          c.updTx x.id (fun x => { x with sentAt := some s.now, replayedAt := some s.now }))
      else s.updChan p vc (fun c => c.updTx x.id (fun x => { x with marked := true, byTimeout := true }))

/-- The marked packet of channel `vc` that was first sent first. -/
def State.markedOf (s : State) (p vc : Nat) : Option TxPkt :=
  if s.bit (rLkState p) (lkOffRx vc) then none else ((s.port p).chan vc).waiting.find? (fun x => x.marked && x.sentAt.isSome)

/-- Resends packet `x` of channel `vc` under its original number. -/
def State.resend (s : State) (p vc : Nat) (x : TxPkt) : State :=
  let s := s.lkCount p (rReplay p) lsReplay
  let s := if x.byTimeout then s.bump (rTimeout p) 1 else s
  let s := s.updChan p vc (fun c => c.updTx x.id (fun x => { x with marked := false, byTimeout := false, sentAt := none, replayedAt := some s.now }))
  s.toFramer p vc x false false

/-- `PACKET_REPLAY` (R229): in the leap window, the marked packet that was first sent first goes again, alone. -/
def effPacketReplay (p : Nat) (s : State) : State :=
  if 16 ≤ p ∨ s.train p ≠ trUp then s
  else
    match s.markedOf p 0, s.markedOf p 1 with
    | none, none => s
    | some x, none => s.leapSend p (fun s => s.resend p 0 x)
    | none, some y => s.leapSend p (fun s => s.resend p 1 y)
    | some x, some y => s.leapSend p (fun s => if x.order ≤ y.order then s.resend p 0 x else s.resend p 1 y)

/-- `PEER_VIGIL` (09 R260): the partner has held channel `vc` off beyond LK_VIGIL; one record for each episode. -/
def effPeerVigil (p vc : Nat) (s : State) : State :=
  let c := (s.port p).chan vc
  match c.offSince with
  | none => s
  | some t =>
    if c.offNoted = true ∨ s.train p ≠ trUp ∨ s.now < t + s.field (rLkVigil p) 0 24 then s
    else ((s.updChan p vc (fun c => { c with offNoted := true })).orBits (rPeerStatus p) psVigil).record 0x0409 uPort p vc

/-! The meanings of the rows of this family. -/

/-- `LINK_CONTROL_SEND` (R215). -/
def execLinkControlSend (p : Nat) (s : State) : Host.Outcome State Fault Refusal := .next (effLinkControlSend p s)

/-- `PACKET_TRANSMIT` (R220). -/
def execPacketTransmit (p vc : Nat) (s : State) : Host.Outcome State Fault Refusal := .next (effPacketTransmit p vc s)

/-- `REPLAY_TIMEOUT` (R229). -/
def execReplayTimeout (p vc : Nat) (s : State) : Host.Outcome State Fault Refusal := .next (effReplayTimeout p vc s)

/-- `PACKET_REPLAY` (R229). -/
def execPacketReplay (p : Nat) (s : State) : Host.Outcome State Fault Refusal := .next (effPacketReplay p s)

/-- `PEER_VIGIL` (R260). -/
def execPeerVigil (p vc : Nat) (s : State) : Host.Outcome State Fault Refusal := .next (effPeerVigil p vc s)

end Sys2Proof.Machine
end

