-- ==== Sys2Proof/Machine/Eve.lean ====
section
/-! DEFINITION. Delivery of optical packets (09 R239 to R242, R253, R256 to R258; 11 R300; 14 R364, R365): regular deliveries, notices and leap
deliveries, ranges, forwarding, deadlines. Entry `k` of the arrival list of channel `vc` of port `p`; line pair `j`, forwarded line `j`. -/

namespace Sys2Proof.Machine

/-! Entries and their almanac slots. -/

/-- An entry that the running frame expects, with its route-table entry and how far it has come; its role must be `role`. -/
def State.arrival (s : State) (p vc k role : Nat) : Option (ArrEntry × Nat × EntryRun) :=
  if s.meshLive ∧ p < 16 ∧ vc < 2 then
    match (s.arrivals p vc)[k]? with
    | some a => if orRole (s.optRoute a.route) = role then some (a, s.optRoute a.route, (s.port p).entry vc k) else none
    | none => none
  else none

/-- The almanac's slot `t` can still be acted in: it is one of the frame's, and the counter has not passed it (01 R35). -/
def State.slotOpen (s : State) (t : Nat) : Bool := s.meshSlot t && decide (s.slotNow ≤ t + 1)

/-- The slot of a regular entry's LEAP or DEAD notice: it follows the last leap delivery line (R241). -/
def ArrEntry.leapNotice (a : ArrEntry) : Nat := a.leap + (a.len + 1) / 2

/-- The packets in the ingress queue that serve entry `k`. -/
def Port.heldFor (q : Port) (vc k : Nat) : List RxPkt := (q.chan vc).held.filter (fun x => x.entry == some k && !x.bad)

/-- The confirmed packet in the ingress queue that serves entry `k`. -/
def Port.confirmed (q : Port) (vc k : Nat) : Option RxPkt := (q.heldFor vc k).find? (fun x => x.state == .confirmed)

/-- The packet whose lines serve entry `k` in its regular slots: confirmed, failed, or still arriving. -/
def Port.serving (q : Port) (vc k : Nat) : Option RxPkt :=
  match q.confirmed vc k, (q.heldFor vc k).head? with
  | some x, _ => some x
  | none, some x => some x
  | none, none => match q.cur with
    | some x => if hdrVc x.header = vc ∧ x.entry = some k ∧ x.discard = false ∧ x.overflow = false ∧ x.bad = false then some x else none
    | none => none

/-- Line `i` of a packet with its poison marker, if all of its bytes are there. -/
def RxPkt.line (x : RxPkt) (i : Nat) : Option Line :=
  let bs := (x.body.drop (64 * i)).take 64
  if bs.length = 64 ∧ bs.all (fun b => b.isSome) = true then some ⟨bytesLine (bs.map (fun b => b.getD 0)), x.marks.contains i⟩ else none

/-- The port tiles take a line from the ingress queue. -/
def State.takeLine (s : State) (p vc k : Nat) : State :=
  let bump := fun (x : RxPkt) => if x.entry = some k then { x with taken := x.taken + 1 } else x
  let s := s.updPort p (fun q => { q with cur := q.cur.map (fun x => if hdrVc x.header = vc then bump x else x) })
  (s.updChan p vc (fun c => { c with held := c.held.map bump })).flow p vc

/-- The packets that serve entry `k` leave the ingress queue: all of them, or the failed ones. -/
def State.release (s : State) (p vc k : Nat) (failed : Bool) : State :=
  (s.updChan p vc (fun c => { c with held := c.held.filter (fun x => x.entry != some k || (failed && x.state != .failed)) })).flow p vc

/-- The physical port tile of port `p` that serves an entry. -/
def State.portTile (s : State) (p : Nat) (a : ArrEntry) : Nat := s.physOf s.grid44 ((portTiles s.grid44 p).getD (b2n a.second) 0)

/-- The port tile of entry `a` injects lines in slot `t`, on the MESH route of its route-table entry `e` (R236, R241). -/
def State.portInject (s : State) (p : Nat) (a : ArrEntry) (e : Nat) (dest : PktDest) (t : Nat) (ls : List Line) : State :=
  let n := s.portTile p a
  s.inject .port n (s.meshRoute n (orMesh e)) (orDvt e) dest ls.length ls t

/-- The number by which a tile knows an entry. -/
def entryId (p vc k : Nat) : Nat := (2 * p + vc) * 65536 + k

/-- `REGULAR_DELIVERY` (R241, R242): in its slot, line pair `j` of a DATA entry; the void line goes in place of a line that is absent. -/
def effRegularDelivery (p vc k j : Nat) (s : State) : State :=
  match s.arrival p vc k 3 with
  | none => s
  | some (a, e, r) =>
    match a.slots[j]? with
    | none => s
    | some t =>
      if a.typ = 1 ∧ r.sent.length ≤ 2 * j ∧ 2 * j < a.len ∧ s.slotOpen t then
        let own := (([2 * j, 2 * j + 1].filter (· < a.len)).map (fun i => ((s.port p).serving vc k).bind (fun x => x.line i)))
        let s := s.updEntry p vc k (fun r => { r with sent := r.sent ++ List.replicate (2 * j - r.sent.length) false ++ own.map (fun v => v.isSome) })
        let s := s.portInject p a e (.eve (orTag e) (orDq e) (entryId p vc k) (2 * j)) t (own.map (fun v => v.getD .void))
        own.foldl (fun s v => if v.isSome then s.takeLine p vc k else s) s
      else s

/-! Notices. -/

/-- The entry's notice slot has come, and whether its notice is CONFIRM: the packet is confirmed and every line injected was its own. -/
def State.noticeDue (s : State) (a : ArrEntry) (r : EntryRun) : Bool := r.notice == .none && s.slotOpen a.notice
def noticeGood (a : ArrEntry) (r : EntryRun) : Bool := r.confirmed && (a.typ != 1 || (r.sent.length == a.len && r.sent.all id))

/-- A notice for the tile of a DATA entry leaves the port tile (1 CONFIRM, 2 FAIL, 3 LEAP, 4 DEAD). -/
def State.tellTile (s : State) (p : Nat) (a : ArrEntry) (e code t : Nat) : State :=
  if a.typ = 1 then s.portInject p a e (.notice (orTag e) code) t [.zero] else s

/-- The payload of a SYNC packet as Table 11-3 lays it out; none when it breaks the table. -/
def syncFields (d : Nat) : Option (Nat × Nat × Nat × Bool × Nat) :=
  let kind := bitsAt d 16 8
  let inc := bitsAt d 64 16
  let ok := bitsAt d 12 4 == 0 && bitsAt d 28 4 == 0 && bitsAt d 33 31 == 0 && bitsAt d 80 432 == 0
    && ((kind == 1 && inc != 0 && bitsAt d 24 4 == 0 && bitsAt d 32 1 == 0) || (kind == 2 && inc == 0))
  if ok then some (bitsAt d 0 12, kind, bitsAt d 24 4, bitAt d 32, inc) else none

/-- An operation reaches its counter 40 cycles after the notice slot (11 R300). -/
def syncLag : Nat := 40

/-- The arrival entry itself is applied as a failure at the end of slot `eff`: a failed part, or ERR for a plain signal (11 R300). -/
def State.syncLost (s : State) (ctx eff : Nat) (a : ArrEntry) : State :=
  match s.xlate ctx a.vid with
  | none => s.xlateFault ctx a.vid
  | some i => if a.kind = 2 then s.syncPart i eff a.part true else s.syncErr i eff

/-- A confirmed SYNC packet is applied at the end of slot `eff` (11 R300). -/
def State.syncPacket (s : State) (a : ArrEntry) (d eff : Nat) : State :=
  match syncFields d with
  | some (vid, kind, part, failed, inc) =>
    if vid = a.vid ∧ kind = a.kind ∧ (kind = 1 ∨ part = a.part) then
      match s.xlate s.frame.ctx vid with
      | none => s.xlateFault s.frame.ctx vid
      | some i => if kind = 1 then s.syncAdd i eff false inc else s.syncPart i eff part failed
    else (s.bump rXlateFault 1).syncLost s.frame.ctx eff a
  | none => (s.bump rXlateFault 1).syncLost s.frame.ctx eff a

/-- The records of an outbound exchange queue (14 R365). -/
def exchCap : Nat := 256

/-- A record joins port `p`'s outbound exchange queue, or is lost. -/
def State.exchPush (s : State) (p : Nat) (r : FRec) : State :=
  if exchCap ≤ (s.exchQ p).length then s.exchDrop p 1
  else { s with fl := { s.fl with exchange := smapPut (fun _ => []) s.fl.exchange p (s.exchQ p ++ [r]) } }

/-- A DEADLINE record travels back along its route: to the port its own entry names, or, where the route begins, into the queue with REMOTE set. -/
def State.exchRecord (s : State) (r : FRec) : State :=
  let route := bitsAt r.detail 0 12
  let e := s.optRoute route
  if orRole e = 1 then s.flRaise { r with flags := r.flags ||| 2 } route else s.exchPush (orIn e) r

/-- The mode word in the 32 low bytes of a line (14 Table 14-4). -/
def modeOf (d : Nat) : ModeWord :=
  ⟨BitVec.ofNat 64 d, BitVec.ofNat 64 (bitsAt d 64 64), bitsAt d 128 8, bitsAt d 136 8, bitsAt d 144 8⟩

/-- A received exchange packet (14 R364, R365): its mode word, and its records. -/
def State.exchTake (s : State) (p : Nat) (lines : List LineBits) : State :=
  let d := (lines.zip (List.range lines.length)).foldl (fun a x => a + x.1.toNat <<< (512 * x.2)) 0
  let k := bitsAt d 160 16
  let room := 2 * lines.length - 1
  let k := if k < room then k else room
  let s := { s with fl := { s.fl with modes := smapPut (fun _ => none) s.fl.modes p (some (modeOf d)) } }
  let s := s.bump rExchRx k
  ((List.range k).map (fun i => recOf (bitsAt d (256 * (i + 1)) 256))).foldl State.exchRecord s

/-- What a confirmed SYNC or FAULT packet does at its CONFIRM or LEAP notice, which stands in slot `t`. -/
def State.settle (s : State) (p vc k : Nat) (a : ArrEntry) (t : Nat) : State :=
  match (s.port p).confirmed vc k with
  | none => s
  | some x =>
    if a.typ = 2 then (s.syncPacket a ((x.payload.getD 0 0).toNat) (t + syncLag)).release p vc k false
    else if a.typ = 3 then (s.exchTake p x.payload).release p vc k false
    else s

/-- `NOTICE_CONFIRM` (R241, R250). -/
def effNoticeConfirm (p vc k : Nat) (s : State) : State :=
  match s.arrival p vc k 3 with
  | none => s
  | some (a, e, r) =>
    if s.noticeDue a r && noticeGood a r then
      let s := s.updEntry p vc k (fun r => { r with notice := .confirm })
      if a.typ = 1 then (s.tellTile p a e 1 a.notice).release p vc k false else s.settle p vc k a a.notice
    else s

/-- `NOTICE_FAIL` (R241, R250): the flits of a failed packet leave the ingress queue (08 R222). -/
def effNoticeFail (p vc k : Nat) (s : State) : State :=
  match s.arrival p vc k 3 with
  | none => s
  | some (a, e, r) =>
    if s.noticeDue a r && !noticeGood a r then
      ((s.updEntry p vc k (fun r => { r with notice := .fail })).tellTile p a e 2 a.notice).release p vc k true
    else s

/-- The slot after the entry's leap delivery has come, after a FAIL. -/
def State.leapDue (s : State) (a : ArrEntry) (r : EntryRun) : Bool := r.notice == .fail && s.slotOpen a.leapNotice
/-- The entry's repair stands: its leap lines were the packet's own, or, where it has none, a confirmed packet has come. -/
def leapGood (a : ArrEntry) (r : EntryRun) : Bool := if a.typ = 1 ∨ a.typ = 4 then r.leapDone == some true else r.confirmed

/-- `NOTICE_LEAP` (R242). -/
def effNoticeLeap (p vc k : Nat) (s : State) : State :=
  match s.arrival p vc k 3 with
  | none => s
  | some (a, e, r) =>
    if s.leapDue a r && leapGood a r then
      let s := s.updEntry p vc k (fun r => { r with notice := .leap })
      if a.typ = 1 then s.tellTile p a e 3 a.leapNotice else s.settle p vc k a a.leapNotice
    else s

/-- `NOTICE_DEAD` (R242): a lost SYNC packet fails its counter once. -/
def effNoticeDead (p vc k : Nat) (s : State) : State :=
  match s.arrival p vc k 3 with
  | none => s
  | some (a, e, r) =>
    if s.leapDue a r && !leapGood a r then
      let s := s.updEntry p vc k (fun r => { r with notice := .dead })
      if a.typ = 1 then s.tellTile p a e 4 a.leapNotice
      else if a.typ = 2 && !r.late then s.syncLost s.frame.ctx (a.leapNotice + syncLag) a
      else s
    else s

/-- The lines that the leap delivery slots of an entry carry: the confirmed packet's, or as many void lines. -/
def leapLines (a : ArrEntry) (own : Option RxPkt) : List Line :=
  (List.range a.len).map (fun i => (own.bind (fun x => x.line i)).getD .void)

/-- `LEAP_DELIVERY` (R240, R241, 01 R27): from its slot on, after a FAIL, the confirmed packet or poison for the recorded positions; a READ line for its queue, which comes
only so. A repair makes the frame unclean. -/
def effLeapDelivery (p vc k : Nat) (s : State) : State :=
  match s.arrival p vc k 3 with
  | none => s
  | some (a, e, r) =>
    if r.leapDone = none ∧ s.slotOpen a.leap ∧ ((a.typ = 1 ∧ r.notice = .fail) ∨ (a.typ = 4 ∧ (r.notice = .confirm ∨ r.notice = .fail))) then
      let own := (s.port p).confirmed vc k
      let s := s.updEntry p vc k (fun r => { r with leapDone := some own.isSome })
      let s := if r.notice = .fail then s.frameBit fbReplay else s
      (s.portInject p a e (if a.typ = 1 then .leap (orTag e) else .queue (orDq e)) a.leap (leapLines a own)).release p vc k false
    else s

/-! Ranges. -/

/-- `RANGE_RESOLVE` (R250). -/
def effRangeResolve (n t e : Nat) (s : State) : State := s.tileEvent n t (fun tl => tl.rangeResolve e)

/-- `REEXECUTION` (R251). -/
def effReexecution (n t : Nat) (s : State) : State := s.tileEvent n t (fun tl => tl.reexecute s.frame.alen t)

/-! Forwarding (R253, R254, R256). -/

/-- `FORWARD_LINE` (R253, R254): in its slot, the inbound port tile injects line `j` of a forwarded entry; a line that is absent abandons the packet, whose remaining slots carry nothing. After the last
slot a failed packet leaves the ingress queue. -/
def effForwardLine (p vc k j : Nat) (s : State) : State :=
  match s.arrival p vc k 2 with
  | none => s
  | some (a, e, r) =>
    match a.slots[j]? with
    | none => s
    | some t =>
      if r.fwd ≤ j ∧ j < a.len ∧ s.slotOpen t then
        let own := if r.fwd = j ∧ r.broken = false then ((s.port p).serving vc k).bind (fun x => x.line j) else none
        let s := s.updEntry p vc k (fun r => { r with fwd := j + 1, broken := r.broken || own.isNone })
        let s := match own with
          | some v => (s.portInject p a e (.fwd p vc k j) t [v]).takeLine p vc k
          | none => s.forwardAbandon p vc k
        if j + 1 = a.len then s.release p vc k true else s
      else s

/-- `STORE_AND_FORWARD` (R256, 01 R27): in its slot, a confirmed packet that came in the leap window, or whose cut-through copy was abandoned, goes on to OUT_PORT as a new packet. -/
def effStoreAndForward (p vc k : Nat) (s : State) : State :=
  match s.arrival p vc k 2 with
  | none => s
  | some (a, e, r) =>
    match (s.port p).confirmed vc k with
    | none => s
    | some x =>
      if r.forwarded = false ∧ (x.leap = true ∨ r.broken = true) ∧ s.slotOpen a.leap then
        let h := setBitsAt (setBitsAt x.header 96 16 0) 0 16 0
        let s := (((s.bump (rFwd (orOut e)) 1).frameBit fbReplay).updEntry p vc k (fun r => { r with forwarded := true }))
        (s.portInject p a e (.port (orOut e) h true) a.leap ((List.range (hdrLen h)).map (fun i => (x.line i).getD .void))).release p vc k false
      else s

/-! Deadlines (R257, R258). -/

/-- The instance has missed its deadline: its deadline, after the tick at `tickAt`, has passed without CONFIRM or LEAP. -/
def State.missed (s : State) (a : ArrEntry) (r : EntryRun) (tickAt : Nat) : Bool :=
  orRole (s.optRoute a.route) == 3 && !r.late && r.notice != .confirm && r.notice != .leap && decide (tickAt + a.deadline ≤ s.clock)

/-- The deadline fault of an instance of frame `frame`, whose context is `ctx`. -/
def State.deadlineFault (s : State) (p : Nat) (a : ArrEntry) (r : EntryRun) (frame ctx : Nat) : State :=
  let e := s.optRoute a.route
  let s := ((s.bump (rDeadline p) 1).orBits (rPeerStatus p) psDeadline).frameBit fbDeadline
  let x := { s.mkRec 0x040A uPort p (a.route + orSrank e * 2 ^ 12 + a.typ * 2 ^ 28) false false with frame := BitVec.ofNat 64 frame, ctx := ctx }
  let s := (s.flRaise x a.route).exchPush (orIn e) x
  if a.typ = 2 ∧ r.notice ≠ .dead then s.syncLost ctx (s.slotBy + syncLag) a else s

/-- The arrival list that the frame before had on channel `vc` of port `p`. -/
def State.arrivalsWas (s : State) (p vc : Nat) : List ArrEntry := match s.frame.was with
  | some w => (match s.shape? w.shape with
    | some sh => smapGet (fun _ => []) sh.arrivals (2 * p + vc)
    | none => [])
  | none => []

/-- The running frame's entry `k` misses its deadline. -/
def State.deadlineNow (s : State) (p vc k : Nat) : State :=
  match (s.arrivals p vc)[k]? with
  | none => s
  | some a =>
    let r := (s.port p).entry vc k
    if s.missed a r s.frame.tickAt.toNat then (s.updEntry p vc k (fun r => { r with late := true })).deadlineFault p a r s.frameNo s.frame.ctx else s

/-- `DEADLINE_FAULT` (R258, 01 R39): the instance's deadline has passed without CONFIRM or LEAP, in the running frame, or in the one before it, whose number the record then carries. -/
def effDeadlineFault (p vc k : Nat) (s : State) : State :=
  if !s.frame.running || decide (16 ≤ p) || decide (2 ≤ vc) then s
  else
    let old := smapGet (fun _ => EntryRun.fresh) (s.port p).past (2 * k + vc)
    match (s.arrivalsWas p vc)[k]?, s.frame.was with
    | some a, some w =>
      if s.missed a old w.tickAt then
        (s.updPort p (fun q => { q with past := smapPut (fun _ => EntryRun.fresh) q.past (2 * k + vc) { old with late := true } })).deadlineFault p a old w.frame w.ctx
      else s.deadlineNow p vc k
    | _, _ => s.deadlineNow p vc k

/-! The meanings of the rows of this family. -/

/-- `REGULAR_DELIVERY` (R241). -/
def execRegularDelivery (p vc k j : Nat) (s : State) : Host.Outcome State Fault Refusal := .next (effRegularDelivery p vc k j s)

/-- `NOTICE_CONFIRM` (R250). -/
def execNoticeConfirm (p vc k : Nat) (s : State) : Host.Outcome State Fault Refusal := .next (effNoticeConfirm p vc k s)

/-- `NOTICE_FAIL` (R250). -/
def execNoticeFail (p vc k : Nat) (s : State) : Host.Outcome State Fault Refusal := .next (effNoticeFail p vc k s)

/-- `NOTICE_LEAP` (R242). -/
def execNoticeLeap (p vc k : Nat) (s : State) : Host.Outcome State Fault Refusal := .next (effNoticeLeap p vc k s)

/-- `NOTICE_DEAD` (R242). -/
def execNoticeDead (p vc k : Nat) (s : State) : Host.Outcome State Fault Refusal := .next (effNoticeDead p vc k s)

/-- `LEAP_DELIVERY` (R241). -/
def execLeapDelivery (p vc k : Nat) (s : State) : Host.Outcome State Fault Refusal := .next (effLeapDelivery p vc k s)

/-- `RANGE_RESOLVE` (R250). -/
def execRangeResolve (n t e : Nat) (s : State) : Host.Outcome State Fault Refusal := .next (effRangeResolve n t e s)

/-- `REEXECUTION` (R251). -/
def execReexecution (n t : Nat) (s : State) : Host.Outcome State Fault Refusal := .next (effReexecution n t s)

/-- `FORWARD_LINE` (R253). -/
def execForwardLine (p vc k j : Nat) (s : State) : Host.Outcome State Fault Refusal := .next (effForwardLine p vc k j s)

/-- `STORE_AND_FORWARD` (R256). -/
def execStoreAndForward (p vc k : Nat) (s : State) : Host.Outcome State Fault Refusal := .next (effStoreAndForward p vc k s)

/-- `DEADLINE_FAULT` (R258). -/
def execDeadlineFault (p vc k : Nat) (s : State) : Host.Outcome State Fault Refusal := .next (effDeadlineFault p vc k s)

end Sys2Proof.Machine
end

