-- ==== Sys2Proof/Machine/AlmanacChecks.lean ====
section
/-! DEFINITION. The loader's checks of an almanac and of the instruction streams (12 Table 12-10): frame fit and spans (01 R21, R22, 08 R230), bank
placement and deliveries into decoupled queues (02 R46, 06 R145), mesh occupancy (07 R181), command spacing and refresh (01 R33, 06 R158, R159, R163), and the optical
routes of MV.OSEND (09 R236). -/

namespace Sys2Proof.Machine

/-! Slots and nanoseconds. -/

/-- A nanosecond, and a slot of each step, in units of 1/1188 ns: one in which the period of every step is whole. -/
def nsUnits : Nat := 1188
def slotUnits (step : Nat) : Nat :=
  match step with
  | 0 => 990
  | 1 => 880
  | 2 => 792
  | 3 => 720
  | _ => 660

/-- The cycles of a step in `ns` nanoseconds, rounded down: floor(ns·f). -/
def cyclesIn (step ns : Nat) : Nat := ns * nsUnits / slotUnits step

/-- The nanoseconds from a tick to its commit point. -/
def Plan.workTime (p : Plan) : Nat := p.head.period - p.head.guard

/-- Slot `t` is over by the commit point at the floor step, whatever the delay of slot 0 after the tick (01 R19, R21). -/
def Plan.slotFits (p : Plan) (t : Nat) : Bool := decide (t + 2 ≤ cyclesIn p.head.floor p.workTime)

/-- The first index that fails. -/
def firstBad (n : Nat) (ok : Nat → Bool) : Option Nat := (List.range n).find? (fun i => !ok i)

/-- The first shape that fails. -/
def Plan.shapeBad (p : Plan) (ok : ShapePlan → Bool) : Option Nat := firstBad p.almanac.shapes.length (fun i => match p.almanac.shapes[i]? with
  | some sh => ok sh
  | none => false)

/-- The tiles of a grid. -/
def gridTiles (grid44 : Bool) : Nat := 32 * gridRows grid44

/-- The die of virtual tile `v`. -/
def virtDie (grid44 : Bool) (v : Nat) : Nat := (if 16 ≤ v % 32 then 1 else 0) + (if gridRows grid44 / 2 ≤ v / 32 then 2 else 0)

/-! Frame fit and spans (01 R20 to R22, 08 R230). -/

/-- The almanac length: the greatest, over all tiles and links, of the slot after the leap window's last (01 R20). -/
def ShapePlan.windowsEnd (sh : ShapePlan) : Nat := ((sh.tiles.map (fun x => x.stop)) ++ sh.links.map (fun e => e.2.stop)).foldl Nat.max 0

/-- A link's leap window opens no earlier than 2·DELAY_MAX + 240 ns after its last regular packet leaves the framer, reckoned at step 4: a packet of n lines is on its way for
(24 + 64·n)/300 ns (08 R230, Table 8-1). -/
def leapLate (delayMax : Nat) (l : LinkShape) : Bool :=
  l.sends.all (fun x => decide (300 * slotUnits 4 * x.slot + nsUnits * (24 + 64 * x.lines + 300 * (2 * delayMax + 240)) ≤ 300 * slotUnits 4 * l.leap))

/-- A shape fits the frame, and nothing that it places spans the tick (01 R21, R22). -/
def Plan.shapeFits (p : Plan) (sh : ShapePlan) : Bool :=
  sh.alen == sh.windowsEnd && decide (sh.alen + 1 ≤ cyclesIn p.head.floor p.workTime) && sh.tiles.length == gridTiles p.head.grid44
    && sh.tiles.all (fun x => decide (x.leap ≤ x.stop) && x.ops.all (fun o => decide (o.issue ≤ o.retire) && p.slotFits o.retire))
    && sh.links.all (fun e => decide (e.2.leap ≤ e.2.stop) && leapLate ((p.ports[e.1]?.map (fun q => q.delayMax)).getD 0) e.2)
    && sh.xfers.all (fun l => l.2.all (fun x => (x.slots ++ x.lates).all p.slotFits))
    && sh.arrivals.all (fun l => l.2.all (fun a => decide (a.deadline ≤ p.workTime)))

/-- FIT: the locus is the shape. -/
def Plan.fitBad (p : Plan) : Option Nat :=
  if p.almanac.shapes.length ≠ p.head.shapes then some p.almanac.shapes.length else p.shapeBad p.shapeFits

/-! Bank placement (02 R46). -/

/-- A fixed access falls in the bank and the span of a floating access, which the tile's leap budget stretches; or an access of the leap window reaches a bank that
an eve range holds, and is not of that range. -/
def bankClash (budget : Nat) (x : TileShape) : Bool :=
  x.banks.any (fun a => x.banks.any (fun b => a.bank == b.bank &&
    ((a.fixed && !b.fixed && decide (b.slot ≤ a.slot) && decide (a.slot ≤ b.slot + budget))
      || (b.range.isSome && decide (x.leap ≤ a.slot) && decide (a.slot < x.stop) && a.range != b.range))))

/-- The virtual tile whose accesses clash in some shape. -/
def Plan.banksBad (p : Plan) : Option Nat :=
  firstBad p.tiles.length (fun v => p.almanac.shapes.all (fun sh => match p.tiles[v]?, sh.tiles[v]? with
    | some t, some x => !bankClash t.budget x
    | _, _ => true))

/-! The instruction streams (02 R51 to R53). -/

/-- A region register: first line and lines. -/
def regionOf_ (w : W32) : Nat × Nat := (bitsAt w.toNat 17 14, bitsAt w.toNat 0 15)

/-- The line that the image supplies for line `l` of virtual tile `v`. -/
def Plan.sramLine (p : Plan) (v l : Nat) : Option LineBits :=
  (p.sram.reverse.find? (fun r => r.at_ == v && decide (r.first ≤ l) && decide (l < r.first + r.data.length))).bind (fun r => r.data[l - r.first]?)

/-- Word `idx` of a tile's instruction region. -/
def Plan.instrWord (p : Plan) (v : Nat) (t : TilePlan) (idx : Nat) : Option Nat :=
  let (i0, n) := regionOf_ t.instr
  if idx < 8 * n then (p.sramLine v (i0 + idx / 8)).map (fun d => bitsAt d.toNat (64 * (idx % 8)) 64) else none

/-- The engine commands among at most `k` words from word `idx` to SQ.END, in the order in which they stand. -/
def Plan.commandsFrom (p : Plan) (v : Nat) (t : TilePlan) : Nat → Nat → List Nat
  | 0, _ => []
  | k + 1, idx => match p.instrWord v t idx with
    | none => []
    | some w =>
      if bitAt w 63 then (match p.instrWord v t (idx + 1) with
        | none => []
        | some w2 => (w * 2 ^ 64 + w2) :: p.commandsFrom v t k (idx + 2))
      else if sqDecode w = some .endStream then [] else p.commandsFrom v t k (idx + 1)

/-- The MV commands of kind `op` in the streams of virtual tile `v`: one stream begins at the entry word of each shape. -/
def Plan.mvCommands (p : Plan) (v op : Nat) : List Nat :=
  match p.tiles[v]? with
  | none => []
  | some t =>
    ((List.range p.head.shapes).flatMap (fun sh => match p.instrWord v t sh with
      | none => []
      | some e => p.commandsFrom v t (8 * (regionOf_ t.instr).2) (bitsAt e 0 17))).filter (fun b => cmdEng b == some .mv && bitsAt b 96 3 == op)

/-- Queue `q` of virtual tile `v` is declared DECOUPLED. -/
def Plan.decoupled (p : Plan) (v q : Nat) : Bool := match p.tiles[v]?.bind (fun t => t.queues[q]?) with
  | some x => bitAt x.cfg.toNat 31 && bitAt x.cfg.toNat 30
  | none => false

/-- A mesh or an optical delivery into a decoupled queue (06 R145). -/
def Plan.decoupledBad (p : Plan) : Option Nat :=
  match (List.range p.tiles.length).flatMap (fun v => (p.mvCommands v 1).filter (fun b => p.decoupled (bitsAt b 72 11) (bitsAt b 66 6))) with
  | b :: _ => some (bitsAt b 72 11)
  | [] => (p.optical.find? (fun e => orValid e.2 && orRole e.2 == 3 && (p.decoupled (orDvt e.2) (orDq e.2) || decide (p.tiles.length ≤ orDvt e.2)))).map (fun e => orDvt e.2)

/-- The fields of an MV.OSEND differ from those of its route entry (09 R236): the locus is the route. -/
def Plan.osendBad (p : Plan) : Option Nat :=
  ((List.range p.tiles.length).flatMap (fun v => (p.mvCommands v 2).filter (fun b =>
    let e := smapGet (fun _ => 0) p.optical (bitsAt b 35 12)
    orDrank e != bitsAt b 72 16 || orDvt e != bitsAt b 61 11 || orDq e != bitsAt b 55 6 || orVc e != bitsAt b 54 1))).head?.map (fun b => bitsAt b 35 12)

/-! The mesh (07 R179 to R181). -/

/-- The legs of a route entry up to the first of length 0. -/
def legsOf (w : Nat) : Nat → List (Nat × Nat)
  | 0 => []
  | k + 1 =>
    let leg := bitsAt w (8 * (4 - (k + 1))) 8
    if leg % 64 = 0 then [] else (leg / 64, leg % 64) :: legsOf w k

/-- No leg reverses the one before it (07 R181). -/
def noReversal : List (Nat × Nat) → Bool
  | a :: b :: ls => (a.1 + 2) % 4 != b.1 && noReversal (b :: ls)
  | _ => true

/-- The route stays within the virtual grid. -/
def staysIn (grid44 : Bool) : List Nat → Nat → Bool
  | [], _ => true
  | d :: ds, v => match neighbour grid44 v d with
    | some w => staysIn grid44 ds w
    | none => false

/-- A route word may start at virtual tile `v`. -/
def routeOk (grid44 : Bool) (v w : Nat) : Bool := noReversal (legsOf w 4) && staysIn grid44 (routeDirs w 4) v

/-- The cost of a hop between virtual tiles (R180, R195): on the 32 × 44 grid the vertical hops cost 6, and 10 between dies. -/
def virtHop (grid44 : Bool) (v w : Nat) : Nat :=
  if grid44 then
    (if v % 32 = w % 32 then (if virtDie true v = virtDie true w then 6 else 10) else hopBase (v % 32) (w % 32))
  else hopBase v w

/-- The outputs that a way from `v` takes, each with its cost so far, and the tile and the cost at its end. -/
def virtWay (grid44 : Bool) : List Nat → Nat → Nat → List (Nat × Nat × Nat) × (Nat × Nat)
  | [], v, c => ([], (v, c))
  | d :: ds, v, c => match neighbour grid44 v d with
    | none => ([], (v, c))
    | some w =>
      let r := virtWay grid44 ds w (c + virtHop grid44 v w)
      ((v, d, c) :: r.1, r.2)

/-- A packet as the loader places it: its source as a virtual tile, its route word, the cycle of its first flits, its cycles. -/
structure Placed where
  tile : Nat
  route : Nat
  slot : Nat
  cycles : Nat
  deriving DecidableEq, Repr

/-- The end of its way: virtual tile and cost. -/
def Placed.ends (grid44 : Bool) (k : Placed) : Nat × Nat := (virtWay grid44 (routeDirs k.route 4) k.tile 0).2

/-- What a packet holds: its injection channel, numbered from 4, and its outputs (R178, R180). -/
def Placed.uses (grid44 : Bool) (k : Placed) : List MeshUse :=
  let dirs := routeDirs k.route 4
  (dirs.take 1).map (fun d => ⟨k.tile, 4 + d, k.slot, k.slot + k.cycles - 1⟩)
    ++ (virtWay grid44 dirs k.tile 0).1.map (fun h => ⟨h.1, h.2.1, k.slot + h.2.2, k.slot + h.2.2 + k.cycles - 1⟩)

/-- Route entry `i` of virtual tile `v`. -/
def Plan.routeWord (p : Plan) (v i : Nat) : Nat := (((p.routes[v]?.getD [])[i]?).map BitVec.toNat).getD 0

/-- The packets of an HBM transfer: its request flit, with the lines of a write behind it, and one for each slot in which it may deliver, late slots included. -/
def Xfer.placed (grid44 : Bool) (x : Xfer) : List Placed :=
  let req : Placed := ⟨x.tile, x.route, 0, if x.read then 1 else (x.len + 1) / 2⟩
  { req with slot := x.reqSlot - 1 - (req.ends grid44).2 }
    :: (if x.read then (x.slots ++ x.lates).eraseDups.map (fun t => ⟨x.edge, x.back, t, 1⟩) else [])

/-- The packets that the port tiles inject for an arrival entry of port `q`: its lines or its forwarded lines, its notices, its leap lines (09 R241, R253, R256). -/
def Plan.entryPlaced (p : Plan) (q : Nat) (a : ArrEntry) : List Placed :=
  let e := smapGet (fun _ => 0) p.optical a.route
  let v := (portTiles p.head.grid44 q).getD (b2n a.second) 0
  let w := p.routeWord v (orMesh e)
  let put := fun (t n : Nat) => (⟨v, w, t, n⟩ : Placed)
  let leap := put a.leap ((a.len + 1) / 2)
  if orRole e = 2 then a.slots.map (put · 1) ++ [leap]
  else if a.typ = 1 then a.slots.map (put · 1) ++ [put a.notice 1, leap, put (a.leap + (a.len + 1) / 2) 1]
  else if a.typ = 4 then [leap]
  else []

/-- Every packet of a shape. -/
def Plan.placed (p : Plan) (sh : ShapePlan) : List Placed :=
  sh.packets.map (fun k => ⟨k.tile, p.routeWord k.tile k.route, k.slot, (k.lines + 1) / 2⟩)
    ++ sh.xfers.flatMap (fun l => l.2.flatMap (Xfer.placed p.head.grid44))
    ++ sh.arrivals.flatMap (fun l => l.2.flatMap (p.entryPlaced (l.1 / 2)))

/-- Two holds of one output overlap. -/
def usesClash : List MeshUse → Bool
  | [] => false
  | u :: us => us.any (fun x => x.tile == u.tile && x.out == u.out && decide (u.lo ≤ x.hi) && decide (x.lo ≤ u.hi)) || usesClash us

/-- The packets of a shape share no output, stay in the grid, and reach their ends before the commit point at the floor step. -/
def Plan.shapeMeshOk (p : Plan) (sh : ShapePlan) : Bool :=
  let g := p.head.grid44
  let ks := p.placed sh
  ks.all (fun k => routeOk g k.tile k.route && p.slotFits (k.slot + (k.ends g).2 + k.cycles - 1)) && !usesClash (ks.flatMap (Placed.uses g))

/-- MESH (07 R181): the locus is the virtual tile of a bad route or of an MV.SEND whose route ends elsewhere than at its DVT, or the shape. -/
def Plan.meshBad (p : Plan) : Option Nat :=
  let g := p.head.grid44
  match firstBad p.routes.length (fun v => ((p.routes[v]?).getD []).all (fun w => routeOk g v w.toNat)
      && (p.mvCommands v 1).all (fun b => (virtWay g (routeDirs (p.routeWord v (bitsAt b 40 12)) 4) v 0).2.1 == bitsAt b 72 11)) with
  | some v => some v
  | none => p.shapeBad p.shapeMeshOk

/-! The controllers' command lists (01 R33, 06 R158, R159, R163). -/

/-- The kinds of command that a spacing may tell apart. -/
inductive HbmKind where
  | act
  | col (write : Bool)
  | pre
  | refab
  | rfm
  deriving DecidableEq, Repr

/-- A placed command: its slot, kind, pseudo-channel and bank, the transfer and entry that it belongs to, and whether these are bank-agnostic. For an agnostic placement the bank
counts from the first line's. -/
structure HbmAt where
  slot : Nat
  kind : HbmKind
  pc : Nat
  bank : Nat
  owner : Option (Nat × Nat)
  agnostic : Bool
  deriving DecidableEq, Repr

/-- Where line `i` of a transfer stands: the entry, the line counted from a multiple of 1,024, and whether it is bank-agnostic (R159, R172). -/
def Xfer.lineAt (x : Xfer) (i : Nat) (index : Bool) : Nat × Nat × Bool :=
  match x.gather with
  | some (_, gl) => if index then (0, x.phase + i, x.bank.isNone) else (i / gl + 1, x.entryPhases.getD (i / gl) 0 + i % gl, true)
  | none => (0, x.phase + i, x.bank.isNone)

/-- A command of transfer `x` on line `i`. -/
def onLine (xs : List Xfer) (t : Nat) (kind : HbmKind) (x i : Nat) (index : Bool) : Option HbmAt :=
  xs[x]?.map (fun f =>
    let (e, l, agn) := f.lineAt i index
    ⟨t, kind, l % 1024 / 16, (f.bank.getD 0 + l / 1024) % 48, some (x, e), agn⟩)

/-- The command of an almanac slot; none when it names no transfer of the shape. -/
def HbmSlot.at? (xs : List Xfer) (h : HbmSlot) : Option HbmAt :=
  match h.op with
  | .act x i => onLine xs h.slot .act x i false
  | .rd x i => onLine xs h.slot (.col false) x i false
  | .wr x i => onLine xs h.slot (.col true) x i false
  | .index x i => onLine xs h.slot (.col false) x i true
  | .pre x i => onLine xs h.slot .pre x i false
  | .refab p => some ⟨h.slot, .refab, p, 0, none, false⟩
  | .rfm p => some ⟨h.slot, .rfm, p, 0, none, false⟩

/-- The least ns from `a` to a later command `b` of its pseudo-channel (Table 6-5, R159). A line's two column commands stand 1 ns apart, and `col` is the first of them. -/
def hbmGap (a b : HbmAt) : Nat :=
  if a.owner ≠ b.owner ∧ (a.agnostic || b.agnostic) = true then 42
  else
    let same := a.bank == b.bank
    match a.kind, b.kind with
    | .refab, _ => 350
    | .pre, .refab => 14
    | .act, .act => if same then 42 else 2
    | .act, .col _ => if same then 14 else 0
    | .act, .pre => if same then 28 else 0
    | .pre, .act => if same then 14 else 0
    | .col false, .pre => if same then 1 + 4 else 0
    | .col true, .pre => if same then 1 + 16 else 0
    | .col true, .col false => 1 + 8
    | .col _, .col _ => 2
    | _, _ => 0

/-- The spacing holds with 0.5 ns added at step 4, and the two do not share an edge: at every step a slot is longer than an edge period. -/
def gapOk (a b : HbmAt) : Bool :=
  a.pc != b.pc || decide (b.slot < a.slot)
    || (a.slot != b.slot && (hbmGap a b == 0 || decide (nsUnits * hbmGap a b + nsUnits / 2 ≤ slotUnits 4 * (b.slot - a.slot))))

/-- Every ordered pair of commands. -/
def gapsOk : List HbmAt → Bool
  | [] => true
  | a :: as => as.all (fun b => gapOk a b && gapOk b a) && gapsOk as

/-- tFAW: of the activations of a pseudo-channel, no five begin within 16 ns. -/
def fawOk (acts : List Nat) : Bool :=
  acts.all (fun t => decide ((acts.filter (fun u => decide (t ≤ u) && decide (slotUnits 4 * (u - t) < nsUnits * 16 + nsUnits / 2))).length ≤ 4))

/-- The write path of Table 6-5: line `i` of a write, which reaches the edge ⌊i/2⌋ cycles after the request slot, is there 10 ns before its WR. -/
def writePathOk (xs : List Xfer) (h : HbmSlot) : Bool :=
  match h.op with
  | .wr x i => match xs[x]? with
    | some f => decide (slotUnits 4 * (f.reqSlot + i / 2) + nsUnits * 10 + nsUnits / 2 ≤ slotUnits 4 * h.slot)
    | none => false
  | _ => true

/-- Minimum spacings on one controller. -/
def commandsOk (xs : List Xfer) (hs : List HbmSlot) : Bool :=
  let cs := hs.filterMap (HbmSlot.at? xs)
  cs.length == hs.length && gapsOk cs && hs.all (writePathOk xs)
    && (List.range 64).all (fun pc => fawOk ((cs.filter (fun c => c.pc == pc && c.kind == .act)).map (fun c => c.slot)))

/-- The instants, in units from the tick, of the REFab commands of a pseudo-channel in a frame of the shape at a step: those of the almanac, then the keep-alives that fit (R163). -/
def Plan.refabs (p : Plan) (sh : ShapePlan) (c pc step : Nat) : List Nat :=
  let own := ((smapGet (fun _ => []) sh.cmds c).filter (fun h => h.op == .refab pc)).map (fun h => slotUnits step * h.slot)
  let quiet := slotUnits step * sh.alen
  let last := nsUnits * (p.head.period - 100)
  own ++ ((List.range (p.head.period / 1900 + 1)).map (fun k => quiet + nsUnits * 1900 * k)).filter (fun t => decide (t + nsUnits * 350 ≤ last))

/-- Each instant of `a` and the last of them is followed within 1,950 ns, less the 0.5 ns of R158, by another of `a` or by the first of `b` a period later. -/
def followed (per : Nat) (a b : List Nat) : Bool :=
  let all := a ++ b.map (fun t => t + per)
  !a.isEmpty && a.all (fun t => all.any (fun u => decide (t < u) && decide (u + nsUnits / 2 ≤ t + nsUnits * 1950)))

/-- The sequence entry after entry `i`. -/
def Plan.nextShape (p : Plan) (i : Nat) : Option ShapePlan := (p.seq[(i + 1) % p.seq.length]?).bind (fun e => p.almanac.shapes[e.shape]?)

/-- The refresh interval holds on every pseudo-channel, at the floor step and at step 4, from each frame of the sequence to the next: the locus is the shape. -/
def Plan.refabBad (p : Plan) : Option Nat :=
  (firstBad p.seq.length (fun i => match (p.seq[i]?).bind (fun e => p.almanac.shapes[e.shape]?), p.nextShape i with
    | some a, some b => (List.range 8).all (fun c => (List.range 64).all (fun pc => [p.head.floor, 4].all (fun step =>
        followed (nsUnits * p.head.period) (p.refabs a c pc step) (p.refabs b c pc step))))
    | _, _ => true)).bind (fun i => p.seq[i]?.map (fun e => e.shape))

/-- The placement and the spacing of the controllers' commands. -/
def Plan.commandsBad (p : Plan) : Option Nat :=
  match p.shapeBad (fun sh => (List.range 8).all (fun c => commandsOk (smapGet (fun _ => []) sh.xfers c) (smapGet (fun _ => []) sh.cmds c))) with
  | some i => some i
  | none => p.refabBad

end Sys2Proof.Machine
end

