-- ==== Sys2Proof/Machine/Time.lean ====
section
/-! DEFINITION. Time, clocks and frequency steps (10): step requests, margins, the global time counter and its references, calends markers, Equinox and
the wall-clock offset. -/

namespace Sys2Proof.Machine

/-- Bits of TM_STATUS (Table 10-10). -/
def tsTimeFault := 2 ^ 15
def tsMarginWarn := 2 ^ 14
def tsMarginCrit := 2 ^ 13
def tsRefLost := 2 ^ 12
def tsEqxFail := 2 ^ 11
def tsNeighbour := 2 ^ 10
def tsPpsSeen := 2 ^ 8

/-- TM_STATUS.WALL_VALID: the client is synchronised and the counter is set (R290). -/
def State.wallValid (s : State) : State := s.setField rTmStatus 9 1 (b2n (s.time.ptp && s.counterState == 2))

/-- The counter enters a state of R275. No port's delay is VALID while it is not set (R283). -/
def State.setCounterState (s : State) (k : Nat) : State :=
  let s := (s.setField rTmStatus 30 2 k).wallValid
  if k = 2 then s else (List.range 16).foldl (fun s p => s.setField (rPortDelay p) 31 1 0) s

/-! Steps (R267 to R270). -/

/-- `STEP_REQUEST` (R268): a write of TM_STEP_REQ. -/
def effStepRequest (a : Agent) (val : W32) (s : State) : State :=
  let s := s.touch a
  if !isPf0OrFw a then s.ignored
  else if bitAt val.toNat 31 then s.stepAsk (bitsAt val.toNat 0 3) (s.get64 rStepTarget) else s

/-- `STEP_CHANGE` (R267): an accepted step change takes effect without a plan. -/
def effStepChange (s : State) : State :=
  match s.time.step with
  | some p => if p.withPlan = false ∧ s.planRuns = false then s.stepNow p.step else s
  | none => s

/-! Margins (R271 to R274). -/

/-- The readings of region `r` in the last 10 µs. -/
def State.marginPast (s : State) (r : Nat) : List (Nat × Nat) := (smapGet (fun _ => []) s.time.marginRecent r).filter (fun x => decide (s.now ≤ x.1 + 10000))

/-- A reading of region `r`'s monitors. With no plan running, WORST is that of the last 10 µs (R271). -/
def State.marginRead (s : State) (r m : Nat) : State :=
  let recent := (s.now, m % 256) :: s.marginPast r
  let worst := recent.foldl (fun a x => if x.2 < a then x.2 else a) 255
  let s := s.set (rMargin r) (2 ^ 31 + (if s.frame.running then s.field (rMargin r) 8 8 else worst) * 2 ^ 8 + m % 256)
  let s : State := { s with time := { s.time with marginRecent := smapPut (fun _ => []) s.time.marginRecent r recent } }
  let low := match smapGet (fun _ => none) s.time.marginLow r with
    | some v => if v < m then v else m
    | none => m
  let s := if s.frame.running then { s with time := { s.time with marginLow := smapPut (fun _ => none) s.time.marginLow r (some low) } } else s
  let calm := (List.range 96).all (fun i => !s.bit (rMargin i) 31 || decide (s.field rMarginWarn 0 8 ≤ s.field (rMargin i) 0 8))
  { s with time := { s.time with okSince := if calm then some (s.time.okSince.getD s.now) else none } }

/-- A monitor reading counts once the monitors are calibrated (R272). -/
def State.marginOn (s : State) (r : Nat) : Bool := decide (r < 96) && s.bit rTmStatus 25

/-- Firmware moves the device towards a lower step: a request of its own for a running single-device plan, a move without a plan. -/
def State.firmwareLower (s : State) (dst : Nat) : State :=
  if !s.fwUp || s.step_ ≤ dst then s
  else if s.planRuns then
    (if s.usedPorts = [] ∧ s.field rTmStatus 19 3 ≤ dst then
      s.firmwareAsk dst (s.frameNo + (if s.frame.committed then 2 else 1))
    else s)
  else s.stepAsk dst 0

/-- `MARGIN_WARNING` (R273): a reading of region `r`; below WARN it begins an episode. -/
def effMarginWarning (r m : Nat) (s : State) : State :=
  if !s.marginOn r then s
  else
    let s := s.marginRead r m
    if s.field rMarginWarn 0 8 ≤ m then s
    else if s.time.warning then s
    else
      let s := { (s.bump rWarnCnt 1).orBits rTmStatus tsMarginWarn with time := { s.time with warning := true } }
      let s := (s.record 0x0503 uRegion r (m % 256)).raiseVec tmVector
      if s.field rMarginCrit 0 8 ≤ m then s.firmwareLower (s.step_ - 1) else s

/-- `MARGIN_WARN_EPISODE_END` (R273): every region has been at or above WARN for 1 ms. -/
def effMarginWarnEpisodeEnd (s : State) : State :=
  match s.time.okSince with
  | some t => if s.time.warning = true ∧ t + 1000000 ≤ s.now then { s with time := { s.time with warning := false } } else s
  | none => s

/-- `MARGIN_CRITICAL` (R274): a reading of region `r` below CRIT. -/
def effMarginCritical (r m : Nat) (s : State) : State :=
  if !s.marginOn r then s
  else
    let s := s.marginRead r m
    if s.field rMarginCrit 0 8 ≤ m then s
    else
      let s := (s.orBits rTmStatus tsMarginCrit).record 0x0504 uRegion r (m % 256)
      let s := { s.setField rStepResult 23 1 0 with time := { s.time with step := none, lowerWant := none } }
      if s.planRuns then s.cause 5 else s.firmwareLower 0

/-! The counter and its references (R275 to R281). -/

/-- A time-counter fault (R277): the counter becomes unset and a running plan stops. -/
def State.timeFault (s : State) (detail : Nat) : State :=
  let inj := s.time.twinInj
  let s := s.recordInj 0x0501 uDevice 0 detail inj
  let s := ((s.setCounterState 0).orBits rTmStatus tsTimeFault).bump rDupMismatch 1
  { s.cause 6 with time := { s.time with twin := s.time.counter, twinInj := false, eqxSince := none, eqxPps := false } }

/-- `COUNTER_COMPARE` (R277). -/
def effCounterCompare (s : State) : State := if s.time.counter ≠ s.time.twin then s.timeFault 0 else s

/-- TM_REF_CTRL.PRIMARY and SECONDARY. -/
def State.refPrimary (s : State) : Nat := s.field rTmRef 30 2
def State.refSecondary (s : State) : Nat := s.field rTmRef 24 2
/-- TM_STATUS.REF. -/
def State.refNow (s : State) : Nat := s.field rTmStatus 26 2

/-- Port `p` recovers a clock: at least 12 of its fibres hold clock lock (R279). -/
def State.recovers (s : State) (p : Nat) : Bool := decide (12 ≤ (fibresOf (s.port p).clock).length)

/-- `REFERENCE_LOSS` (R280, R281): the reference in use is lost; the module's own oscillator is not. The PLL moves to the secondary port where that recovers a clock, and a root to its oscillator; else it is
in holdover, and not locked. -/
def effReferenceLoss (s : State) : State :=
  let ref := s.refNow
  if !s.bit rTmStatus 29 || ref == 0 || s.bit rTmStatus 28 then s
  else
    let s := (s.orBits rTmStatus tsRefLost).record 0x0502 uDevice 0 ref
    let s := { s with time := { s.time with refLost := s.time.refLost ||| (if ref = 3 then 2 else 1) } }
    if ref ≠ 3 ∧ s.refSecondary = 2 ∧ s.recovers (s.field rTmRef 20 4) then s.setField rTmStatus 26 2 3
    else if ref = 1 then s.setField rTmStatus 26 2 0
    else { (s.setField rTmStatus 28 1 1).setField rTmStatus 29 1 0 with time := { s.time with holdSince := some s.now } }

/-- `HOLDOVER_LIMIT` (R280): holdover has lasted for TM_HOLDOVER_LIMIT: one time-counter fault. -/
def effHoldoverLimit (s : State) : State :=
  match s.time.holdSince with
  | some t =>
    if s.bit rTmStatus 28 ∧ t + 1000 * s.field rHoldover 0 24 ≤ s.now then
      let s := s.timeFault 1
      { s with time := { s.time with holdSince := none } }
    else s
  | none => s

/-- The time PLL is locked to its primary reference. -/
def State.onPrimary (s : State) : State :=
  { ((s.setField rTmStatus 26 2 s.refPrimary).setField rTmStatus 28 1 0).setField rTmStatus 29 1 1 with time := { s.time with holdSince := none, refLost := 0 } }

/-- TM_REF_CTRL takes a value. Where it names another reference, the PLL is not locked until it has locked to that one; without a plan it free-runs on the TCXO (R279, R281). -/
def State.setRef (s : State) (v : Nat) : State :=
  if s.get rTmRef = v then s
  else
    let s := ((s.set rTmRef v).setField rTmStatus 28 2 0)
    let s := if bitsAt v 30 2 = 0 then s.setField rTmStatus 26 2 0 else s
    { s with time := { s.time with holdSince := none, refLost := 0 } }

/-- `REFERENCE_RECOVERY` (R280): the primary reference is back. -/
def effReferenceRecovery (s : State) : State := if bitAt s.time.refLost 0 then s.onPrimary else s

/-- `TIME_PLL_LOCK` (R279): a recovered clock needs clock lock on 12 fibres of its port. -/
def effTimePllLock (s : State) : State :=
  if s.bit rMgStatus 21 = false then s
  else if s.refPrimary = 2 ∧ s.recovers (s.field rTmRef 26 4) = false then s
  else s.onPrimary

/-! Equinox (R285 to R287). -/

/-- The counter takes a new value, in ns and 1/64 ns, on both copies. -/
def State.loadCounter (s : State) (v phase : Nat) : State :=
  { s with time := { s.time with counter := BitVec.ofNat 64 v, twin := BitVec.ofNat 64 v, phase := phase, twinInj := false } }

/-- TM_EQX_STATUS.STATUS and STATE. -/
def State.eqxStatus (s : State) (status st : Nat) : State := ((s.setField rEqxStatus 28 4 status).setField rEqxStatus 26 2 st).raiseVec tmVector

/-- The device sets its counter as a root does: it has no upstream port (R286). -/
def State.eqxRoot (s : State) : Bool := s.loader.plan.isNone || s.usedPorts.isEmpty || s.refPrimary != 2

/-- The counter is set at TM_EQX_START. -/
def State.eqxSet (s : State) : State :=
  let s := ((s.loadCounter (s.get64 rEqxStart) 0).setCounterState 2).eqxStatus stOk 3
  { s with time := { s.time with eqxSince := none, eqxPps := false } }

/-- No port keeps an exchange across a change of the counter's phase, and the time of the last marker's arrival forms none. -/
def State.dropExchanges (s : State) : State :=
  (List.range 16).foldl (fun s p => (s.updPort p (fun q => { q with marks := [], stale := true, exch := [] })).set (rPortDelay p) 0) s

/-- `EQUINOX_START` (R285, R286, R287): a write of TM_EQX_CTRL. -/
def effEquinoxStart (a : Agent) (val : W32) (s : State) : State :=
  let s := s.touch a
  if !isPf0OrFw a then s.ignored
  else if !bitAt val.toNat 31 then s
  else if s.selftest then (s.setField rEqxStatus 28 4 stBusySelftest).raiseVec tmVector
  else if s.planRuns || !s.bit rTmStatus 29 then (s.setField rEqxStatus 28 4 stRejected).raiseVec tmVector
  else
    let s := s.dropExchanges.setField rEqxStatus 0 9 0
    if s.eqxRoot then
      (if s.bit rTmRef 19 then { s.eqxStatus stOk 1 with time := { s.time with eqxSince := some s.now, eqxPps := true } } else s.eqxSet)
    else
      let s := ((s.loadCounter s.now 0).setCounterState 1).eqxStatus stOk 1
      { s with time := { s.time with eqxSince := some s.now, eqxPps := false, eqxSum := 0 } }

/-- `PPS_EDGE` (R281, R286). -/
def effPpsEdge (s : State) : State :=
  let s := { (s.set64 rPpsCapture s.clock).orBits rTmStatus tsPpsSeen with time := { s.time with ppsAt := some s.now } }
  if s.time.eqxPps then s.eqxSet else s

/-- Equinox fails: the counter stays unset. -/
def State.eqxFail (s : State) (detail : Nat) : State :=
  let s := (s.record 0x0506 uDevice 0 detail).setCounterState 0
  let s := (s.orBits rTmStatus tsEqxFail).eqxStatus stFault 0
  { s with time := { s.time with eqxSince := none, eqxPps := false } }

/-- Equinox began at least `ns` ago. -/
def State.eqxOver (s : State) (ns : Nat) : Bool := match s.time.eqxSince with
  | some t => decide (t + ns ≤ s.now)
  | none => false

/-- `EQUINOX_PPS_TIMEOUT` (R286): 1.5 s without an edge. -/
def effEquinoxPpsTimeout (s : State) : State := if s.time.eqxPps = true ∧ s.eqxOver 1500000000 then s.eqxFail 1 else s

/-- `EQUINOX_TRIAL_TIMEOUT` (R287): still in trial 100 ms after the GO write. -/
def effEquinoxTrialTimeout (s : State) : State := if s.counterState = 1 ∧ s.eqxOver 100000000 then s.eqxFail 2 else s

/-- A quotient rounded to the nearest integer, halves upward. -/
def nearest (a : Int) (b : Nat) : Int := (2 * a + b) / (2 * b)

/-- `EQUINOX_CORRECTION` (R287): after 256 exchanges the counter steps by the mean offset. -/
def effEquinoxCorrection (s : State) : State :=
  if s.counterState = 1 ∧ s.field rEqxStatus 0 9 = 256 then
    let theta := nearest s.time.eqxSum 256
    let v := ((s.time.counter.toNat : Int) * 64 + s.time.phase - theta) % 2 ^ 70
    let s := s.loadCounter (v.toNat / 64) (v.toNat % 64)
    let s := ((s.set64 rEqxOffset (theta % 2 ^ 64).toNat).setCounterState 2).eqxStatus stOk 3
    { s.dropExchanges with time := { s.time with eqxSince := none } }
  else s

/-! Calends markers (R282 to R284). -/

/-- The marker period: the plan's while it runs, else 1,024 ns. -/
def State.calPeriod (s : State) : Nat := if s.planRuns then s.field rCalends 0 21 else 1024

/-- Port `p` is the primary upstream port. -/
def State.upstream (s : State) (p : Nat) : Bool := s.refPrimary == 2 && s.field rTmRef 26 4 == p

/-- `CALENDS_MARKER_SEND` (R282): one marker for each multiple of the period, which the framer sends in the next free position. A counter in trial sends on the primary upstream port
only, once a marker has come there. -/
def effCalendsMarkerSend (p : Nat) (s : State) : State :=
  let q := s.port p
  let may := s.counterState == 2 || (s.counterState == 1 && s.upstream p && s.field rEqxStatus 26 2 == 2)
  let period := s.calPeriod
  let done : Bool := match q.marks.head? with
    | some m => (m.t3.toNat - txPath) / period == s.clock / period
    | none => false
  if 16 ≤ p ∨ s.train p ≠ trUp ∨ may = false ∨ done = true then s else s.updPort p (fun q => { q with calAsk := true })

/-- LK_REPLAY_TIMEOUT for a one-way delay of `d` in 1/64 ns: 2·tf + 240 ns (08 R230), in whole ns rounded up. -/
def replayTimeout (d : Nat) : Nat := ((2 * d + 63) / 64 + 240) % 65536

/-- Management firmware sets LK_REPLAY_TIMEOUT from the delay that Equinox has measured, while no plan is armed or runs (R283, 08 R230). -/
def State.setReplayTimeout (s : State) (p : Nat) : State :=
  if s.fwUp && !s.planRuns && s.bit (rPortDelay p) 31 then s.setField (rReplayTimeout p) 0 16 (replayTimeout (s.field (rPortDelay p) 0 24)) else s

/-- The means of the port's exchanges in TM_PORT_DELAY and TM_PORT_OFFSET, in 1/64 ns. -/
def State.portMeans (s : State) (p : Nat) (valid : Bool) : State :=
  let es := (s.port p).exch
  if es = [] then s.set (rPortDelay p) 0
  else
    let sum := fun (f : Int × Int → Int) => es.foldl (fun a e => a + f e) 0
    let d := nearest (32 * sum (fun e => e.1)) es.length
    let o := nearest (32 * sum (fun e => e.2)) es.length
    (s.set (rPortDelay p) (b2n valid * 2 ^ 31 + (d % 2 ^ 24).toNat)).set (rPortOffset p) (o % 2 ^ 32).toNat

/-- The comparison with 28 ns (R284). -/
def State.neighbour (s : State) (p : Nat) : State :=
  let o := signedAt (s.get (rPortOffset p)) 32
  if s.counterState ≠ 2 ∨ (s.port p).exch = [] then s
  else if 1792 < o.natAbs then
    (if (s.port p).offEpisode then s
    else ((s.updPort p (fun q => { q with offEpisode := true })).orBits rTmStatus tsNeighbour).record 0x0505 uPort p (p + (o % 2 ^ 24).toNat * 2 ^ 8))
  else s.updPort p (fun q => { q with offEpisode := false })

/-- One exchange of port `p` (R283), kept as twice the delay and twice the offset in ns; while the device is in trial, one of Equinox's 256 (R287). -/
def State.exchange (s : State) (p : Nat) (t1 t2 t3 t4 : Nat) : State :=
  let d : Int := ((t4 : Int) - t1) - ((t3 : Int) - t2)
  let o : Int := ((t2 : Int) - t1) - ((t4 : Int) - t3)
  let s := s.updPort p (fun q => { q with exch := ((d, o) :: q.exch).take 256 })
  let n := s.field rEqxStatus 0 9
  if s.counterState = 1 ∧ s.upstream p ∧ n < 256 then
    { s.setField rEqxStatus 0 9 (n + 1) with time := { s.time with eqxSum := s.time.eqxSum + 32 * o } }
  else s

/-- `CALENDS_MARKER` (R283, R284, 08 R216): the marker at the front of the received ones, with the counter at its arrival. -/
def effCalendsMarker (p : Nat) (s : State) : State :=
  match (s.port p).calIn with
  | [] => s
  | (flit, at_) :: rest =>
    let s := s.updPort p (fun q => { q with calIn := rest })
    let bs := lineBytes flit
    if crc16 (bs.take 62) ≠ bigNum (bs.drop 62) then s.lkCount p (rHdrErr p) lsHdrErr
    else
      let tx := bigNum (bs.take 8)
      let echoTx := bigNum ((bs.drop 10).take 8)
      let echoRx := bigNum ((bs.drop 18).take 8)
      let s := if s.counterState = 1 ∧ s.upstream p ∧ s.field rEqxStatus 26 2 = 1 then s.setField rEqxStatus 26 2 2 else s
      let mark := (s.port p).marks.find? (fun m => m.t3.toNat == echoTx)
      let s := match mark with
        | some m => if m.t1.toNat = noTime ∨ m.t2.toNat = noTime ∨ echoRx = noTime then s else s.exchange p m.t1.toNat m.t2.toNat m.t3.toNat echoRx
        | none => s
      let s := s.updPort p (fun q => { q with lastTx := some (BitVec.ofNat 64 tx), lastRx := at_, stale := false })
      ((s.portMeans p (s.counterState == 2 && tx != noTime)).neighbour p).setReplayTimeout p

/-! Wall time (R290). -/

/-- `PTP_SYNC` (R290): firmware's client has synchronised. -/
def effPtpSync (off : W64) (s : State) : State :=
  if s.fwUp then { s.set64 rWallOffset off.toNat with time := { s.time with ptp := true } }.wallValid else s

/-! The meanings of the rows of this family. -/

/-- `CALENDS_MARKER` (R283). -/
def execCalendsMarker (p : Nat) (s : State) : Host.Outcome State Fault Refusal := .next (effCalendsMarker p s)

/-- `CALENDS_MARKER_SEND` (R282). -/
def execCalendsMarkerSend (p : Nat) (s : State) : Host.Outcome State Fault Refusal := .next (effCalendsMarkerSend p s)

/-- `STEP_REQUEST` (R268). -/
def execStepRequest (a : Agent) (val : W32) (s : State) : Host.Outcome State Fault Refusal := .next (effStepRequest a val s)

/-- `STEP_CHANGE` (R267). -/
def execStepChange (s : State) : Host.Outcome State Fault Refusal := .next (effStepChange s)

/-- `MARGIN_WARNING` (R273). -/
def execMarginWarning (r m : Nat) (s : State) : Host.Outcome State Fault Refusal := .next (effMarginWarning r m s)

/-- `MARGIN_WARN_EPISODE_END` (R273). -/
def execMarginWarnEpisodeEnd (s : State) : Host.Outcome State Fault Refusal := .next (effMarginWarnEpisodeEnd s)

/-- `MARGIN_CRITICAL` (R274). -/
def execMarginCritical (r m : Nat) (s : State) : Host.Outcome State Fault Refusal := .next (effMarginCritical r m s)

/-- `COUNTER_COMPARE` (R277). -/
def execCounterCompare (s : State) : Host.Outcome State Fault Refusal := .next (effCounterCompare s)

/-- `REFERENCE_LOSS` (R280). -/
def execReferenceLoss (s : State) : Host.Outcome State Fault Refusal := .next (effReferenceLoss s)

/-- `HOLDOVER_LIMIT` (R280). -/
def execHoldoverLimit (s : State) : Host.Outcome State Fault Refusal := .next (effHoldoverLimit s)

/-- `REFERENCE_RECOVERY` (R280). -/
def execReferenceRecovery (s : State) : Host.Outcome State Fault Refusal := .next (effReferenceRecovery s)

/-- `TIME_PLL_LOCK` (R279). -/
def execTimePllLock (s : State) : Host.Outcome State Fault Refusal := .next (effTimePllLock s)

/-- `PPS_EDGE` (R281). -/
def execPpsEdge (s : State) : Host.Outcome State Fault Refusal := .next (effPpsEdge s)

/-- `EQUINOX_START` (R285). -/
def execEquinoxStart (a : Agent) (val : W32) (s : State) : Host.Outcome State Fault Refusal := .next (effEquinoxStart a val s)

/-- `EQUINOX_PPS_TIMEOUT` (R286). -/
def execEquinoxPpsTimeout (s : State) : Host.Outcome State Fault Refusal := .next (effEquinoxPpsTimeout s)

/-- `EQUINOX_CORRECTION` (R287). -/
def execEquinoxCorrection (s : State) : Host.Outcome State Fault Refusal := .next (effEquinoxCorrection s)

/-- `EQUINOX_TRIAL_TIMEOUT` (R287). -/
def execEquinoxTrialTimeout (s : State) : Host.Outcome State Fault Refusal := .next (effEquinoxTrialTimeout s)

/-- `PTP_SYNC` (R290). -/
def execPtpSync (off : W64) (s : State) : Host.Outcome State Fault Refusal := .next (effPtpSync off s)

end Sys2Proof.Machine
end

