-- ==== Sys2Proof/Machine/Image.lean ====
section
/-! DEFINITION. The plan image (12 R312 to R315): its header, directory and sections as the loader reads them, and the checks of Table 12-10. -/

namespace Sys2Proof.Machine

/-! Bytes. -/

/-- The little-endian field of `n` bytes at offset `o`. -/
def leAt (bs : List Byte) (o n : Nat) : Nat := numOf ((bs.drop o).take n)

/-- `k` records of `n` bytes from offset `o`. -/
def recordsAt (bs : List Byte) (o n k : Nat) : List (List Byte) := (List.range k).map (fun i => (bs.drop (o + n * i)).take n)

/-- The range of bytes is zero. -/
def zeroAt (bs : List Byte) (o n : Nat) : Bool := ((bs.drop o).take n).all (· == 0)

/-- Reads `k` lines of HBM from `hla` on, as management reads them (06 R168). -/
def State.hbmLines (s : State) (hla : Nat) : Nat → State × List Byte
  | 0 => (s, [])
  | k + 1 =>
    let (s, bs) := s.hbmLines hla k
    let (s, v, _) := s.hbmHostRead (hla + k) false
    (s, bs ++ lineBytes v.data)

/-! Header and directory (Tables 12-1, 12-2). -/

/-- A directory entry. -/
structure DirEntry where
  typ : Nat
  count : Nat
  off : Nat
  len : Nat
  crc : Nat
  zero : Nat
  deriving DecidableEq, Repr

/-- Entry `i` of the directory. -/
def dirAt (bs : List Byte) (i : Nat) : DirEntry :=
  let o := 0x100 + 32 * i
  ⟨leAt bs o 2, leAt bs (o + 4) 4, leAt bs (o + 8) 8, leAt bs (o + 16) 8, leAt bs (o + 24) 8, leAt bs (o + 2) 2⟩

/-- The section types of Table 12-3. -/
def secTiles := 0x0001
def secSram := 0x0002
def secRoutes := 0x0003
def secSequence := 0x0004
def secAlmanac := 0x0005
def secHbm := 0x0006
def secHbmInit := 0x0007
def secDevices := 0x0008
def secOptical := 0x0009
def secTime := 0x000A
def secContexts := 0x000B
def secSync := 0x000C
def secActions := 0x000D
def secSignature := 0x00F0
def secTypes : List Nat :=
  [secTiles, secSram, secRoutes, secSequence, secAlmanac, secHbm, secHbmInit, secDevices, secOptical, secTime, secContexts, secSync, secActions, secSignature]
/-- The sections that every image holds. -/
def secRequired : List Nat := [secTiles, secSram, secRoutes, secSequence, secAlmanac, secHbm, secDevices, secContexts, secSync]

/-- The directory. -/
def dirOf (bs : List Byte) : List DirEntry := (List.range (leAt bs 6 2)).map (dirAt bs)

/-- The header meets Table 12-1. -/
def headerOk (bs : List Byte) : Bool :=
  let len := leAt bs 8 8
  let p := leAt bs 0x20 4
  let g := leAt bs 0x24 4
  decide (256 ≤ bs.length) && leAt bs 0 4 == 0x49504656 && leAt bs 4 2 == 1 && decide (1 ≤ leAt bs 6 2) && decide (leAt bs 6 2 ≤ 14)
    && len % 64 == 0 && decide (len ≤ 2 ^ 34) && leAt bs 0x10 8 != 0 && decide (1 ≤ leAt bs 0x1A 2) && decide (leAt bs 0x1A 2 ≤ 16384)
    && decide (leAt bs 0x1C 1 ≤ 1) && decide (leAt bs 0x1D 1 ≤ 4) && decide (1 ≤ leAt bs 0x1E 2) && decide (leAt bs 0x1E 2 ≤ 256)
    && decide (2000 ≤ p) && decide (p ≤ 1000000000) && decide (400 ≤ g) && decide (g ≤ 1000000) && decide (2 * g ≤ p)
    && decide (1 ≤ leAt bs 0x28 2) && decide (leAt bs 0x28 2 ≤ 4096) && zeroAt bs 0x2C 4 && zeroAt bs 0x40 192

/-- Sections begin at multiples of 64, stand in rising order without overlap, and lie within the image. -/
def placedOk (len : Nat) : Nat → List DirEntry → Bool
  | _, [] => true
  | lo, d :: ds => d.off % 64 == 0 && decide (lo ≤ d.off) && decide (d.off + d.len ≤ len) && placedOk len (d.off + d.len) ds

/-- The bytes of a section. -/
def sectionBytes (bs : List Byte) (d : DirEntry) : List Byte := (bs.drop d.off).take d.len

/-- The section of a type. -/
def sectionOf (bs : List Byte) (t : Nat) : Option (DirEntry × List Byte) :=
  ((dirOf bs).find? (fun d => d.typ == t)).map (fun d => (d, sectionBytes bs d))

/-- Each type stands at most once and is one of Table 12-3. -/
def typesOk : List DirEntry → Bool
  | [] => true
  | d :: ds => secTypes.contains d.typ && d.zero == 0 && ds.all (fun e => e.typ != d.typ) && typesOk ds

/-- The signature, when present, is last, 256 bytes, with CRC 0 (R313). -/
def sigPlaceOk (len : Nat) (ds : List DirEntry) : Bool :=
  match ds.getLast? with
  | none => true
  | some d => (ds.dropLast.all (fun e => e.typ != secSignature)) && (d.typ != secSignature || (d.crc == 0 && d.len == 256 && len == d.off + 256))

/-- The CRC-64 of every section but the signature. -/
def crcsOk (bs : List Byte) : Bool :=
  (dirOf bs).all (fun d => d.typ == secSignature || (crc64 (sectionBytes bs d)).toUInt64.toNat == d.crc)

/-- R312 and R313: the whole format. -/
def formatOk (bs : List Byte) : Bool :=
  headerOk bs && leAt bs 8 8 == bs.length
    && (let ds := dirOf bs
        decide (0x100 + 32 * ds.length ≤ bs.length) && placedOk bs.length (0x100 + 32 * ds.length) ds && typesOk ds && sigPlaceOk bs.length ds && crcsOk bs
          && secRequired.all (fun t => ds.any (fun d => d.typ == t)))

/-! Sections with a layout. -/

/-- The image's header fields. -/
def headOf (bs : List Byte) : PlanHead :=
  ⟨leAt bs 0x10 8, leAt bs 0x18 2, leAt bs 0x1A 2, leAt bs 0x1C 1 == 1, leAt bs 0x1D 1, leAt bs 0x1E 2, leAt bs 0x20 4, leAt bs 0x24 4, leAt bs 0x2A 2⟩

/-- A port record (Table 12-5). -/
def portOf (r : List Byte) : PortPlan :=
  let f := leAt r 2 1
  ⟨leAt r 0 2, bitAt f 7, bitAt f 6, f % 16, leAt r 3 1, leAt r 4 4⟩

/-- A port record's reserved bits are zero and its REPLAYS lies in range. -/
def portRecOk (r : List Byte) : Bool := zeroAt r 8 8 && bitsAt (leAt r 2 1) 4 2 == 0 && (!(portOf r).used || (decide (1 ≤ leAt r 3 1) && decide (leAt r 3 1 ≤ 8)))

/-- The list as a map that keeps the entries that differ from 0. -/
def mapOf (xs : List Nat) : SMap Nat := ((List.range xs.length).zip xs).filter (fun e => e.2 != 0)

/-- A context record (Table 12-6). -/
def ctxOf (r : List Byte) : CtxPlan :=
  ⟨leAt r 0 1, leAt r 2 2, (recordsAt r 0x40 8 8).map (fun w => (BitVec.ofNat 32 (leAt w 0 4), BitVec.ofNat 32 (leAt w 4 4))),
    (recordsAt r 0x80 2 4096).map (fun e => leAt e 0 2)⟩

/-- The plan that an image of good format holds; none when a section's bytes are malformed. -/
def planOf (bs : List Byte) : Option Plan := do
  let sec := fun t => (sectionOf bs t).map (fun x => x.2)
  let count := fun t => ((sectionOf bs t).map (fun x => x.1.count)).getD 0
  let tiles ← (sec secTiles).bind Config.parseTiles
  let sram ← (sec secSram).bind Config.parseSram
  let routes ← (sec secRoutes).bind Config.parseMeshRoutes
  let seqB ← sec secSequence
  let almanac ← (sec secAlmanac).bind Config.parseAlmanac
  let hbm ← (sec secHbm).bind Config.parseHbm
  let init ← match sec secHbmInit with
    | some b => Config.parseHbmInit b
    | none => some []
  let dev ← sec secDevices
  let time ← match sec secTime with
    | some b => (Config.parseTime b).map some
    | none => some none
  let ctxB ← sec secContexts
  let sync ← (sec secSync).bind Config.parseSync
  let actions ← match sec secActions with
    | some b => Config.parseActions b
    | none => some []
  let optB := (sec secOptical).getD []
  let portRecs := recordsAt dev 65536 16 16
  if dev.length = 65536 + 256 ∧ portRecs.all portRecOk ∧ seqB.length = 2 * count secSequence ∧ count secSequence = leAt bs 0x28 2 ∧ ctxB.length = 8320 * count secContexts
      ∧ (optB = [] ∨ optB.length = 12 * 4096)
      ∧ (recordsAt seqB 0 2 (count secSequence)).all (fun r => bitsAt (leAt r 0 2) 14 2 == 0)
      ∧ (recordsAt ctxB 0 8320 (count secContexts)).all (fun r => zeroAt r 1 1 && zeroAt r 4 60) then
    some
      { head := headOf bs, tiles := tiles, sram := sram, routes := routes
        seq := (recordsAt seqB 0 2 (count secSequence)).map (fun r => ⟨bitsAt (leAt r 0 2) 8 6, leAt r 0 1⟩)
        almanac := almanac, hbm := hbm, hbmInit := init
        ranks := mapOf ((recordsAt dev 0 4 16384).map (fun r => leAt r 0 4))
        ports := portRecs.map portOf
        optical := mapOf ((recordsAt optB 0 12 (optB.length / 12)).map (fun r => leAt r 0 12))
        time := time
        contexts := (recordsAt ctxB 0 8320 (count secContexts)).map ctxOf
        sync := sync, actions := actions
        signed := (sec secSignature).isSome }
  else none

/-! Signatures (R315). -/

/-- The digest that a signature covers: everything before the signature section. -/
def signedDigest (bs : List Byte) : BitVec 384 :=
  Config.sha384 (match sectionOf bs secSignature with
    | some (d, _) => bs.take d.off
    | none => bs)

/-- The signature policy accepts the image. -/
def State.signatureOk (s : State) (bs : List Byte) : Bool :=
  match sectionOf bs secSignature with
  | none => !s.mg.otp.required
  | some (_, b) =>
    let k := leAt b 0 1
    zeroAt b 1 63 && zeroAt b 0xA0 96 && decide (k < 4) && !bitAt s.mg.otp.planRevoked k
      && (match smapGet (fun _ => none) s.mg.otp.planKeys k with
          | none => false
          | some key => Config.ecdsaP384 key (signedDigest bs) (BitVec.ofNat 384 (bigNum ((b.drop 0x40).take 48))) (BitVec.ofNat 384 (bigNum ((b.drop 0x70).take 48))))

/-! The checks of Table 12-10, each answering the locus of its first failure. -/

/-- The regions of a tile: instructions, descriptors, scratch and queues (02 R47). -/
def TilePlan.regions (t : TilePlan) : List (Nat × Nat) :=
  [regionOf_ t.instr, regionOf_ t.desc, regionOf_ t.scratch]
    ++ (t.queues.filter (fun q => bitAt q.cfg.toNat 31)).map (fun q => (bitsAt q.cfg.toNat 16 14, bitsAt q.cfg.toNat 0 14 + 1))

/-- No two regions overlap. -/
def disjoint : List (Nat × Nat) → Bool
  | [] => true
  | r :: rs => rs.all (fun x => r.2 == 0 || x.2 == 0 || decide (r.1 + r.2 ≤ x.1) || decide (x.1 + x.2 ≤ r.1)) && disjoint rs

/-- Queues, regions and history of one tile (02 R47 to R49). -/
def TilePlan.shapeOk (t : TilePlan) : Bool :=
  disjoint t.regions && t.regions.all (fun r => decide (r.1 + r.2 ≤ 16384)) && decide (t.queues.length ≤ 64)
    && decide (1 ≤ (regionOf_ t.instr).2) && decide ((regionOf_ t.desc).2 ≤ 64)
    && t.queues.all (fun q => !bitAt q.cfg.toNat 31 ||
        (let d := bitsAt q.cfg.toNat 0 14 + 1
         decide (2 ≤ d) && decide (bitsAt q.hist.toNat 0 14 + 2 ≤ d) && decide (q.head < d) && decide (q.tail < d)))

/-- An address descriptor as 02 Table 2-5 asks, on a tile with the given scratch region. -/
def descOk (scratch : Nat × Nat) (d : Nat) : Bool :=
  let levels := bitsAt d 410 3
  let lo := bitsAt d 466 14
  let hi := bitsAt d 482 14
  bitsAt d 496 16 == 0 && bitsAt d 480 2 == 0 && bitsAt d 448 18 == 0 && bitsAt d 384 26 == 0 && decide (bitsAt d 413 3 ≤ 4)
    && decide (1 ≤ levels) && decide (levels ≤ 6)
    && (List.range 6).all (fun l => if l < levels then bitsAt d (64 * l + 52) 12 == 0 else bitsAt d (64 * l) 64 == 0)
    && decide (scratch.1 ≤ lo) && decide (lo ≤ hi) && decide (hi < scratch.1 + scratch.2)

/-- An eve range descriptor (09 R247). -/
def rangeDescOk (t : TilePlan) (d : Nat) : Bool :=
  bitsAt d 320 192 == 0 && bitsAt d 16 48 == 0 && bitsAt d 0 16 != 0
    && (List.range 4).all (fun i =>
        let w := bitsAt d (64 * (i + 1)) 64
        let lo := bitsAt w 0 14
        let hi := bitsAt w 32 14
        w &&& (2 ^ 64 - 1 - 2 ^ 63 - (2 ^ 46 - 2 ^ 32) - (2 ^ 14 - 1)) == 0
          && (!bitAt w 63 || (decide (lo ≤ hi) && (t.regions.drop 2).any (fun r => decide (r.1 ≤ lo) && decide (hi < r.1 + r.2)))))

/-- The descriptor lines that the image supplies, and the whole instruction region supplied. -/
def Plan.tileLinesOk (p : Plan) (v : Nat) (t : TilePlan) : Bool :=
  let (i0, ni) := regionOf_ t.instr
  let (d0, nd) := regionOf_ t.desc
  (List.range ni).all (fun k => (p.sramLine v (i0 + k)).isSome)
    && (List.range nd).all (fun k => match p.sramLine v (d0 + k) with
        | none => true
        | some d => if bitAt t.eveMask.toNat k then rangeDescOk t d.toNat else descOk (regionOf_ t.scratch) d.toNat)

/-- TILES: the records, the steward limits (02 R57), the runs of SRAM, decoupled queues (06 R145), bank placement (02 R46). -/
def Plan.tilesBad (p : Plan) : Option Nat :=
  let g := p.head.grid44
  let stew := (List.range p.tiles.length).filter (fun v => match p.tiles[v]? with
    | some t => t.steward
    | none => false)
  if p.tiles.length ≠ gridTiles g ∨ p.routes.length ≠ gridTiles g then some 0
  else
    match firstBad p.tiles.length (fun v => match p.tiles[v]? with
        | some t => t.shapeOk && p.tileLinesOk v t
        | none => false) with
    | some v => some v
    | none =>
      if 64 < stew.length ∨ (List.range 4).any (fun d => decide (16 < (stew.filter (fun v => virtDie g v == d)).length)) then stew.head?
      else
        match p.sram.find? (fun r => !(decide (r.at_ < gridTiles g) && decide (r.first + r.data.length ≤ 16384))) with
        | some r => some r.at_
        | none =>
          match p.decoupledBad with
          | some v => some v
          | none => p.banksBad

/-- The windows of every context. -/
def Plan.windows (p : Plan) : List (W32 × W32) := (p.contexts.map (fun c => c.windows)).flatten

/-- A window's lines, first and last, when it grants anything. -/
def windowLines (w : W32 × W32) : Option (Nat × Nat) :=
  if bitsAt w.1.toNat 30 2 = 0 then none else some (16 * bitsAt w.1.toNat 0 29, 16 * bitsAt w.2.toNat 0 29 + 15)

/-- Two ranges of lines meet. -/
def meets (a n b k : Nat) : Bool := decide (a < b + k) && decide (b < a + n)

/-- The dump region's first line. -/
def Plan.dumpFirst (p : Plan) : Nat := bitsAt p.sync.dump.toNat 0 12 * 2 ^ 21

/-- Every line of a range lies within HBM. -/
def State.rangeInHbm (s : State) (a n : Nat) : Bool := n == 0 || (s.inHbm a && s.inHbm (a + n - 1) && decide (a / 2 ^ 30 = (a + n - 1) / 2 ^ 30))

/-- HBM (01 R33, 06 R158, R162 to R165, R169, 11 R305). -/
def State.hbmBad (s : State) (p : Plan) : Option Nat :=
  let t := bitsAt p.hbm.tempLimit.toNat 0 8
  let dump := bitAt p.sync.dump.toNat 31
  if !(decide (500 ≤ p.hbm.spacing) && decide (p.hbm.spacing ≤ 100000)) || !(decide (60 ≤ t) && decide (t ≤ 95))
      || (List.range 8).any (fun c => decide (smapGet (fun _ => 0) s.fuse.rfm c < p.hbm.rfm)) then some 0
  else if dump && (!s.rangeInHbm p.dumpFirst (2 ^ 21)
      || p.windows.any (fun w => match windowLines w with
        | some (a, b) => meets p.dumpFirst (2 ^ 21) a (b + 1 - a)
        | none => false)) then some 0
  else
    match p.shapeBad (fun sh => sh.xfers.all (fun l => l.2.all (fun x => decide (x.lw ≤ 64) && decide (x.phase < 1024)))) with
    | some i => some i
    | none => p.commandsBad

/-- Two valid rank entries hold one address. -/
def sameAddr : List (Nat × Nat) → Bool
  | [] => false
  | e :: es => (bitAt e.2 31 && es.any (fun x => bitAt x.2 31 && bitsAt x.2 0 16 == bitsAt e.2 0 16)) || sameAddr es

/-- DEVICES (09 R234 to R236, 14 R364): the locus is the port or the route. -/
def State.devicesBad (s : State) (p : Plan) : Option Nat :=
  let own := smapGet (fun _ => 0) p.ranks p.head.rank
  let used := fun i => match p.ports[i]? with
    | some q => q.used
    | none => false
  if sameAddr p.ranks || !bitAt own 31 || bitsAt own 0 16 != s.field rDeviceAddr 0 16 then some p.head.rank
  else
    match p.optical.find? (fun e => orValid e.2 && (orRole e.2 == 0 || (orRole e.2 != 1 && !used (orIn e.2)) || (orRole e.2 != 3 && !used (orOut e.2))
        || bitsAt e.2 76 4 != 0 || bitsAt e.2 0 15 != 0)) with
    | some e => some e.1
    | none =>
      match p.osendBad with
      | some r => some r
      | none =>
      firstBad 16 (fun i => !used i || p.almanac.shapes.all (fun sh =>
        (let x := smapGet (fun _ => (0, 0)) sh.exch i
         decide (1 ≤ x.1) && decide (x.1 ≤ 16))
          && (smapGet (fun _ => []) sh.arrivals (2 * i + 1)).any (fun a => a.typ == 3)))

/-- TIME (10 R278): TM_REF_CTRL's value, which names a port on every device but the root and none there, and the marker period. -/
def Plan.timeBad (p : Plan) : Option Nat :=
  let used := fun i => match p.ports[i]? with
    | some q => q.used
    | none => false
  match p.time with
  | none => none
  | some ⟨root, ref, per⟩ =>
    let v := ref.toNat
    let prim := bitsAt v 30 2
    let sec := bitsAt v 24 2
    let bad := prim == 3 || (root == p.head.rank) == (prim == 2) || sec == 1 || sec == 3 || (prim == 2 && !used (bitsAt v 26 4)) || (sec == 2 && !used (bitsAt v 20 4))
      || (prim == 2 && sec == 2 && bitsAt v 26 4 == bitsAt v 20 4) || bitsAt v 0 19 != 0
      || !(decide (4096 ≤ per.toNat) && decide (per.toNat ≤ 1048576))
    if bad then some (bitsAt v 26 4) else none

/-- Two context records bind one function. -/
def bindClash : List CtxPlan → Bool
  | [] => false
  | c :: cs => cs.any (fun d => d.bind &&& c.bind != 0 || d.ctx == c.ctx) || bindClash cs

/-- CONTEXTS (R314, 11 R292, R303). -/
def Plan.contextsBad (p : Plan) : Option Nat :=
  match p.seq.find? (fun e => !(decide (e.shape < p.head.shapes)) || !(p.contexts.any (fun c => c.ctx == e.ctx))) with
  | some e => some e.ctx
  | none =>
    if bindClash p.contexts || p.contexts.any (fun c => decide (64 ≤ c.ctx)) then (p.contexts.head?).map (fun c => c.ctx)
    else if p.sync.records.any (fun r => decide (32768 ≤ r.1) || r.2.length != 4) || p.sync.vigils.length != 8
        || p.sync.vigils.any (fun v => decide (v.toNat < 100)) then some 0
    else none

/-- The words of an action are well formed (R325, Table 12-11): its identifier translates under `xl`. -/
def actionOk (xl : Nat → Nat → Bool) (a : Action) : Bool :=
  let kind := bitsAt a.w3.toNat 28 4
  let w4 := a.w4.toNat
  let w5 := a.w5.toNat
  let rwf := fun (o : Nat) => o % 4 == 0 && ((decide (rCtxBind 0 ≤ o) && decide (o ≤ rCtxBind 15))
    || (decide (TLW 0 0 ≤ o) && decide (o < TLW tileCount 0) && [rTlTraceCtrl, rTlTraceLo, rTlTraceHi].contains (o % 0x10000)))
  bitsAt a.w3.toNat 0 28 == 0
    && (((kind == 1 || kind == 2) && w4 &&& (2 ^ 32 - 1 - 0x3F0FFF) == 0 && decide (1 ≤ w5) && decide (w5 < 65536) && xl (bitsAt w4 16 6) (bitsAt w4 0 12))
      || (kind == 3 && w4 == 0 && w5 == 0) || (kind == 4 && rwf w4))

/-- Entry `vid` of a context of the image translates. -/
def Plan.translates (p : Plan) (ctx vid : Nat) : Bool :=
  match p.contexts.find? (fun c => c.ctx == ctx) with
  | some c => bitAt (c.xlate.getD vid 0) 15
  | none => false

/-- STAGE (Table 12-10). -/
def State.stageBad (s : State) (p : Plan) (hla lines : Nat) : Bool :=
  let dump := bitAt p.sync.dump.toNat 31
  (dump && meets hla lines p.dumpFirst (2 ^ 21))
    || p.hbmInit.any (fun r => meets r.first r.data.length hla lines || (dump && meets r.first r.data.length p.dumpFirst (2 ^ 21))
        || !s.rangeInHbm r.first r.data.length)

/-- The reject reasons. -/
def rsFormat := 0x01
def rsPart := 0x02
def rsSignature := 0x03
def rsLibrary := 0x04
def rsTiles := 0x05
def rsFit := 0x06
def rsMesh := 0x07
def rsHbm := 0x08
def rsDevices := 0x09
def rsTime := 0x0A
def rsContexts := 0x0B
def rsStage := 0x0C
def rsClock := 0x0D
def rsPorts := 0x0E
def rsState := 0x0F
def rsSender := 0x10
def rsRequest := 0x11

/-- The first check that the plan of an image fails: reason and locus, in the order of Table 12-10. -/
def State.planBad (s : State) (p : Plan) (bs : List Byte) (hla : Nat) : Option (Nat × Nat) :=
  let tag := fun (r : Nat) (x : Option Nat) => x.map (fun l => (r, l))
  let stewards := p.tiles.any (fun t => t.steward)
  let uses := p.ports.any (fun q => q.used)
  let firstOf := [
    if !p.head.grid44 ∧ (List.range 4).any (fun d => s.fusedRows d != 0) then some (rsPart, 0) else none,
    if s.signatureOk bs then none else some (rsSignature, secSignature),
    if uses ∧ (p.time = none ∨ (sectionOf bs secOptical).isNone) then some (rsFormat, secTime) else none,
    if p.head.lib = (if stewards then s.get rLibVersion % 65536 else 0) then none else some (rsLibrary, 0),
    tag rsTiles p.tilesBad,
    tag rsFit p.fitBad,
    tag rsMesh p.meshBad,
    tag rsHbm (s.hbmBad p),
    tag rsDevices (s.devicesBad p),
    tag rsTime p.timeBad,
    tag rsContexts p.contextsBad,
    if s.stageBad p hla (bs.length / 64) then some (rsStage, 0) else none,
    if p.actions.length ≤ 256 ∧ p.actions.all (actionOk p.translates) then none else some (rsRequest, secActions)]
  (firstOf.find? (fun x => x.isSome)).getD none

end Sys2Proof.Machine
end

