-- ==== Sys2Proof/Machine/Loader.lean ====
section
/-! DEFINITION. The loader (12 R316 to R327): loading, checking, arming, stopping and unloading a plan, scheduled actions and intercalary requests. -/

namespace Sys2Proof.Machine

/-! Requests (R316). -/

/-- Answers a loader request: PL_LOAD_RESULT, the locus of a REJECTED one, vector 8, the reply words. -/
def State.loaderReply (s : State) (r : Req) (op status reason locus : Nat) : State :=
  let s := s.set rLoadResult (status * 2 ^ 28 + op * 2 ^ 16 + reason)
  let s := if status = stRejected then s.set rLoadLocus locus else s
  (s.raiseVec 8).reply r status
    (if status = stRejected then [reason, locus] else if status = stBusySelftest then [s.remaining] else [])

/-- A loader request in service: BUSY-SELFTEST in self-test, but for PL_LOAD (00 R13); else `f` on its words. -/
def State.loaderDo (s : State) (r : Req) (op : Nat) (f : List W32 → State) : State :=
  if !s.serves r op then s
  else if s.selftest && !servedInTest op then s.loaderReply r op stBusySelftest 0 0
  else f (s.reqWords r)

/-- PF0 or management firmware. -/
def State.loaderSender (s : State) (r : Req) : Bool := [0x00, 0x11].contains (s.reqSender r)

/-- The status of SY_STATUS.HANG (11 R310). -/
def State.hangs (s : State) : Bool := s.bit rSyStatus 31

/-! Loading (R318, R319). -/

/-- The staging HLA and the image's length of a request. -/
def stagingOf (ws : List W32) : Nat × Nat := (word ws 1 + 2 ^ 32 * word ws 2, word ws 3 + 2 ^ 32 * word ws 4)

/-- Step 1 of R318: the status and reason that a load or a verification fails with, none where it passes. -/
def State.loadGate (s : State) (r : Req) (ws : List W32) (verify : Bool) : Option (Nat × Nat) :=
  if !s.loaderSender r then some (stRejected, rsSender)
  else if !onlyBits (word ws 0) (0xFF000000 + (if verify then 1 else 3)) ∨ 2 ≤ word ws 2 ∨ !zeroFrom ws 5 then some (stRejected, rsRequest)
  else if !verify ∧ !s.selftest ∧ s.bit rMgStatus 25 then some (stRejected, rsPart)
  else if (!verify ∧ s.planRuns) ∨ s.hangs then some (stLocked, 0)
  else if s.planState = psLoading ∨ s.bit rDumpStatus 31 then some (stBusy, 0)
  else none

/-- What step 2 finds: the plan and the digest of its image, or the reason and the locus of a reject. -/
inductive Checked where
  | ok (p : Plan) (digest : Nat)
  | bad (reason locus : Nat)
  deriving DecidableEq, Repr

/-- Step 2 of R318: the image is read from the staging region and checked; a reuse load compares its digest only. -/
def State.checkImage (s : State) (hla len : Nat) (reuse : Bool) : State × Checked :=
  let lines := (len + 63) / 64
  if len = 0 ∨ 2 ^ 34 < len ∨ !s.rangeInHbm hla lines then (s, .bad rsStage 0)
  else
    let (s, got) := s.hbmLines hla lines
    let bs := got.take len
    let dg := (Config.sha384 bs).toNat
    if reuse ∧ s.loader.digest ≠ some dg then (s, .bad rsFormat 0)
    else if !reuse ∧ headerOk bs ∧ leAt bs 8 8 ≠ len then (s, .bad rsStage 0)
    else if !reuse ∧ !formatOk bs then (s, .bad rsFormat 0)
    else
      match planOf bs with
      | none => (s, .bad rsFormat 0)
      | some p =>
        if reuse then (s, .ok p dg)
        else match s.planBad p bs hla with
          | some (reason, locus) => (s, .bad reason locus)
          | none => (s, .ok p dg)

/-- The counts of a tile that run "since plan start", and its sticky per-plan records (R317, 17 Table 17-3A). -/
def sincePlan (o : Nat) : Bool :=
  [rTlSlip, rTlMxCheckCnt, rTlMxSpreadCnt, rTlMxRetired, rTlVxResidueCnt, rTlVxWindowCnt, rTlVxRetired, rTlMvWaited, rTlMvPoisonIn, rTlMvRetired,
    rTlMeshColl, rTlMeshMisroute, rTlMeshCross, rTlHzCnt, rTlHzFirst, rTlHzFirstSlot, rTlEveReexec, rTlEveReexecCyc, rTlEveX, rTlEveDead, rTlEveEscape,
    rTlTraceCnt, rTlTraceDrop, rTlDelay].contains o || (decide (0x1200 ≤ o) && decide (o < 0x12C0))

/-- The resets of step 4 on one tile (in production mode the detector's registers read 0, 07 R190): barriers, scalar registers, counts since plan start, eve bits, tags and ranges, the arrival tracker, the hazard
detector; nothing is queued or in flight. -/
def Tile.planReset (tl : Tile) (debug : Bool) : Tile :=
  let regs := smapDrop tl.regs (fun o => sincePlan o || (decide (0x40 ≤ o) && decide (o < 0x80)))
  let tl := { tl with
    regs := regs, eve := [], sregs := [], seq := .idle, mx := .idle, vx := .idle, mv := .idle, now := 0, stop := 0, signals := [], ovf := [], began := [],
    outbox := [], accesses := [], dead := false, withheld := false, tags := [], ranges := [], openRange := none, reexec := [], rangeCtr := 0, again := none, saved := [],
    redoFrom := 0, mvHeld := false, tracker := [], syncWait := none, frozen := false, hz := [], hzFrame := 0, trace := [], slipFrom := none,
    slipCause := 0, retired := 0 }
  if debug then tl.set rTlHzStatus (setBitsAt (tl.get rTlHzStatus) 31 1 1) else (((tl.set rTlHzStatus 0).set rTlHzCnt 0).set rTlHzFirst 0).set rTlHzFirstSlot 0

/-- A queue's registers as the image gives them; its push and pop counts are 0. -/
def Tile.loadQueue (tp : TilePlan) (q : Nat) (tl : Tile) : Tile :=
  let x := tp.queues.getD q ⟨0, 0, 0, 0⟩
  (((((tl.set (rTlQCfg q) (tileKeeps (rTlQCfg q) x.cfg)).set (rTlQHist q) (tileKeeps (rTlQHist q) x.hist)).setPtr q x.head x.tail).set (rTlQPush q) 0).set (rTlQPop q) 0)

/-- The tile structures of virtual tile `v` (step 4). -/
def Tile.loadPlan (tl : Tile) (v pad : Nat) (tp : TilePlan) (routes : List W32) : Tile :=
  let tl := ((tl.set rTlInstr (tileKeeps rTlInstr tp.instr)).set rTlDesc (tileKeeps rTlDesc tp.desc)).set rTlScratch (tileKeeps rTlScratch tp.scratch)
  let tl := (tl.set rTlId (b2n tp.steward * 2 ^ 30 + v / 32 * 2 ^ 13 + v % 32 * 2 ^ 8)).set rTlMeshPad pad
  let tl := upto (Tile.loadQueue tp) 0 64 tl
  { tl with routes := ((List.range routes.length).zip routes).filter (fun e => e.2 != 0) }

/-- TL_MESH_PAD of virtual tile `v` (07 R195): the virtual cost of the vertical hops into it less their physical cost. -/
def State.padOf (s : State) (grid44 : Bool) (v : Nat) : Nat :=
  let pad := fun (w : Nat) =>
    let want := if virtDie grid44 v = virtDie grid44 w then 6 else 10
    want - hopBase (s.physOf grid44 w) (s.physOf grid44 v)
  if !grid44 then 0
  else (if 32 ≤ v then pad (v - 32) else 0) + 16 * (if v + 32 < gridTiles true then pad (v + 32) else 0)

/-- Writes a run of SRAM lines, whole and good. -/
def Tile.loadLines (tl : Tile) (first : Nat) (data : List LineBits) : Tile :=
  ((List.range data.length).zip data).foldl (fun tl e =>
    let l := first + e.1
    { tl with mem := bytesPut tl.mem (64 * l) 64 e.2.toNat, poison := ssetSet tl.poison l false, eve := ssetSet tl.eve l false,
              wrong := smapDrop tl.wrong (fun k => k / 8 == l) }) tl

/-- Step 3: the ports are disabled, and the plan's identity and tables are in force. -/
def State.loadStep3 (s : State) (p : Plan) : State :=
  let s := (List.range 16).foldl (fun s i => s.portCtrl i false) s
  let s := ((s.set64 rPlanId p.head.planId).set rRank p.head.rank).set rPeriod p.head.period
  { s.set rGuard p.head.guard with loader := { s.loader with plan := some p } }

/-- Step 4: the tile structures and the resets. -/
def State.loadStep4 (s : State) (p : Plan) (debug : Bool) : State :=
  let s := s.enabledTiles.foldl (fun s n => s.setTile n ((s.tile n).planReset debug)) s
  let s := (List.range p.tiles.length).foldl (fun s v =>
    match p.tiles[v]? with
    | some tp =>
      let n := s.physOf p.head.grid44 v
      s.setTile n ((s.tile n).loadPlan v (s.padOf p.head.grid44 v) tp ((p.routes[v]?).getD []))
    | none => s) s
  ((s.set rUnclean 0).set rIcalCnt 0).set rLastStatus 0

/-- Step 5: the SRAM runs and the HBM_INIT runs. -/
def State.loadStep5 (s : State) (p : Plan) : State :=
  let s := p.sram.foldl (fun s r =>
    let n := s.physOf p.head.grid44 r.at_
    s.setTile n ((s.tile n).loadLines r.first r.data)) s
  p.hbmInit.foldl (fun s r => ((List.range r.data.length).zip r.data).foldl (fun s e => s.hbmWrite (r.first + e.1) ⟨e.2, false⟩) s) s

/-- A context's windows on one controller: the image's, or none for a context without a record. -/
def State.loadWindows (s : State) (p : Plan) (c x : Nat) : State :=
  let ws := match p.contexts.find? (fun k => k.ctx == x) with
    | some k => k.windows
    | none => []
  (List.range 8).foldl (fun s w =>
    let e := ws.getD w (0, 0)
    (s.set (rWinBase c x w) (keeps (rWinBase c x w) e.1)).set (rWinLimit c x w) (keeps (rWinLimit c x w) e.2)) s

/-- The valid entries of the contexts' translation tables, by 4096·context + identifier. -/
def Plan.xlateMap (p : Plan) : SMap (Option Nat) :=
  p.contexts.foldl (fun m k => ((List.range 4096).zip k.xlate).foldl (fun m e =>
    if bitAt e.2 15 then smapPut (fun _ => none) m (4096 * k.ctx + e.1) (some (bitsAt e.2 0 15)) else m) m) []

/-- The word of PL_CTX_BIND_f. -/
def Plan.bindWord (p : Plan) (f : Nat) : Nat :=
  match p.contexts.find? (fun k => bitAt k.bind f) with
  | some k => 2 ^ 31 + k.ctx
  | none => 0

/-- Step 6: windows, sync records and tables, vigils, the dump region, the time tree, bindings, actions, and the figures of the ALMANAC section that
registers show. -/
def State.loadStep6 (s : State) (p : Plan) : State :=
  let s := (List.range 8).foldl (fun s c =>
    ((List.range 64).foldl (fun s x => s.loadWindows p c x) s).set (rHbTempLimit c) (keeps (rHbTempLimit c) p.hbm.tempLimit)) s
  let s := p.sync.records.foldl (fun s r => s.setCounter r.1 ⟨r.2.getD 0 0, r.2.getD 1 0, r.2.getD 2 0, r.2.getD 3 0⟩) s
  let s := (List.range 8).foldl (fun s v => s.set (rVigil v) (p.sync.vigils.getD v 0).toNat) s
  let s := (s.set rDumpBase (keeps rDumpBase p.sync.dump)).clrBits rSyStatus (2 ^ 28)
  let s := { s with sync := { s.sync with xlate := p.xlateMap, due := [], hung := [], hist := [], base := [] } }
  let s := match p.time with
    | some x => (s.setRef (keeps rTmRef x.ref)).set rCalends (keeps rCalends x.period)
    | none => s
  let s := (List.range 16).foldl (fun s f => s.set (rCtxBind f) (p.bindWord f)) s
  let s := ((s.set rTraceCap p.almanac.traceCap).set rMfBase (keeps rMfBase p.almanac.mfBase)).set rMfCap (keeps rMfCap p.almanac.mfCap)
  { s with loader := { s.loader with actions := p.actions }, frame := .idle, shadow := [] }

/-- Step 7: the used ports are enabled, the digest and the mode are recorded, the plan is LOADED. -/
def State.loadStep7 (s : State) (p : Plan) (l : Loading) : State :=
  let s := s.usedPorts.foldl (fun s i =>
    (s.setField (rLkCtrl i) 30 1 (b2n (match p.ports[i]? with
      | some q => q.laneTol
      | none => false))).portCtrl i true) s
  let s := { s with loader := { s.loader with loading := none, digest := some l.digest } }
  (s.set rPlState (psLoading * 2 ^ 29 + b2n l.debug * 2 ^ 28 + b2n p.signed * 2 ^ 27)).enter psLoaded

/-- A load: step 1, then step 2, then steps 3 to 6; step 7 and the reply are those of `LOAD_COMPLETION`. -/
def State.load (s : State) (r : Req) (ws : List W32) (reuse : Bool) : State :=
  match s.loadGate r ws false with
  | some (st, why) => s.loaderReply r 0x20 st why 0
  | none =>
    if s.selftest then
      (if s.loader.held.isSome then s.loaderReply r 0x20 stBusy 0 0
       else
        let s := match r with
          | .chan c => s.setChnl c { s.chnl c with held := true }
          | .firm _ => s
        { s with loader := { s.loader with held := some r } })
    else
      let (hla, len) := stagingOf ws
      match s.checkImage hla len reuse with
      | (s, .bad why at_) => s.loaderReply r 0x20 stRejected why at_
      | (s, .ok p dg) =>
        let s := s.enter psLoading
        let debug := bitAt (word ws 0) 0
        let s := ((((s.loadStep3 p).loadStep4 p debug).loadStep5 p).loadStep6 p)
        { s with loader := { s.loader with loading := some ⟨r, debug, dg⟩ } }

/-- REUSE of a load request. -/
def reuseBit (ws : List W32) : Bool := bitAt (word ws 0) 1

/-- `PL_LOAD` (R318): a full load. -/
def effPlLoad (r : Req) (s : State) : State := s.loaderDo r 0x20 (fun ws => if reuseBit ws then s else s.load r ws false)

/-- `PL_LOAD_REUSE` (R319). -/
def effPlLoadReuse (r : Req) (s : State) : State := s.loaderDo r 0x20 (fun ws => if reuseBit ws then s.load r ws true else s)

/-- `HELD_LOAD_BEGIN` (00 R13): self-test is over and a load has been held. -/
def effHeldLoadBegin (s : State) : State :=
  match s.loader.held with
  | some r =>
    if s.selftest || !s.bit rMgStatus 24 then s
    else
      let s := { s with loader := { s.loader with held := none } }
      let s := match r with
        | .chan c => s.setChnl c { s.chnl c with held := false }
        | .firm _ => s
      s.load r (s.reqWords r) (reuseBit (s.reqWords r))
  | none => s

/-- The device fault that ends a load (R318): its step, 3 to 7, is a free value; the device is EMPTY. -/
def State.loadFault (s : State) (l : Loading) : State :=
  let (v, s) := s.draw
  let s := s.record 0x0702 uDevice 0 (3 + v.toNat % 5)
  let s := { s.setRef 0 with loader := { s.loader with loading := none, plan := none, actions := [] } }
  ((s.set rPlState (psLoading * 2 ^ 29)).enter psEmpty).loaderReply l.req 0x20 stFault 0 0

/-- `LOAD_COMPLETION` (R318). -/
def effLoadCompletion (fault : Bool) (s : State) : State :=
  match s.loader.loading, s.loader.plan with
  | some l, some p => if fault then s.loadFault l else (s.loadStep7 p l).loaderReply l.req 0x20 stOk 0 0
  | _, _ => s

/-- `PL_VERIFY` (R319). -/
def effPlVerify (r : Req) (s : State) : State :=
  s.loaderDo r 0x21 (fun ws =>
    match s.loadGate r ws true with
    | some (st, why) => s.loaderReply r 0x21 st why 0
    | none =>
      match s.checkImage (stagingOf ws).1 (stagingOf ws).2 false with
      | (s, .bad why at_) => s.loaderReply r 0x21 stRejected why at_
      | (s, .ok _ _) => s.loaderReply r 0x21 stOk 0 0)

/-! Unloading (R320). -/

/-- The library carried by the running firmware goes into the routine stores (02 R59). -/
def State.storeLibrary (s : State) : State :=
  { s.setField rLibVersion 0 16 (s.field rLibVersion 16 16) with library := Config.libraryOf (s.field rLibVersion 16 16) }

/-- What PL_UNLOAD does. -/
def State.unload (s : State) : State :=
  let s := (s.set64 rPlanId 0).set rRank 0
  let s := s.enabledTiles.foldl (fun s n => s.setTile n { s.tile n with routes := [] }) s
  let s := (List.range 8).foldl (fun s c => (List.range 512).foldl (fun s k => s.clrBits (HB c (0x1000 + 8 * k)) (2 ^ 31 + 2 ^ 30)) s) s
  let s := (List.range 16).foldl (fun s p => s.portCtrl p false) (s.setRef 0)
  let s := { s with sync := { s.sync with xlate := [] }, loader := { s.loader with plan := none, digest := none, actions := [] } }
  ((s.set rPlState (s.planState * 2 ^ 29)).enter psEmpty).storeLibrary

/-- The status of a request without operands that is not accepted in ARMED and RUNNING. -/
def State.plainGate (s : State) (r : Req) (ws : List W32) : Nat × Nat :=
  if !s.loaderSender r then (stRejected, rsSender)
  else if !onlyBits (word ws 0) 0xFF000000 ∨ !zeroFrom ws 1 then (stRejected, rsRequest)
  else if s.planRuns then (stLocked, 0)
  else if s.planState = psLoading then (stBusy, 0)
  else (stOk, 0)

/-- `PL_UNLOAD` (R320). -/
def effPlUnload (r : Req) (s : State) : State :=
  s.loaderDo r 0x24 (fun ws =>
    let g := s.plainGate r ws
    (if g.1 = stOk then s.unload else s).loaderReply r 0x24 g.1 g.2 0)

/-! Arming (R321). -/

/-- A used port fails the delay check. -/
def State.armDelayBad (s : State) (p : Plan) (i : Nat) : Bool :=
  match p.ports[i]? with
  | some q =>
    q.used && (!s.bit (rPortDelay i) 31 || decide (64 * q.delayMax < s.field (rPortDelay i) 0 24)
      || decide (2 * q.delayMax + 240 < s.get (rReplayTimeout i)))
  | none => false

/-- A used port is not UP with its partner's identity accepted. -/
def State.armNotUp (s : State) (i : Nat) : Bool := s.usedPorts.contains i && !(s.train i == trUp && (s.port i).idOk)

/-- The status, reason and locus of a PL_ARM. The precedence of 00 R12 decides among the checks that fail: every REJECTED before LOCKED, LOCKED before LATE,
LATE before BUSY. A plan that is still LOADING has nothing to check (R319). -/
def State.armGate (s : State) (r : Req) (ws : List W32) : Nat × Nat × Nat :=
  let st := s.planState
  let t0 := word ws 1 + 2 ^ 32 * word ws 2
  if !s.loaderSender r then (stRejected, rsSender, 0)
  else if !onlyBits (word ws 0) 0xFF000001 ∨ !zeroFrom ws 3 then (stRejected, rsRequest, 0)
  else if st = psEmpty ∨ st = psStopped then (stRejected, rsState, 0)
  else if s.bit rMgStatus 25 then (stRejected, rsPart, 0)
  else
    match s.loader.plan with
    | none => (stRejected, rsState, 0)
    | some p =>
      if st ≠ psLoading ∧ (s.counterState ≠ 2 ∨ s.field rTmStatus 16 3 < p.head.floor) then (stRejected, rsClock, 0)
      else
        match (if st ≠ psLoading then firstBad 16 (fun i => !s.armDelayBad p i) else none),
              (if st ≠ psLoading ∧ !bitAt (word ws 0) 0 then firstBad 16 (fun i => !s.armNotUp i) else none) with
        | some i, _ => (stRejected, rsPorts, i)
        | none, some i => (stRejected, rsPorts, i)
        | none, none =>
          if s.planRuns ∨ s.hangs then (stLocked, 0, 0)
          else if st ≠ psLoading ∧ t0 < s.clock + 200000 then (stLate, 0, 0)
          else if st = psLoading then (stBusy, 0, 0)
          else (stOk, 0, 0)

/-- Accepts an arm: T0, the floor step, the FLOOR that R268 enforces, ARMED. A step request that was accepted with no plan running and has not taken effect is dropped: the
device moves to the floor. DESIGN CHOICE (log 76). -/
def State.armNow (s : State) (t0 : Nat) (part : Bool) : State :=
  let floor := match s.loader.plan with
    | some p => p.head.floor
    | none => 0
  let s : State := { s.setField rStepResult 23 1 0 with time := { s.time with step := none } }
  let s := if s.step_ = floor then s else s.stepNow floor
  let s := ((s.set64 rT0 t0).setField rTmStatus 19 3 floor).setField rPlState 23 1 (b2n part)
  s.enter psArmed

/-- `PL_ARM` (R321). -/
def effPlArm (r : Req) (s : State) : State :=
  s.loaderDo r 0x22 (fun ws =>
    let (st, why, at_) := s.armGate r ws
    (if st = stOk then s.armNow (word ws 1 + 2 ^ 32 * word ws 2) (bitAt (word ws 0) 0) else s).loaderReply r 0x22 st why at_)

/-! Stopping (R323). -/

/-- The writes that wait in the shadow take effect: no plan runs (17 R425). -/
def State.flushShadow (s : State) : State :=
  let ws := s.shadow.filterMap (fun e => e.2.map (fun v => (e.1, v)))
  ws.foldl (fun s w => s.poke w.1 w.2) { s with shadow := [] }

/-- The plan stops at the tick of frame `k`, unless it already stops earlier. -/
def State.stopBy (s : State) (k : Nat) : State :=
  { s with frame := { s.frame with stopAt := some (match s.frame.stopAt with
      | some j => if j < k then j else k
      | none => k) } }

/-- A PL_STOP that arrives now. -/
def State.planStop (s : State) : State :=
  if s.planState = psRunning then s.stopBy (s.frameNo + (if s.pastCommit (s.frameNo + 1) then 2 else 1))
  else if s.planState = psArmed then
    (if s.counterState = 2 ∧ (s.clock : Int) < s.tickOf 0 - s.get rGuard then
      { (s.setField rTmStatus 19 3 0).enter psLoaded with frame := { s.frame with stopAt := none } }.flushShadow
    else s.stopBy 1)
  else s

/-- `PL_STOP` (R323). -/
def effPlStop (r : Req) (s : State) : State :=
  s.loaderDo r 0x23 (fun ws =>
    if !([0x00, 0x10, 0x11] : List Nat).contains (s.reqSender r) then s.loaderReply r 0x23 stRejected rsSender 0
    else if !onlyBits (word ws 0) 0xFF000000 ∨ !zeroFrom ws 1 then s.loaderReply r 0x23 stRejected rsRequest 0
    else if s.planState = psLoading then s.loaderReply r 0x23 stBusy 0 0
    else s.planStop.loaderReply r 0x23 stOk 0 0)

/-! Scheduled actions (R325). -/

/-- The device's own translation, and the sender's right to the context. -/
def State.actionSender (s : State) (r : Req) (a : Action) : Bool :=
  let who := s.reqSender r
  let kind := bitsAt a.w3.toNat 28 4
  s.loaderSender r || (decide (1 ≤ who) && decide (who ≤ 15) && (kind == 1 || kind == 2) && s.bound who == some (bitsAt a.w4.toNat 16 6))

/-- The arming horizon of frame F: the commit point of frame F − 2. -/
def State.pastHorizon (s : State) (f : Nat) : Bool := decide (s.commitOf ((f : Int) - 2) ≤ (s.clock : Int)) || (s.frame.running && decide (f ≤ s.frameNo + 1))

/-- `PL_ACTION` (R325). -/
def effPlAction (r : Req) (s : State) : State :=
  s.loaderDo r 0x25 (fun ws =>
    let f := word ws 1 + 2 ^ 32 * word ws 2
    let a : Action := ⟨f, ws.getD 3 0, ws.getD 4 0, ws.getD 5 0⟩
    let st := s.planState
    if !s.actionSender r a then s.loaderReply r 0x25 stRejected rsSender 0
    else if st ≠ psLoading ∧ !s.planRuns then s.loaderReply r 0x25 stRejected rsState 0
    else if !(onlyBits (word ws 0) 0xFF000000 && zeroFrom ws 6 && actionOk (fun c v => (s.xlate c v).isSome) a) then
      s.loaderReply r 0x25 stRejected rsRequest 0
    else if st = psLoading then s.loaderReply r 0x25 stBusy 0 0
    else if s.pastHorizon f then (s.bump rActLate 1).loaderReply r 0x25 stLate 0 0
    else if 256 ≤ s.loader.actions.length then s.loaderReply r 0x25 stBusy 0 0
    else { s with loader := { s.loader with actions := s.loader.actions ++ [a] } }.loaderReply r 0x25 stOk 0 0)

/-! Intercalary requests (R327). -/

/-- The status of a request for `n` intercalary frames from frame `f`. -/
def State.icalStatus (s : State) (f n : Nat) : Nat :=
  if s.selftest then stBusySelftest
  else if n = 0 ∨ !s.planRuns then stRejected
  else if s.pastCommit f then stLate
  else if s.frame.icalRun.isSome then stBusy
  else stOk

/-- `INTERCALARY_REQUEST` (R327): a write of PL_ICAL_REQ. -/
def effIntercalaryRequest (a : Agent) (val : W32) (s : State) : State :=
  let s := s.touch a
  if !isPf0OrFw a then s.ignored
  else if !bitAt val.toNat 31 then s
  else
    let f := s.get64 rIcalFirst
    let n := bitsAt val.toNat 0 16
    let st := s.icalStatus f n
    let s := s.setField rIcalResult 28 4 st
    if st = stOk then { (s.setField rIcalResult 23 1 1).setField rIcalResult 0 16 n with frame := { s.frame with icalRun := some (f, n) } } else s

/-! The meanings of the rows of this family. -/

/-- `PL_LOAD` (R318). -/
def execPlLoad (r : Req) (s : State) : Host.Outcome State Fault Refusal := .next (effPlLoad r s)

/-- `PL_LOAD_REUSE` (R319). -/
def execPlLoadReuse (r : Req) (s : State) : Host.Outcome State Fault Refusal := .next (effPlLoadReuse r s)

/-- `HELD_LOAD_BEGIN` (R13). -/
def execHeldLoadBegin (s : State) : Host.Outcome State Fault Refusal := .next (effHeldLoadBegin s)

/-- `LOAD_COMPLETION` (R318). -/
def execLoadCompletion (fault : Bool) (s : State) : Host.Outcome State Fault Refusal := .next (effLoadCompletion fault s)

/-- `PL_VERIFY` (R319). -/
def execPlVerify (r : Req) (s : State) : Host.Outcome State Fault Refusal := .next (effPlVerify r s)

/-- `PL_ARM` (R321). -/
def execPlArm (r : Req) (s : State) : Host.Outcome State Fault Refusal := .next (effPlArm r s)

/-- `PL_STOP` (R323). -/
def execPlStop (r : Req) (s : State) : Host.Outcome State Fault Refusal := .next (effPlStop r s)

/-- `PL_UNLOAD` (R320). -/
def execPlUnload (r : Req) (s : State) : Host.Outcome State Fault Refusal := .next (effPlUnload r s)

/-- `PL_ACTION` (R325). -/
def execPlAction (r : Req) (s : State) : Host.Outcome State Fault Refusal := .next (effPlAction r s)

/-- `INTERCALARY_REQUEST` (R327). -/
def execIntercalaryRequest (a : Agent) (val : W32) (s : State) : Host.Outcome State Fault Refusal := .next (effIntercalaryRequest a val s)

end Sys2Proof.Machine
end

