-- ==== Sys2Proof/Machine/Serving.lean ====
section
/-! DEFINITION. HBM service time (06 R163, 16 R399): BAR2 requests, management copies and the device's own rings; layer gates and manifest commits (13). -/

namespace Sys2Proof.Machine

/-! Service time. -/

/-- MG_STATUS.HBM_READY. -/
def State.hbmReady (s : State) : Bool := s.bit rMgStatus 24

/-- Line `hla` is open to the host: HBM is ready, or the line lies in stack 0, which recovery trains for staging (R404). -/
def State.hbmOpen (s : State) (hla : Nat) : Bool := s.hbmReady || (s.recovery && decide (hla < 2 ^ 30))

/-- HBM service time: the quiet interval of a frame up to 100 ns before the next tick (06 R163), an intercalary frame, and
every period in which no frame ticks. -/
def State.serviceTime (s : State) : Bool :=
  (s.hbmReady || s.recovery)
    && (!s.workFrame || (decide (s.frame.alen ≤ s.slotNow) && decide (s.clock + 100 ≤ s.frame.tickAt.toNat + s.get rPeriod)))

/-! The host window (16 R397 to R399). -/

/-- Table 16-2: whether `a` may read or write line `hla` now. -/
def State.hostMay (s : State) (a : Agent) (hla : Nat) (write : Bool) : Bool :=
  s.hbmOpen hla && s.inHbm hla && (match a with
    | .pf0 => true
    | .vf n => (match s.bound n with
      | some x => decide (n ≤ 15) && s.windowHas (hla / 2 ^ 30) x hla write
      | none => false)
    | _ => false)

/-- A refused line (R398). -/
def State.hwinDeny (s : State) : State := (s.bump rHwinDeny 1).orBits rMgStatus (2 ^ 30)

/-- The lines that a request touches. -/
def HostReq.lines (q : HostReq) : List Nat := if q.len = 0 then [] else (List.range ((q.skip + q.len + 63) / 64)).map (fun k => (q.line + k) % 2 ^ 33)

/-- Reads one line for a request: its 64 bytes; a poisoned or uncorrectable line reads zero and poisons the completion. -/
def State.hostLine (q : HostReq) (sq : State × HostReq) (hla : Nat) : State × HostReq :=
  let (s, r) := sq
  if !s.hostMay q.who hla false then (s.hwinDeny, { r with refused := true })
  else
    let (s, v, f) := s.hbmHostRead hla true
    let bad := v.poison || f = .bad
    let d : LineBits := if bad then 0 else v.data
    (s, { r with data := r.data ++ (lineBytes d).map some, poisoned := r.poisoned || bad })

/-- Serves a read: its bytes are found. -/
def State.serveRead (s : State) (q : HostReq) : State × HostReq :=
  let (s, r) := q.lines.foldl (State.hostLine q) (s, { q with data := [], served := true })
  (s, { r with data := (r.data.drop q.skip).take q.len })

/-- The bytes that the enabled bytes of `bs` leave of the line `d`. -/
def mergeLine : Nat → List (Option Byte) → LineBits → LineBits
  | _, [], d => d
  | k, b :: bs, d =>
    mergeLine (k + 1) bs (match b with
      | some v => BitVec.ofNat 512 (setBitsAt d.toNat (8 * k) 8 v.toNat)
      | none => d)

/-- Writes the bytes `bs` (64 of them) to line `hla`; a partial write is a read, a merge and a whole-line write (06 R168). -/
def State.writeLine (s : State) (hla : Nat) (bs : List (Option Byte)) : State :=
  if bs.all (fun b => b.isNone) then s
  else if bs.all (fun b => b.isSome) then s.hbmWrite hla ⟨mergeLine 0 bs 0, false⟩
  else
    let (s, v, f) := s.hbmHostRead hla true
    if f = .bad then s.hbmWrite hla .void
    else if v.poison then s
    else s.hbmWrite hla ⟨mergeLine 0 bs v.data, false⟩

/-- The bytes of a write that fall into its `k`-th line. -/
def HostReq.slice (q : HostReq) (k : Nat) : List (Option Byte) :=
  let all := List.replicate q.skip none ++ q.data
  let part := (all.drop (64 * k)).take 64
  part ++ List.replicate (64 - part.length) none

/-- Serves a write: its allowed lines are written, the refused ones dropped and counted. -/
def State.serveWrite (s : State) (q : HostReq) : State :=
  (q.lines.zip (List.range q.lines.length)).foldl (fun s x =>
    if s.hostMay q.who x.1 true then s.writeLine x.1 (q.slice x.2) else s.hwinDeny) s

/-- Serves the waiting requests in arrival order (R399). -/
def State.serveHost (s : State) : State :=
  s.host.queue.foldl (fun s q =>
    if q.isRead then
      (if q.served then { s with host := { s.host with queue := s.host.queue ++ [q] } }
      else
        let (s, r) := s.serveRead q
        { s with host := { s.host with queue := s.host.queue ++ [r] } })
    else s.serveWrite q) { s with host := { s.host with queue := [] } }

/-- Serves at once in service time; with no HBM to serve, every line is refused at once (R415). -/
def State.serveNow (s : State) : State := if s.serviceTime || !s.hbmReady then s.serveHost else s

/-! Management copies (13 R341). -/

/-- Moves the next line of a copy; the first uncorrectable source line writes a COPY_FAULT record. -/
def State.copyLine (s : State) : State :=
  match s.serve.copy with
  | none => s
  | some k =>
    if k.lines ≤ k.moved then s
    else
      let (s, v, f) := s.hbmHostRead (k.src + k.moved) false
      let bad := decide (f = .bad)
      let s := if bad && !k.fault then s.record 0x0703 uDevice 0 (k.src + k.moved) else s
      let s := s.hbmWrite (k.dst + k.moved) (if bad then .void else v)
      let s := { s with serve := { s.serve with copy := some { k with moved := k.moved + 1, fault := k.fault || bad } } }
      s.setField rCopyStatus 0 24 (k.lines - k.moved - 1)

/-- Moves up to `n` lines. -/
def State.copyLines (s : State) : Nat → State
  | 0 => s
  | n + 1 => s.copyLine.copyLines n

/-- The lines that a copy has yet to move. -/
def State.copyLeft (s : State) : Nat := match s.serve.copy with
  | some k => k.lines - k.moved
  | none => 0

/-- How many lines a copy moves in a stretch of service time: the rate has a lower bound only (R341), so the number is a free value. -/
def State.copySome (s : State) : State :=
  if s.copyLeft = 0 then s
  else
    let (v, s) := s.draw
    s.copyLines (v.toNat % (s.copyLeft + 1))

/-- The dump region meets `n` lines from `a`. -/
def State.meetsDump (s : State) (a n : Nat) : Bool := s.bit rDumpBase 31 && meets a n (s.field rDumpBase 0 12 * 2 ^ 21) (2 ^ 21)

/-- The counter that a PL_COPY signals: none where word 6 asks for a signal that does not translate. -/
def State.copySignal (s : State) (w6 : Nat) : Option (Option Nat) :=
  if !bitAt w6 31 then some none
  else match s.xlate (bitsAt w6 16 6) (bitsAt w6 0 12) with
    | some i => some (some i)
    | none => none

/-- `PL_COPY` (R341). -/
def effPlCopy (r : Req) (s : State) : State :=
  s.answer r 0x26 (fun ws =>
    let src := word ws 1 + 2 ^ 32 * word ws 2
    let dst := word ws 3 + 2 ^ 32 * word ws 4
    let n := word ws 5
    let w6 := word ws 6
    let formed := onlyBits (word ws 0) 0xFF000000 && decide (word ws 2 < 2) && decide (word ws 4 < 2) && decide (1 ≤ n) && decide (n < 2 ^ 24)
      && onlyBits w6 0x803F0FFF && (bitAt w6 31 || w6 == 0) && zeroFrom ws 7
    if !s.loaderSender r || !formed || !s.rangeInHbm src n || !s.rangeInHbm dst n || meets src n dst n || s.meetsDump src n || s.meetsDump dst n then
      s.reply r stRejected []
    else
      match s.copySignal w6 with
      | none => s.reply r stRejected []
      | some sig =>
        if s.serve.copy.isSome then s.reply r stBusy []
        else
          let s := { s with serve := { s.serve with copy := some ⟨src, dst, n, 0, sig, false⟩ } }
          ((s.setField rCopyStatus 0 24 n).setField rCopyStatus 27 1 1).reply r stOk [])

/-- `COPY_COMPLETE` (R341): the rest of the copy moves in service time; the status is posted and the counter signalled. -/
def effCopyComplete (s : State) : State :=
  if s.serve.copy.isNone || !s.serviceTime then s
  else
    let s := s.copyLines s.copyLeft
    match s.serve.copy with
    | none => s
    | some k =>
      let s := { s with serve := { s.serve with copy := none } }
      let s := s.set rCopyStatus ((if k.fault then stFault else stOk) * 2 ^ 28)
      match k.signal with
      | some i => s.syncNow i false 1
      | none => s

/-- `QUIET_INTERVAL` (06 R163): service time serves BAR2 requests, the fault ring, the hash ring and a copy. -/
def effQuietInterval (s : State) : State := if s.serviceTime then s.serveHost.drainFaults.writeHashes.copySome else s

/-! Layer gates and manifests (13 R336, R345). -/

/-- `GATE_HOLD` (R336): PL_GATE_HOLD is W1S; `half` 1 is the HI register. -/
def effGateHold (a : Agent) (half : Nat) (val : W32) (s : State) : State :=
  let s := s.touch a
  if 2 ≤ half then s
  else if !isPf0OrFw a || s.selftest then s.ignored else s.orBits (rGateHold + 4 * half) val.toNat

/-- The status of a commit for frame `f`. -/
def State.manifestStatus (s : State) (f : Nat) : Nat :=
  if s.selftest then stBusySelftest
  else if !s.planRuns || !s.bit rMfBase 31 then stRejected
  else if s.pastHorizon f then stLate
  else if (s.clock : Int) < s.tickOf ((f : Int) - 3) then stBusy
  else stOk

/-- `MANIFEST_COMMIT` (R345): a write of PL_MF_COMMIT. -/
def effManifestCommit (a : Agent) (val : W32) (s : State) : State :=
  let s := s.touch a
  if !isPf0OrFw a then s.ignored
  else if !bitAt val.toNat 31 then s
  else
    let f := s.get64 rMfFrame
    let st := s.manifestStatus f
    let s := s.set rMfResult (st * 2 ^ 28 + f % 4 * 2 ^ 24)
    if st = stLate then s.bump rMfLate 1
    else if st = stOk then
      { s with serve := { s.serve with commits := if s.serve.commits.contains (BitVec.ofNat 64 f) then s.serve.commits else BitVec.ofNat 64 f :: s.serve.commits } }
    else s

/-- The manifest slot in which line `hla` lies is closed to the host: it belongs to a frame past its arming horizon that has not ended. -/
def State.slotClosed (s : State) (hla : Nat) : Bool :=
  let base := 256 * s.field rMfBase 0 25
  let k := if s.frame.running then s.frameNo else 0
  s.planRuns && s.bit rMfBase 31 && decide (base ≤ hla) && decide (hla < base + 256)
    && [k, k + 1, k + 2].any (fun f => f % 4 == (hla - base) / 64 && s.pastHorizon f)

/-! BAR2 (16 R397 to R400). -/

/-- The request that an access of function `f` at offset `off` makes: its first line and byte (R397). -/
def State.hostReq (s : State) (a : Agent) (f off len : Nat) (isRead : Bool) (data : List (Option Byte)) : HostReq :=
  ⟨a, (s.field (rHwinBase f) 0 13 * 2 ^ 20 + off % 2 ^ 36 / 64) % 2 ^ 33, off % 64, isRead, len, data, false, false, false⟩

/-- The BAR2 write data that the device holds, in bytes, and its limit; the reads that it holds, and theirs (R399). -/
def State.postedBytes (s : State) : Nat := (s.host.queue.filter (fun q => !q.isRead)).foldl (fun a q => a + q.len) 0
def postedLimit : Nat := 4 * 2 ^ 20
def State.readsHeld (s : State) : Nat := (s.host.queue.filter (fun q => q.isRead)).length
def readLimit : Nat := 1024

/-- `BAR2_READ` (R399): the read waits for service time. Beyond the limit the device gives no credit for one, and none arrives. -/
def effBar2Read (a : Agent) (off len : Nat) (s : State) : State :=
  match agentFn a with
  | none => s
  | some f =>
    if readLimit ≤ s.readsHeld then s
    else
      let s := s.touch a
      { s with host := { s.host with queue := s.host.queue ++ [s.hostReq a f off len true []] } }.serveNow

/-- Takes the oldest served read of `a`. -/
def takeRead (a : Agent) : List HostReq → Option (HostReq × List HostReq)
  | [] => none
  | q :: qs => if q.isRead ∧ q.who = a ∧ q.served then some (q, qs) else (takeRead a qs).map (fun x => (x.1, q :: x.2))

/-- `BAR2_READ_COMPLETION` (R400). -/
def effBar2ReadCompletion (a : Agent) (s : State) : State :=
  let s := s.serveNow
  match takeRead a s.host.queue with
  | some (q, rest) =>
    { s with host := { s.host with queue := rest } }.emit
      (.read2 a (if q.refused then none else some (q.data.map (fun (b : Option Byte) => b.getD 0))) (q.poisoned && !q.refused))
  | none => s

/-- `BAR2_WRITE` (R399): the bytes `data` (none: not enabled) go to service time; those of a closed manifest slot are dropped (13 R345), and before
HBM_READY all are (R415). Beyond the limit the device gives no credit for a write, and none arrives. -/
def effBar2Write (a : Agent) (off : Nat) (data : List (Option Byte)) (s : State) : State :=
  match agentFn a with
  | none => s
  | some f =>
    if postedLimit < s.postedBytes + data.length then s
    else
      let s := s.touch a
      let q := s.hostReq a f off data.length false data
      if !s.hbmReady && !s.recovery then s.serveWrite q
      else
        let closed := q.lines.any s.slotClosed
        let data' := ((List.range data.length).zip data).map (fun e => if s.slotClosed ((q.line + (q.skip + e.1) / 64) % 2 ^ 33) then none else e.2)
        let s := if closed then s.bump rMfDrop 1 else s
        { s with host := { s.host with queue := s.host.queue ++ [{ q with data := data' }] } }.serveNow

/-! The meanings of the rows of this family. -/

/-- `QUIET_INTERVAL` (R163). -/
def execQuietInterval (s : State) : Host.Outcome State Fault Refusal := .next (effQuietInterval s)

/-- `GATE_HOLD` (R336). -/
def execGateHold (a : Agent) (half : Nat) (val : W32) (s : State) : Host.Outcome State Fault Refusal := .next (effGateHold a half val s)

/-- `MANIFEST_COMMIT` (R345). -/
def execManifestCommit (a : Agent) (val : W32) (s : State) : Host.Outcome State Fault Refusal := .next (effManifestCommit a val s)

/-- `PL_COPY` (R341). -/
def execPlCopy (r : Req) (s : State) : Host.Outcome State Fault Refusal := .next (effPlCopy r s)

/-- `COPY_COMPLETE` (R341). -/
def execCopyComplete (s : State) : Host.Outcome State Fault Refusal := .next (effCopyComplete s)

/-- `BAR2_READ` (R399). -/
def execBar2Read (a : Agent) (off len : Nat) (s : State) : Host.Outcome State Fault Refusal := .next (effBar2Read a off len s)

/-- `BAR2_READ_COMPLETION` (R400). -/
def execBar2ReadCompletion (a : Agent) (s : State) : Host.Outcome State Fault Refusal := .next (effBar2ReadCompletion a s)

/-- `BAR2_WRITE` (R399). -/
def execBar2Write (a : Agent) (off : Nat) (data : List (Option Byte)) (s : State) : Host.Outcome State Fault Refusal := .next (effBar2Write a off data s)

end Sys2Proof.Machine
end

