-- ==== Sys2Proof/Machine/Faults.lean ====
section
/-! DEFINITION. Faults of the module, the exchange packets and masque requests (14). -/

namespace Sys2Proof.Machine

/-! Rails (R357). -/

/-- FL_STATUS.RAIL. -/
def fsRail := 2 ^ 25
/-- FL_STATUS.MGMT_FAULT. -/
def fsMgmt := 2 ^ 26

/-- The commit flags of the running frame are withheld; in its guard time, those of the next one. -/
def State.withholdFlags (s : State) : State :=
  if !s.frame.running then s
  else if s.frame.committed then { s with frame := { s.frame with railNext := true } }
  else { s with frame := { s.frame with rail := true } }

/-- `RAIL_EXCURSION` (R357): rail `rail` has been outside its window for 1 µs. Without a running plan the record is the only action. -/
def effRailExcursion (rail : Nat) (above : Bool) (s : State) : State :=
  if 16 ≤ rail then s
  else
    let s := if s.planRuns then (s.orBits rFlStatus fsRail).withholdFlags else s
    s.record 0x0802 uRail rail (rail + 16 * b2n above)

/-! Exchange packets (R364, R365). -/

/-- The mode word of the running frame with its number of records (Table 14-4). -/
def State.modeWord (s : State) (k : Nat) : Nat :=
  s.frameNo + s.workNo * 2 ^ 64 + s.step_ * 2 ^ 128 + s.frame.shape * 2 ^ 136 + s.frame.ctx * 2 ^ 144 + k * 2 ^ 160

/-- `EXCHANGE_PACKET_SEND` (R364): the FL block hands used port `p`'s exchange packet to its egress queue. -/
def effExchangePacketSend (p : Nat) (s : State) : State :=
  match s.shapeNow with
  | none => s
  | some sh =>
    let (len, route) := smapGet (fun _ => (0, 0)) sh.exch p
    if !s.usedPorts.contains p ∨ len = 0 ∨ ssetHas s.fl.exchSent p ∨ s.frame.committed then s
    else
      let rs := (s.exchQ p).take (2 * len - 1)
      let d := (rs.zip (List.range rs.length)).foldl (fun a x => a + x.1.bytes <<< (256 * (x.2 + 1))) (s.modeWord rs.length)
      let lines := (List.range len).map (fun i => BitVec.ofNat 512 (d >>> (512 * i)))
      let h := header 3 1 len (s.field rRank 0 16) (bitsAt (s.optRoute route) 32 16) 0 0 route s.frameNo
      let fl := { s.fl with exchSent := ssetSet s.fl.exchSent p true, exchange := smapPut (fun _ => []) s.fl.exchange p ((s.exchQ p).drop rs.length) }
      (({ s with fl := fl }).bump rExchTx rs.length).sendOut p h lines [] false

/-! Masque requests (R368). -/

/-- A row of Table 14-7: the target's unit kind, the largest COUNT, whether DRILL is needed, whether the target column names SUB and SEL. -/
structure MasqueKind where
  kind : Nat
  unit : Nat
  limit : Nat
  drill : Bool
  sub : Bool
  sel : Bool
  deriving DecidableEq, Repr

/-- Table 14-7. The drill of CRC and CODEWORD depends on COUNT. -/
def masqueKinds : List MasqueKind := [
  ⟨0x01, uPort, 8, false, false, false⟩, ⟨0x02, uPort, 8, false, false, false⟩, ⟨0x03, uPort, 1, false, true, false⟩,
  ⟨0x04, uCart, 65535, false, false, false⟩, ⟨0x05, uTile, 1, false, true, true⟩, ⟨0x06, uHbm, 4, false, false, false⟩,
  ⟨0x10, uTile, 1, true, true, true⟩, ⟨0x11, uHbm, 1, true, false, true⟩, ⟨0x12, uPort, 1, true, false, false⟩,
  ⟨0x13, uTile, 1, true, false, false⟩, ⟨0x14, uTile, 1, true, false, false⟩, ⟨0x15, uTile, 1, true, false, false⟩,
  ⟨0x16, uDevice, 1, true, false, false⟩]

/-- REPLAYS of port `p` (12 Table 12-5). -/
def State.replaysOf (s : State) (p : Nat) : Nat :=
  match s.loader.plan.bind (fun k => k.ports[p]?) with
  | some q => q.replays
  | none => 0

/-- The target exists: an enabled tile and its line and word, a used port and its fibre, a controller and its line, a cartridge, the device. -/
def State.masqueTarget (s : State) (k : MasqueKind) (unit sub sel : Nat) : Bool :=
  let i := unit % 4096
  unit / 4096 == k.unit
    && (if k.unit = uTile then s.enabled i && (!k.sub || (decide (sub < 8) && decide (sel < 16384)))
        else if k.unit = uPort then s.usedPorts.contains i && (!k.sub || decide (sub < 13))
        else if k.unit = uHbm then decide (i < 8) && (!k.sel || s.inHbm (i * 2 ^ 30 + sel))
        else if k.unit = uCart then decide (i < 4)
        else i == 0)

/-- A masque request that R368 does not answer REJECTED, by its kind, count, target and operands. -/
def State.masqueOk (s : State) (k : MasqueKind) (count unit sub sel : Nat) : Bool :=
  let drill := k.drill || ((k.kind == 1 || k.kind == 2) && decide (s.replaysOf (unit % 4096) < count))
  decide (1 ≤ count) && decide (count ≤ k.limit) && s.masqueTarget k unit sub sel && (!drill || s.bit rMasqueCtrl 30)
    && (k.sub || sub == 0) && (k.sel || sel == 0)

/-- `MASQUE_REQUEST` (R368). -/
def effMasqueRequest (r : Req) (s : State) : State :=
  s.answer r 0x50 (fun ws =>
    let f := word ws 1 + 2 ^ 32 * word ws 2
    let kind := word ws 3 / 2 ^ 24
    let count := bitsAt (word ws 3) 0 16
    let sub := word ws 4 / 2 ^ 16
    let unit := word ws 4 % 2 ^ 16
    let sel := bitsAt (word ws 5) 0 30
    let formed := onlyBits (word ws 0) 0xFF000000 && onlyBits (word ws 3) 0xFF00FFFF && onlyBits (word ws 5) 0x3FFFFFFF && zeroFrom ws 6
    let ok := match masqueKinds.find? (fun k => k.kind == kind) with
      | some k => s.masqueOk k count unit sub sel
      | none => false
    if !([0x00, 0x10, 0x11] : List Nat).contains (s.reqSender r) || !s.bit rMasqueCtrl 31 || !s.planRuns || !formed || !ok then s.reply r stRejected []
    else if s.pastHorizon f then s.reply r stLate []
    else if 64 ≤ s.fl.masques.length then s.reply r stBusy []
    else
      let m : Masque := ⟨BitVec.ofNat 64 f, kind, count, sub, unit, sel, 0⟩
      { s with fl := { s.fl with masques := s.fl.masques ++ [m] } }.reply r stOk [])

/-! The meanings of the rows of this family. -/

/-- `RAIL_EXCURSION` (R357). -/
def execRailExcursion (rail : Nat) (above : Bool) (s : State) : Host.Outcome State Fault Refusal := .next (effRailExcursion rail above s)

/-- `EXCHANGE_PACKET_SEND` (R364). -/
def execExchangePacketSend (p : Nat) (s : State) : Host.Outcome State Fault Refusal := .next (effExchangePacketSend p s)

/-- `MASQUE_REQUEST` (R368). -/
def execMasqueRequest (r : Req) (s : State) : Host.Outcome State Fault Refusal := .next (effMasqueRequest r s)

end Sys2Proof.Machine
end

