-- ==== Sys2Proof/Machine/Observe.lean ====
section
/-! DEFINITION. Observation (15): the trace ring, the digest ring and the tensor watch. -/

namespace Sys2Proof.Machine

/-! Trace and digests (R383, R387). -/

/-- `TRACE_RING_WRITE` (R383): the trace slots carry the last frame's records. -/
def effTraceRingWrite (s : State) : State := if s.hbmReady then s.writeTrace else s

/-- A digest record's 32 bytes (Table 15-6). -/
def digBytes (t : DigTable) (tag : Nat) (d : DigSum) : Nat :=
  d.sum % 2 ^ 64 + t.work.toNat * 2 ^ 64 + t.frame.toNat * 2 ^ 128 + d.count % 2 ^ 32 * 2 ^ 192 + tag % 4096 * 2 ^ 224 + b2n d.poison * 2 ^ 240
    + t.ctx % 256 * 2 ^ 248

/-- A digest record bound for the ring; with no room or no ring it is dropped and counted. -/
def State.digToRing (s : State) (bytes : Nat) : State :=
  if s.ringOn digRing && !s.ringFull digRing then s.ringWrite digRing bytes else (s.bump rDigLost 1).orBits rObStatus (2 ^ 30)

/-- `DIGEST_RING_WRITE` (R387): service time writes the records of the closed tables, by increasing tag. -/
def effDigestRingWrite (s : State) : State :=
  if !s.serviceTime then s
  else
    let ts := s.ob.closed
    ts.foldl (fun s t => t.sums.foldl (fun s e => s.digToRing (digBytes t e.1 e.2)) s) { s with ob := { s.ob with closed := [] } }

/-! Watch arms (R390). -/

/-- The group may be armed: it is declared, the buffer is valid and lies in the watch stack, and the group's lines fit. -/
def State.watchOk (s : State) (g : Nat) : Bool :=
  match s.loader.plan, s.watchGroup g with
  | some p, some w =>
    s.bit rWatchBuf 31 && s.watchBase / 2 ^ 30 == p.almanac.watchStack && s.rangeInHbm s.watchBase (s.field rWatchLines 0 24)
      && decide (w.off + w.lines ≤ s.field rWatchLines 0 24)
  | _, _ => false

/-- The status of an arm of group `g` for work frame count `j`; `res` says that no reserved bit is set. -/
def State.armStatus (s : State) (g j : Nat) (res : Bool) : Nat :=
  if s.selftest then stBusySelftest
  else if !s.planRuns || !s.watchOk g || !res then stRejected
  else if j < s.workNo + 3 then stLate
  else if 8 ≤ s.ob.arms.length then stBusy
  else stOk

/-- `WATCH_ARM` (R390): a write of OB_WATCH_ARM_HI_f; another sender's write is ignored and counted. -/
def effWatchArm (a : Agent) (f : Nat) (val : W32) (s : State) : State :=
  let s := s.touch a
  let v := val.toNat
  if agentFn a ≠ some f then s.ignored
  else if !bitAt v 31 then s
  else
    let g := bitsAt v 16 8
    let j := s.get (rWatchArmLo f) + 2 ^ 32 * bitsAt v 0 16
    let st := s.armStatus g j (bitsAt v 24 7 == 0)
    let s := s.set (rWatchResult f) (st * 2 ^ 28 + g * 2 ^ 16)
    if st = stOk ∧ !s.ob.arms.contains ⟨j, g⟩ then { s with ob := { s.ob with arms := s.ob.arms ++ [⟨j, g⟩] } } else s

/-! Watch copies (R389). -/

/-- Line `k` of a point goes to line `hla`: an eve line as a zero line with the marker. The read is checked as any read is (02 R43). -/
def State.watchLine (s : State) (n slot l hla : Nat) (run : Option WatchRun) : State × Option WatchRun :=
  let eve := (s.tile n).eveBit l
  let (tl, v) := (s.tile n).readLine slot l
  let s := s.putTile n ((tl.event 0x3A 1).event 0x15 1)
  let v := if eve then Line.void else v
  (s.hbmWrite hla v, run.map (fun r => { r with lines := r.lines + 1, poisoned := r.poisoned + b2n (v.poison && !eve), eve := r.eve + b2n eve }))

/-- Point `x` of group `g` copies its lines from tile `n`, two in a slot from its own on: to the watch buffer, or to the sink when the group is not armed for the frame. -/
def State.watchPoint (s : State) (p : Plan) (w : WatchGroup) (g n : Nat) (x : WatchPoint) : State :=
  let run := s.ob.runs.find? (fun r => r.group == g)
  let base := if run.isSome then s.watchBase + w.off + x.off else p.almanac.sink + x.off
  let (s, r) := (List.range x.count).foldl (fun (sr : State × Option WatchRun) k =>
    (if k % 2 = 0 then sr.1.tileSync n (x.slot + k / 2) else sr.1).watchLine n (x.slot + k / 2) (x.first + k) (base + k) sr.2) (s, run)
  match r with
  | some r => { s with ob := { s.ob with runs := s.ob.runs.map (fun y => if y.group = g then { r with points := r.points + 1 } else y) } }
  | none => s

/-- `WATCH_COPY` (R389): point `i` of group `g` copies its lines at its slot, once in a frame of its shape. In a slot that the tile has already passed it has no event. -/
def effWatchCopy (g i : Nat) (s : State) : State :=
  match s.loader.plan, s.watchGroup g with
  | some p, some w =>
    match w.points[i]? with
    | none => s
    | some x =>
      let n := s.physOf p.head.grid44 x.tile
      if !s.slotOpen x.slot || x.shape != s.frame.shape || s.ob.copied.contains (g, i) || (s.tileRuns n && decide (x.slot < (s.tile n).now)) then s
      else ({ s with ob := { s.ob with copied := (g, i) :: s.ob.copied } }).watchPoint p w g n x
  | _, _ => s

/-! The meanings of the rows of this family. -/

/-- `TRACE_RING_WRITE` (R383). -/
def execTraceRingWrite (s : State) : Host.Outcome State Fault Refusal := .next (effTraceRingWrite s)

/-- `DIGEST_RING_WRITE` (R387). -/
def execDigestRingWrite (s : State) : Host.Outcome State Fault Refusal := .next (effDigestRingWrite s)

/-- `WATCH_ARM` (R390). -/
def execWatchArm (a : Agent) (f : Nat) (val : W32) (s : State) : Host.Outcome State Fault Refusal := .next (effWatchArm a f val s)

/-- `WATCH_COPY` (R389). -/
def execWatchCopy (g i : Nat) (s : State) : Host.Outcome State Fault Refusal := .next (effWatchCopy g i s)

end Sys2Proof.Machine
end

