-- ==== Sys2Proof/Machine/Host.lean ====
section
/-! DEFINITION. BAR0 (16 R396 to R398, 17 R421 to R427): reads with their latches, writes with their rights, counters;
and the mailbox channels (16 R409, R410). -/

namespace Sys2Proof.Machine

/-- The LO half of a pair whose HI half the manual reads "as latched" (17 R426). -/
def pairLo (off : Nat) : Bool :=
  if TLW 0 0 ≤ off then (let o := (off - TLW 0 0) % 0x10000; decide (off < TLW tileCount 0) && decide (0x1200 ≤ o) && decide (o < 0x12C0) && decide (o % 64 < 48) && o % 8 == 0)
  else if LK 0 0 ≤ off ∧ off < HB 0 0 then off % 0x10000 == 0x18 || off % 0x10000 == 0x88
  else [TM 0x8, TM 0x40, TM 0x48, TM 0x50, PL 0x0, PL 0x8, PL 0x108, PL 0x210, PL 0x538].contains off
    || (decide (OB 0x200 ≤ off) && decide (off < OB 0x228) && off % 8 == 0)

/-- The even counter of a chained pair (15 R378). -/
def State.chainLo (s : State) (off : Nat) : Bool :=
  let o := (off - TLW 0 0) % 0x10000
  decide (TLW 0 0 ≤ off) && decide (off < TLW tileCount 0) && decide (0x1000 ≤ o) && decide (o < 0x1100) && o % 8 == 0
    && bitAt ((s.tile ((off - TLW 0 0) / 0x10000)).get (o + 0x104)) 31

/-! Reads (R421, R424, R426). -/

/-- The latch source of a sender (17 Table 17-2). -/
def latchSource (a : Agent) : Nat := (agentFn a).getD 16

/-- What a latch holds before its first use. -/
def latchReset (k : Nat) : W32 := if TLW 0 0 ≤ k % 2 ^ 28 then 0 else regReset (k % 2 ^ 28)

/-- The live value of a register; write-only registers and offsets outside every block (R423) read 0. -/
def State.live (s : State) (src off : Nat) : Nat :=
  if !inBlock off then 0 else if OB 0x100 ≤ off ∧ off < OB 0x200 ∧ off % 16 = 0 then 0 else s.view src off

/-- A 4-byte read: LO latches HI, HI reads the latch. -/
def State.read32 (s : State) (src off : Nat) : State × Nat :=
  if pairLo off || s.chainLo off then
    ({ s with latches := smapPut latchReset s.latches (src * 2 ^ 28 + off + 4) (BitVec.ofNat 32 (s.live src (off + 4))) }, s.live src off)
  else if 4 ≤ off ∧ (pairLo (off - 4) || s.chainLo (off - 4)) then (s, (smapGet latchReset s.latches (src * 2 ^ 28 + off)).toNat)
  else (s, s.live src off)

/-- A read of 4 or 8 aligned bytes; an 8-byte read leaves the latches. -/
def State.readReg (s : State) (src off size : Nat) : State × Nat :=
  if size = 8 then (s, s.live src off + 2 ^ 32 * s.live src (off + 4)) else s.read32 src off

/-- 4 or 8 aligned bytes. -/
def aligned (off size : Nat) : Bool := (size == 4 || size == 8) && off % size == 0

/-- `BAR0_READ` (R426). -/
def effBar0Read (a : Agent) (off size : Nat) (s : State) : State :=
  let s := s.touch a
  if aligned off size then
    let (s, v) := s.readReg (latchSource a) off size
    s.emit (.read a (some v))
  else s.ignored.emit (.read a none)

/-! Mailbox writes (16 R409, R410). -/

/-- A refused mailbox write. -/
def State.mbxDeny (s : State) : State := (s.bump rMbxDeny 1).orBits rMgStatus (2 ^ 29)

/-- A write while the channel is full. -/
def State.overrun (s : State) (c : Nat) : State := (s.bump rMbxDeny 1).orBits (rMbxCtrl c) (2 ^ 28)

/-- The channel holds a request or a reply. -/
def State.chanFull (s : State) (c : Nat) : Bool := s.reqFull c || s.rspFull c

/-- `id` is channel `c`'s owner. -/
def State.owns_ (s : State) (id c : Nat) : Bool := decide (c < 8) && s.bit (rMbxBind c) 31 && s.field (rMbxBind c) 0 5 == id

/-- A GO of the owner: accepted by an IDLE channel once the bindings are locked. -/
def State.go (s : State) (c : Nat) : State :=
  if !s.bit rMbxLock 31 then s
  else if s.chanFull c then s.overrun c
  else (s.orBits (rMbxCtrl c) (2 ^ 30)).setField (rMbxCtrl c) 16 8 (s.field (rMbxCtrl c) 16 8 + 1)

/-- `MAILBOX_GO` (R409). -/
def effMailboxGo (a : Agent) (c : Nat) (s : State) : State :=
  let s := s.touch a
  if 8 ≤ c then s else if !s.owns_ (agentId a) c then s.mbxDeny else s.go c

/-- The owner takes the reply. -/
def State.releaseChan (s : State) (c : Nat) : State := s.clrBits (rMbxCtrl c) (2 ^ 29)

/-- `MAILBOX_RELEASE` (R409). -/
def effMailboxRelease (a : Agent) (c : Nat) (s : State) : State :=
  let s := s.touch a
  if 8 ≤ c then s else if !s.owns_ (agentId a) c then s.mbxDeny else s.releaseChan c

/-- The 32 bits that `v` leaves of `old` where the bytes of `m` are enabled. -/
def mergeBits (old v m : Nat) : Nat := old - (old &&& m) + (v &&& m)

/-- A write of a mailbox register at MG offset `o` in 0x1000 to 0x17FF. -/
def State.mbxWrite (s : State) (a : Agent) (o v m : Nat) : State :=
  let c := (o - 0x1000) / 0x100
  let r := o % 0x100
  if r = 0 then
    (if !s.owns_ (agentId a) c then s.mbxDeny
    else
      let full := s.chanFull c
      let s := s.clrBits o (v &&& m &&& 0x30000000)
      if !bitAt (v &&& m) 31 then s else if full then s.overrun c else s.go c)
  else if 0x40 ≤ r ∧ r < 0x80 then
    (if !s.owns_ (agentId a) c then s.mbxDeny
    else if s.chanFull c then s.overrun c
    else s.set o (mergeBits (s.get o) v m))
  else s

/-! Writes (R421 to R425). -/

/-- The stored value of a register. -/
def State.raw (s : State) (off : Nat) : Nat :=
  if TLW 0 0 ≤ off then (s.tile ((off - TLW 0 0) / 0x10000)).get ((off - TLW 0 0) % 0x10000) else s.get off

/-- Writes a stored value. -/
def State.pokeNat (s : State) (off v : Nat) : State := s.poke off (BitVec.ofNat 32 v)

/-- `a` may write the register (16 Table 16-2, 12 Table 12-13). -/
def mayWrite (a : Agent) (off : Nat) (row : RegRow) : Bool :=
  match a with
  | .firmware => true
  | .pf0 => !row.fwOnly
  | .vf n => off == rHwinBase n || off == rWatchArmLo n
  | .bmc => false

/-- A write by access type (17 Table 17-1), where `m` picks the enabled bits. -/
def State.regWrite (s : State) (off : Nat) (row : RegRow) (v m : Nat) : State :=
  let k := m &&& row.mask
  match row.acc with
  | .ro => s
  | .counter => s.pokeNat off (mergeBits (s.raw off) v k)
  | .rw => s.pokeNat off (mergeBits (s.raw off) v k)
  | .w1c => s.pokeNat off (s.raw off - (s.raw off &&& (v &&& k)))
  | .rwl => if s.planRuns then s.ignored else s.pokeNat off (mergeBits (s.raw off) v k)
  | .rwf =>
    if s.planRuns then
      let old := ((smapGet (fun _ => none) s.shadow off).map (fun w => w.toNat)).getD (s.raw off)
      { s with shadow := smapPut (fun _ => none) s.shadow off (some (BitVec.ofNat 32 (mergeBits old v k))) }
    else s.pokeNat off (mergeBits (s.raw off) v k)

/-- The entry of function `f`'s MSI-X table at `o` takes a value; a pending vector that is no longer masked goes out (R401). -/
def State.msixWrite (s : State) (f o v m : Nat) : State :=
  let k := 4096 * f + o
  let s := { s with host := { s.host with msix := smapPut msixReset s.host.msix k (BitVec.ofNat 32 (mergeBits (smapGet msixReset s.host.msix k).toNat v m)) } }
  let e := o / 16
  if ssetHas s.host.pends (64 * f + e) && !bitAt (s.msixWord f e 3) 0 then
    { s with host := { s.host with pends := ssetSet s.host.pends (64 * f + e) false } }.emit (.msix f e)
  else s

/-- A write of LK_CTRL: ENABLE as `PORT_ENABLE`, LANE_TOL by firmware. -/
def State.lkCtrlWrite (s : State) (a : Agent) (p v m : Nat) : State :=
  let s := if bitAt m 30 ∧ a = .firmware ∧ !s.planRuns ∧ !s.selftest then s.setField (rLkCtrl p) 30 1 (bitsAt v 30 1) else s
  if bitAt m 31 then effPortEnable p a (bitAt v 31) s else s

/-- The registers whose write is a row of its own; none for the others. -/
def State.rowWrite (s : State) (a : Agent) (off v m : Nat) : Option State :=
  let w := BitVec.ofNat 32 (v &&& m)
  if off = rStepReq then some (effStepRequest a w s)
  else if off = rEqxCtrl then some (effEquinoxStart a w s)
  else if off = rIcalReq then some (effIntercalaryRequest a w s)
  else if off = rMfCommit then some (effManifestCommit a w s)
  else if off = rGateHold then some (effGateHold a 0 w s)
  else if off = rGateHold + 4 then some (effGateHold a 1 w s)
  else if SY 0x80 ≤ off ∧ off < SY 0xC0 then some (effSyDoorbell a ((off - SY 0x80) / 4) w s)
  else if OB 0x100 ≤ off ∧ off < OB 0x200 ∧ off % 16 = 4 then some (effWatchArm a ((off - OB 0x100) / 16) w s)
  else if OB 0x100 ≤ off ∧ off < OB 0x200 ∧ off % 16 = 0 then
    some (if agentFn a ≠ some ((off - OB 0x100) / 16) ∨ s.selftest then s.ignored else s.set off (mergeBits (s.get off) v m))
  else if LK 0 0 ≤ off ∧ off < HB 0 0 ∧ off % 0x10000 = 4 then some (s.lkCtrlWrite a ((off - LK 0 0) / 0x10000) v m)
  else if 0x1000 ≤ off ∧ off < 0x1800 then some (s.mbxWrite a off v m)
  else if 0xF0000 ≤ off ∧ off < 0xF0400 then some (match agentFn a with
    | some f => s.msixWrite f (off - 0xF0000) v m
    | none => s)
  else none

/-- A write of the 32-bit register at `off`. -/
def State.write32 (s : State) (a : Agent) (off v m : Nat) : State :=
  if !inBlock off || m == 0 then s
  else if TLW 0 0 ≤ off ∧ !s.enabled ((off - TLW 0 0) / 0x10000) then s
  else
    match s.rowWrite a off v m with
    | some s => s
    | none =>
      let row := regRow off
      if row.acc = .counter then s.regWrite off row v m
      else if !mayWrite a off row then s.ignored
      else if row.acc = .ro then s
      else if s.selftest ∧ TM 0 ≤ off then s.ignored
      else s.regWrite off row v m

/-- The bits of the bytes that `en` enables. -/
def byteBits (en : Nat) : Nat := (List.range 4).foldl (fun m i => if bitAt en i then m + 0xFF * 2 ^ (8 * i) else m) 0

/-- `BAR0_WRITE` (R424): the bytes that `en` enables; a write that is not 4 or 8 aligned bytes is dropped whole. -/
def effBar0Write (a : Agent) (off size : Nat) (val : W64) (en : Nat) (s : State) : State :=
  let s := s.touch a
  if !aligned off size then s.ignored
  else
    let s := s.write32 a off (val.toNat % 2 ^ 32) (byteBits (en % 16))
    if size = 8 then s.write32 a (off + 4) (val.toNat / 2 ^ 32) (byteBits (en / 16 % 16)) else s

/-! Counter writes (00 R10). -/

/-- The other half of a counter pair's half, and whether `off` is the LO half; none for a single counter. -/
def counterPair (off : Nat) : Option Bool :=
  if isCounter off && pairLo off then some true
  else if isCounter off && decide (4 ≤ off) && pairLo (off - 4) then some false
  else none

/-- A written counter with `incr` coincident increments: added to the value formed from the written half (17 R426); a chained pair carries (15 R378). -/
def State.counterPut (s : State) (off v incr : Nat) : State :=
  match counterPair off with
  | some true =>
    let n := v + 2 ^ 32 * s.raw (off + 4) + incr
    (s.pokeNat off n).pokeNat (off + 4) (n / 2 ^ 32)
  | some false =>
    let n := s.raw (off - 4) + 2 ^ 32 * v + incr
    (s.pokeNat (off - 4) n).pokeNat off (n / 2 ^ 32)
  | none =>
    let s' := s.pokeNat off (v + incr)
    if s.chainLo off then s'.pokeNat (off + 4) (s.raw (off + 4) + (v + incr) / 2 ^ 32) else s'

/-- `COUNTER_WRITE` (R10): the write wins, and increments of the same cycle are added. -/
def effCounterWrite (a : Agent) (off : Nat) (val : W32) (incr : Nat) (s : State) : State :=
  let s := s.touch a
  if off % 4 ≠ 0 ∨ !isCounter off ∨ (TLW 0 0 ≤ off ∧ !s.enabled ((off - TLW 0 0) / 0x10000)) then s else s.counterPut off val.toNat incr

/-! The meanings of the rows of this family. -/

/-- `COUNTER_WRITE` (R10). -/
def execCounterWrite (a : Agent) (off : Nat) (val : W32) (incr : Nat) (s : State) : Host.Outcome State Fault Refusal := .next (effCounterWrite a off val incr s)

/-- `BAR0_READ` (R426). -/
def execBar0Read (a : Agent) (off size : Nat) (s : State) : Host.Outcome State Fault Refusal := .next (effBar0Read a off size s)

/-- `BAR0_WRITE` (R424). -/
def execBar0Write (a : Agent) (off size : Nat) (val : W64) (en : Nat) (s : State) : Host.Outcome State Fault Refusal := .next (effBar0Write a off size val en s)

/-- `MAILBOX_GO` (R409). -/
def execMailboxGo (a : Agent) (c : Nat) (s : State) : Host.Outcome State Fault Refusal := .next (effMailboxGo a c s)

/-- `MAILBOX_RELEASE` (R409). -/
def execMailboxRelease (a : Agent) (c : Nat) (s : State) : Host.Outcome State Fault Refusal := .next (effMailboxRelease a c s)

end Sys2Proof.Machine
end

