-- ==== Sys2Proof/Machine/Boot.lean ====
section
/-! DEFINITION. Boot, resets, self-test and the main rails (16 R402 to R406, R412 to R419, 17 R427, 18 R434, R435): the operations that the rows of
management and power share. -/

namespace Sys2Proof.Machine

/-! The device description (16 R412, Table 16-15). -/

/-- A routine's entry in the routine table; its dispatch list lies at `off`. -/
def Routine.entry (r : Routine) (off : Nat) : List Byte :=
  bytesOf 1 r.number ++ bytesOf 1 r.cls ++ bytesOf 1 r.reads ++ bytesOf 1 r.writes ++ bytesOf 4 r.len ++ bytesOf 4 off ++ bytesOf 4 (8 * r.list.length)

/-- A routine's dispatch list. -/
def Routine.lists (r : Routine) : List Byte := (r.list.map (fun e => bytesOf 4 e.1 ++ bytesOf 1 e.2 ++ bytesOf 3 0)).flatten

/-- The routine table, with the dispatch lists from `off` on. -/
def routineTable : Nat → List Routine → List Byte
  | _, [] => []
  | off, r :: rs => r.entry off ++ routineTable (off + 8 * r.list.length) rs

/-- The enabled-row map: 24 bits per die. -/
def State.rowMap (s : State) : Nat :=
  (List.range 4).foldl (fun m d => m + (2 ^ 24 - 1 - s.fusedRows d % 2 ^ 24) * 2 ^ (24 * d)) 0

/-- The device description of the device as it stands. -/
def State.describe (s : State) : List Byte :=
  let rs := s.library
  let lists := (rs.map Routine.lists).flatten
  let len := 0x60 + 16 * rs.length + lists.length
  bytesOf 2 1 ++ bytesOf 2 len ++ bytesOf 4 (s.view 16 rPartId) ++ bytesOf 12 s.rowMap ++ bytesOf 2 s.fuse.rows ++ bytesOf 2 0
    ++ ((List.range 8).map (fun c => bytesOf 2 (smapGet (fun _ => 0) s.fuse.rfm c))).flatten ++ bytesOf 2 (s.field rLibVersion 0 16)
    ++ bytesOf 2 rs.length ++ bytesOf 4 0 ++ (bytesOf 48 (Config.libraryDigest (s.field rLibVersion 0 16)).toNat).reverse
    ++ routineTable (0x60 + 16 * rs.length) rs ++ lists

/-- Firmware assembles the description. -/
def State.redescribe (s : State) : State := { s with mg := { s.mg with descr := s.describe } }

/-! Channels (16 R408, R413). -/

/-- Firmware, or in recovery the ROM, binds the channels from the configuration record and locks them. -/
def State.bindRecord (s : State) : State :=
  let s := (List.range 8).foldl (fun s c =>
    let id := s.mg.config.bind.getD c 0x1F
    (s.set (rMbxBind c) (if id = 0x1F then 0 else 2 ^ 31 + id)).setField (rMbxCtrl c) 0 5 id) s
  s.set rMbxLock (2 ^ 31)

/-- An owner reset of channel `c`: back to IDLE; an operation in service runs to completion and its reply is discarded. -/
def State.ownerReset (s : State) (c : Nat) : State :=
  let s := if s.chanFull c then s.bump rMbxReset 1 else s
  let s := s.clrBits (rMbxCtrl c) (2 ^ 30 + 2 ^ 29)
  let s := (List.range 16).foldl (fun s w => s.set (rMbxReq c w) 0) s
  s.setChnl c { s.chnl c with discard := (s.chnl c).service, half := none }

/-- An owner reset of every channel whose owner `p` picks. -/
def State.ownerResets (s : State) (p : Nat → Bool) : State :=
  (List.range 8).foldl (fun s c => if p (s.chanOwner c) then s.ownerReset c else s) s

/-! Function resets (16 R414, Table 16-8). -/

/-- Function `f` is reset: its window base, its MSI-X table and pending bits, its read latches; the completions of its reads are discarded. -/
def State.fnReset (s : State) (f : Nat) : State :=
  let h := s.host
  let h := { h with
    queue := h.queue.filter (fun q => !(q.isRead && agentFn q.who == some f))
    msix := smapDrop h.msix (fun k => k / 4096 == f)
    pends := smapDrop h.pends (fun k => k / 64 == f) }
  { s.set (rHwinBase f) 0 with host := h, latches := smapDrop s.latches (fun k => k / 2 ^ 28 == f) }

/-- Every function is reset, and the vectors' owners; the VFs are disabled. -/
def State.pcieReset (s : State) : State :=
  let s := (List.range 16).foldl State.fnReset s
  let s := s.restore (fun o => decide (0x200 ≤ o) && decide (o < 0x300))
  { s with host := { s.host with vfs := 0 } }.ownerResets (fun i => decide (i < 16))

/-! Blocks losing their state (17 Table 17-3A). -/

/-- TL_EV_CNT_i and TL_EV_SEL_i, which a device reset leaves. -/
def evReg (o : Nat) : Bool := decide (0x1000 ≤ o) && decide (o < 0x1200)

/-- What a device reset leaves of a tile: the event counters and their selections, and the SRAM, which self-test clears. -/
def Tile.deviceReset (tl : Tile) : Tile :=
  { Tile.reset with regs := smapDrop tl.regs (fun o => !evReg o), mem := tl.mem, wrong := tl.wrong, poison := tl.poison, eve := tl.eve }

/-- Applies `f` to every tile that is not at its reset state. -/
def mapTiles (f : Tile → Tile) (m : SMap Tile) : SMap Tile := m.foldl (fun m' e => smapPut (fun _ => Tile.reset) m' e.1 (f e.2)) []

/-- A read latch that shows a pair of a block outside MG; `ev` spares those of the event counters. -/
def blockLatch (ev : Bool) (k : Nat) : Bool :=
  let o := k % 2 ^ 28
  decide (TM 0 ≤ o) && !(ev && decide (TLW 0 0 ≤ o) && evReg ((o - TLW 0 0) % 0x10000))

/-- Every block outside MG is reset and no plan is loaded; `keep` says what stays of a tile. -/
def State.blockReset (s : State) (ev : Bool) (keep : Tile → Tile) : State :=
  { s.restore (fun o => decide (TM 0 ≤ o)) with
    shadow := [], latches := smapDrop s.latches (blockLatch ev), frame := .idle,
    loader := { s.loader with plan := none, loading := none, actions := [] },
    tiles := mapTiles keep s.tiles,
    routers := [], pkts := [], hbmCtl := [], ports := [], sync := .reset, time := .reset, fl := .reset, ob := .reset, serve := .reset }

/-- Firmware rewrites the registers that it holds the values of. -/
def State.rewritePlace (s : State) : State :=
  ((s.set rDeviceAddr s.mg.place).set rDomainLo s.mg.domainLo.toNat).set rDomainHi s.mg.domainHi.toNat

/-- A load in progress is answered FAULT: its device is being reset. -/
def State.dropLoad (s : State) : State :=
  match s.loader.loading with
  | some l => { s with loader := { s.loader with loading := none } }.reply l.req stFault []
  | none => s

/-! Self-test (16 R415, Table 16-10). -/

/-- Self-test begins with phase 1: HBM is not ready and the margin monitors are not calibrated. -/
def State.beginTest (s : State) : State :=
  let s := ((s.orBits rMgStatus (2 ^ 26)).clrBits rMgStatus (2 ^ 24)).set rSelftest (2 ^ 28)
  let s := (s.setField rTmStatus 16 3 0).setField rTmStatus 25 1 0
  { s with mg := { s.mg with testSince := s.now, testFault := false } }.serveHost

/-- A tile's SRAM is zero and good, with no eve bit (02 R44). -/
def Tile.clearSram (tl : Tile) : Tile := { tl with mem := [], wrong := [], poison := [], eve := [] }

/-- What cartridges do at phase 5: those whose latch is closed feed their ports. -/
def State.lightCarts (s : State) : State :=
  (List.range 4).foldl (fun s c => let k := s.cart c; (s.setCart c { k with closedAt := none }).feeds c (k.latched && !k.masque)) s

/-- The work of phase `k`, and what stands at its end. The thresholds that calibration finds are free values (10 R272). -/
def State.testWork (s : State) (k : Nat) : State :=
  if k = 1 then { s with hbm := ⟨[], [], []⟩ }.orBits rMgStatus (2 ^ 24)
  else if k = 2 then
    { s with tiles := mapTiles Tile.clearSram s.tiles }.storeLibrary
  else if k = 3 then
    { s.restore (fun o => decide (SY 0x80000 ≤ o) && decide (o < PL 0)) with sync := { s.sync with due := [], hist := [], base := [] } }
  else if k = 4 then
    let (w, s) := s.draw
    let (c, s) := s.draw
    (((s.setField rMarginWarn 0 8 w.toNat).setField rMarginCrit 0 8 c.toNat).setField rTmStatus 16 3 4).setField rTmStatus 25 1 1
  else s.lightCarts

/-! Device reset (16 R414). -/

/-- A device reset: the plan is stopped at once, every block but MG is reset, and self-test begins if the main rails are on. -/
def State.deviceReset (s : State) : State :=
  let was := s.planState
  let s := (s.dropLoad.blockReset true Tile.deviceReset).rewritePlace
  let s := if was = psEmpty then s else s.raiseVec 8
  if s.bit rMgStatus 21 then s.beginTest else s

/-! The main rails (18 R434, R435). -/

/-- The rails 0 to 12 of 18 Table 18-2. -/
def mainRails : Nat := 2 ^ 13 - 1

/-- The main rails go off: every block but MG loses its state, tiles and HBM their contents, the cartridges their drive, PCIe its link. -/
def State.railsOff (s : State) : State :=
  let s := s.dropLoad.blockReset false (fun _ => Tile.reset)
  let s := ((s.clrBits rMgStatus (2 ^ 21 + 2 ^ 24 + 2 ^ 26)).set rSelftest 0).setField rLibVersion 0 16 0
  let s := (List.range 4).foldl (fun s c => s.setCart c { s.cart c with closedAt := none, feeding := false, masque := false, masqueLeft := 0 }) s
  { s with
    hbm := ⟨[], [], []⟩, library := [], host := { s.host with queue := [] },
    power := { s.power with rails := s.power.rails - (s.power.rails &&& mainRails) } }

/-- The main rails come up in order, and self-test begins. -/
def State.railsOn (s : State) : State :=
  { s with power := { s.power with rails := s.power.rails ||| mainRails, thermTrip := false } }.orBits rMgStatus (2 ^ 21) |>.rewritePlace |>.beginTest

/-- The module's power sequencer takes the rails off, as a shutdown that `SHUTDOWN_COMPLETE` ends. -/
def State.tripOff (s : State) : State := s.railsOff.orBits rMgStatus (2 ^ 23)

/-! Boot (16 R402 to R404). -/

/-- Bank A or B. -/
def State.bank (s : State) (b : Bool) : Bank := if b then s.mg.bankB else s.mg.bankA
def State.setBank (s : State) (b : Bool) (k : Bank) : State :=
  { s with mg := if b then { s.mg with bankB := k } else { s.mg with bankA := k } }

/-- The ROM finds the bank valid: format and signature, an unrevoked key slot, the rollback counter. -/
def State.bankOk (s : State) (b : Bool) : Bool :=
  let k := s.bank b
  k.valid && (List.range 2).any (fun i => s.mg.otp.fwKeys[i]? == some k.key && !bitAt s.mg.otp.fwRevoked i) && decide (s.mg.otp.rollback ≤ k.version)

/-- The bank that the ROM starts: the higher security version, else the one most recently activated. -/
def State.bootChoice (s : State) : Option Bool :=
  match s.bankOk false, s.bankOk true with
  | false, false => none
  | true, false => some false
  | false, true => some true
  | true, true =>
    some (if s.mg.bankA.version < s.mg.bankB.version then true else if s.mg.bankB.version < s.mg.bankA.version then false else s.mg.lastB)

/-- Firmware whose header carries RAISE raises the rollback counter to its own version (R402). -/
def State.raiseRollback (s : State) (k : Bank) : State :=
  if k.raise && decide (s.mg.otp.rollback < k.version) then { s with mg := { s.mg with otp := { s.mg.otp with rollback := k.version } } } else s

/-- Firmware of bank `b` runs. -/
def State.startBank (s : State) (b : Bool) : State :=
  let k := s.bank b
  let s := ((s.raiseRollback k).set rMgBoot (2 ^ 28 + b2n b * 2 ^ 24 + k.version % 2 ^ 16)).setField rLibVersion 16 16 k.lib
  let fresh := s.mg.config.fresh
  let s := { s with mg := { s.mg with phase := .running, fwDigest := k.digest, config := { s.mg.config with fresh := false } } }
  let s := if fresh then s.set rResetPolicy (b2n s.mg.config.perstFull) else s
  let s := (s.orBits rMgStatus (2 ^ 28)).clrBits rMgStatus (2 ^ 27)
  s.bindRecord.redescribe

/-- The rails of recovery: the PCIe interface and HBM (R404), the management controller and the monitors. -/
def recoveryRails : Nat := 2 ^ 8 + 2 ^ 9 + 2 ^ 12 + 2 ^ 13 + 2 ^ 14 + 2 ^ 15

/-- Neither bank is valid: the ROM is in recovery. -/
def State.enterRecovery (s : State) : State :=
  let s := (s.set rMgBoot (2 * 2 ^ 28)).orBits rMgStatus (2 ^ 27)
  { s with
    mg := { s.mg with phase := .recovery }
    power := { s.power with rails := s.power.rails ||| recoveryRails } }.bindRecord

/-- The controller boots, into the bank picked or the one that the ROM chooses. -/
def State.boot (s : State) (pick : Option Bool) : State :=
  match (match pick with
    | some b => if s.bankOk b then some b else s.bootChoice
    | none => s.bootChoice) with
  | some b => s.startBank b
  | none => s.enterRecovery

/-- Firmware, up again, receives the records that waited in the FL queue (R406). -/
def State.receiveWaiting (s : State) : State :=
  let rs := s.fl.queue.drop s.fl.copied
  rs.foldl (fun s r => s.fwLog r 0) { s with fl := { s.fl with copied := s.fl.queue.length } }

/-! Management reset (16 R405, R406, R413, R414). -/

/-- What the controller loses: the requests in service end with FAULT, its log, the halves of keys, its own step request and the wall clock. -/
def State.controllerStops (s : State) : State :=
  let s := match s.loader.loading with
    | some l => s.loadFault l
    | none => s
  let s := s.clrBits rMgStatus (2 ^ 28 + 2 ^ 27)
  let s := (List.range 8).foldl (fun s c =>
    let s := if (s.chnl c).service then s.postChan c stFault [] else s
    s.setChnl c { s.chnl c with half := none }) s
  let s := (s.set64 rWallOffset 0).setField rTmStatus 9 1 0
  let s := { s with loader := { s.loader with held := none }, time := { s.time with lowerWant := none, ptp := false } }
  { s with mg := { s.mg with log := [], stopping := none, eid := 0 } }

/-- A management reset: the controller restarts and boots, into the bank picked if there is one; the plan continues. -/
def State.mgmtReset (s : State) (pick : Option Bool) : State :=
  let s := s.controllerStops.boot pick
  if !s.fwUp then s
  else
    let s := if s.planState = psEmpty ∧ s.bit rMgStatus 21 then s.storeLibrary.redescribe else s
    s.receiveWaiting

/-! Firmware images (16 R402, R405). -/

/-- The bytes of a key as its header carries it, most significant first. -/
def keyBytes (k : BitVec 768) : List Byte := (bytesOf 96 k.toNat).reverse

/-- The bank that an image makes: its format and its signature are checked. -/
def bankFrom (bs : List Byte) : Bank :=
  match Config.fwImage bs with
  | none => ⟨false, 0, 0, false, 0, 0⟩
  | some i =>
    let d := Config.sha384 i.signed
    ⟨Config.ecdsaP384 i.key d i.r i.s, (Config.sha384 (keyBytes i.key)).toNat, i.version, i.raise, i.lib, d.toNat⟩

/-- The bank that is not running: in recovery, the one not activated last. -/
def State.inactive (s : State) : Bool := if s.fwUp then !s.bit rMgBoot 24 else !s.mg.lastB

/-- Copies an image into the inactive bank; whether it passes the checks of R402. -/
def State.stage (s : State) (bs : List Byte) : State × Bool :=
  let s := s.setBank s.inactive (bankFrom bs)
  (s, s.bankOk s.inactive)

/-- The largest firmware image: 16 MiB. -/
def fwLimit : Nat := 16 * 2 ^ 20

/-- The ROM leaves recovery by booting from the bank that it has staged. -/
def State.leaveRecovery (s : State) : State :=
  let b := s.inactive
  if s.recovery then ({ s.clrBits rMgStatus (2 ^ 27) with mg := { s.mg with lastB := b } }.boot (some b)).receiveWaiting else s

end Sys2Proof.Machine
end

