-- ==== Sys2Proof/Machine/Manage.lean ====
section
/-! DEFINITION. Management firmware's requests (16 R403 to R419): taking a request, the MG_ rows, self-test, and the restart of the controller. -/

namespace Sys2Proof.Machine

/-! Taking requests (R410). -/

/-- The opcodes of Table 16-7. -/
def opcodes : List Nat :=
  [0x01, 0x02, 0x03, 0x04, 0x05, 0x06, 0x07, 0x08, 0x09, 0x0A, 0x0B, 0x0C, 0x20, 0x21, 0x22, 0x23, 0x24, 0x25, 0x26, 0x40, 0x41, 0x50]

/-- An MG_KEY request: its ITEM, slot and HALF (Table 16-14). -/
def keyItem (ws : List W32) : Nat := bitsAt (word ws 1) 0 4
def keySlot (ws : List W32) : Nat := bitsAt (word ws 1) 8 4
def keyHalf (ws : List W32) : Bool := bitAt (word ws 1) 12

/-- The request is the HALF 1 of the slot for which `half` is kept (R411). -/
def completesHalf (ws : List W32) (half : Option (Nat × List W32 × Nat)) : Bool :=
  match half with
  | some h => word ws 0 / 2 ^ 24 == 0x0A && keyItem ws == 2 && keyHalf ws && keySlot ws == h.1
  | none => false

/-- A request that no row serves: an opcode or an item that the tables do not define; in recovery, anything but MG_INFO and MG_FW_STAGE on channel 0. -/
def State.unserved (s : State) (c : Nat) (ws : List W32) : Bool :=
  let op := word ws 0 / 2 ^ 24
  if s.recovery then !(c == 0 && [0x01, 0x08].contains op)
  else !opcodes.contains op || (op == 0x0A && !s.selftest && !([1, 2, 3, 4] : List Nat).contains (keyItem ws))

/-- `MAILBOX_TAKE` (R410): firmware takes the request of channel `c`, the first that waits. -/
def effMailboxTake (c : Nat) (s : State) : State :=
  let waits := fun i => s.reqFull i && !(s.chnl i).service
  if !(s.fwUp || s.recovery) || decide (8 ≤ c) || !waits c || (List.range c).any waits then s
  else
    let ws := (List.range 16).map (fun w => BitVec.ofNat 32 (s.get (rMbxReq c w)))
    let k := s.chnl c
    let s := s.setChnl c { k with words := ws, service := true, half := if completesHalf ws k.half then k.half else none }
    if !s.unserved c ws then s
    else if s.selftest && !s.recovery then s.postChan c stBusySelftest [s.remaining]
    else s.postChan c stRejected []

/-- A management request (R411): REJECTED from another sender (none listed: any may send it) or with a nonzero unnamed bit; `named` holds the bits named
in words 1 on. -/
def State.mgDo (s : State) (r : Req) (op : Nat) (senders named : List Nat) (f : List W32 → State) : State :=
  s.answer r op (fun ws =>
    if (senders.isEmpty || senders.contains (s.reqSender r)) && onlyBits (word ws 0) 0xFF000000
        && (List.range 15).all (fun i => onlyBits (word ws (i + 1)) (named.getD i 0)) then f ws
    else s.reply r stRejected [])

/-- All 32 bits of a word. -/
def allBits : Nat := 2 ^ 32 - 1

/-! Information (R411, R412). -/

/-- `MG_INFO` (R411): the reply takes the thermal trip with it. -/
def effMgInfo (r : Req) (s : State) : State :=
  s.mgDo r 0x01 [] [] (fun _ =>
    let trip := match s.mg.trip with
      | some k => 2 ^ 31 + k * 2 ^ 16
      | none => 0
    let ws := [s.view 16 rPartId, s.get rMgBoot, s.get rLibVersion, s.sigPolicy, s.get rPlState, Config.romVersion % 2 ^ 16 + trip]
    { s with mg := { s.mg with trip := none } }.reply r stOk ws)

/-- `MG_FAULTLOG` (R406, R411): a place that holds no record reads 0. -/
def effMgFaultlog (r : Req) (s : State) : State :=
  s.mgDo r 0x06 [] [0xFFF] (fun ws =>
    let rec8 := match s.mg.log[word ws 1]? with
      | some k => (List.range 8).map (fun w => bitsAt k.bytes (32 * w) 32)
      | none => List.replicate 8 0
    s.reply r stOk (rec8 ++ [s.mg.log.length]))

/-- `MG_DESCRIBE` (R412). -/
def effMgDescribe (r : Req) (s : State) : State :=
  s.mgDo r 0x07 [] [allBits] (fun ws =>
    let i := word ws 1
    if s.mg.descr.length ≤ 60 * i then s.reply r stRejected []
    else s.reply r stOk ((List.range 15).map (fun w => numOf ((s.mg.descr.drop (60 * i + 4 * w)).take 4))))

/-! Self-test (R415). -/

/-- `MG_SELFTEST` (R415): accepted in EMPTY, LOADED and STOPPED; it leaves the device in the first-use state of R417. -/
def effMgSelftest (r : Req) (s : State) : State :=
  s.mgDo r 0x02 [0x00, 0x10] [] (fun _ =>
    if !([psEmpty, psLoaded, psStopped] : List Nat).contains s.planState then s.reply r stRejected []
    else
      let s := if s.planState = psEmpty then s else s.unload
      let s := (List.range 16).foldl (fun s p => s.portCtrl p false) s
      let s := (s.setCounterState 0).setField rTmStatus 22 3 0
      let s := { s with time := { s.time with step := none, eqxSince := none, eqxPps := false } }.reply r stOk []
      if s.bit rMgStatus 21 then s.beginTest else s)

/-- What the PLDM events of the module name (R415, 18 R437, R438): a self-test phase that found a fault, a thermal trip, the coolant's inlet and outlet. -/
def evTest := 1
def evTrip := 2
def evInlet := 3
def evOutlet := 4

/-- `SELFTEST_PHASE_END` (R415): the phase's work is done; the next phase begins, or self-test ends. -/
def effSelftestPhaseEnd (fault : Bool) (s : State) : State :=
  let k := s.field rSelftest 28 4
  if !s.selftest || k == 0 then s
  else
    let s := s.testWork k
    let s := if fault then
        let s := (s.orBits rSelftest (2 ^ 27)).orBits rMgStatus (2 ^ 25)
        { s with mg := { s.mg with testFault := true } }.emit (.notify evTest k)
      else s
    if k < 5 then { s with mg := { s.mg with testSince := s.now } }.setField rSelftest 28 4 (k + 1)
    else
      let s := ((s.setField rSelftest 28 4 0).clrBits rMgStatus (2 ^ 26)).setField rMgStatus 25 1 (b2n s.mg.testFault)
      s.redescribe

/-! Resets (R414). -/

/-- `MG_RESET_DEVICE` (R414). -/
def effMgResetDevice (r : Req) (s : State) : State :=
  s.mgDo r 0x03 [0x00, 0x10] [1] (fun ws => if bitAt (word ws 1) 0 then s else (s.reply r stOk []).deviceReset)

/-- `MG_RESET_MANAGEMENT` (R414): the OK is posted before the controller restarts. -/
def effMgResetManagement (r : Req) (s : State) : State :=
  s.mgDo r 0x03 [0x00, 0x10] [1] (fun ws => if bitAt (word ws 1) 0 then (s.reply r stOk []).mgmtReset none else s)

/-- `MGMT_LOCKSTEP_MISCOMPARE` (14 R358): both cores are held, the record waits for the controller, which restarts. -/
def effMgmtLockstepMiscompare (sig : W32) (s : State) : State :=
  if !(s.fwUp || s.recovery) then s
  else
    let s := (s.clrBits rMgStatus (2 ^ 28)).orBits rFlStatus fsMgmt
    (s.record 0x0801 uMgmt 0 sig.toNat).mgmtReset none

/-! Shutdown (R418, R419). -/

/-- `MG_SHUTDOWN` (R418): the plan stops as by PL_STOP; one that arrives during a shutdown clears RESTART_PENDING. -/
def effMgShutdown (r : Req) (s : State) : State :=
  s.mgDo r 0x04 [0x00, 0x10] [] (fun _ =>
    if s.bit rMgStatus 23 then (s.clrBits rMgStatus (2 ^ 22)).reply r stOk []
    else
      let s := (s.orBits rMgStatus (2 ^ 23)).planStop
      { s with mg := { s.mg with stopping := match r with
          | .chan c => some c
          | .firm _ => none } })

/-- Records wait for their ring in HBM: the last frame's trace, and the fault records that firmware has copied (14 R362, 15 R384). -/
def State.ringsWait (s : State) : Bool := s.hbmReady && (!s.ob.trace.isEmpty || decide (0 < s.fl.copied))

/-- `SHUTDOWN_COMPLETE` (R418): the plan has stopped, the dump and the rings are written and the rails are off. A pending restart lets them come up again (R419). -/
def effShutdownComplete (s : State) : State :=
  if !s.bit rMgStatus 23 || s.planRuns || s.frame.running || s.bit rDumpStatus 31 || s.ringsWait then s
  else
    let again := s.bit rMgStatus 22
    let s := (if s.bit rMgStatus 21 then s.railsOff else s).clrBits rMgStatus (2 ^ 23 + 2 ^ 22)
    let wait := s.mg.stopping
    let s := { s with mg := { s.mg with stopping := none }, power := { s.power with held := !again } }
    match wait with
    | some c => s.postChan c stOk []
    | none => s

/-- `MG_POWER_ON` (R419). -/
def effMgPowerOn (r : Req) (s : State) : State :=
  s.mgDo r 0x05 [0x10] [] (fun _ =>
    if s.bit rMgStatus 23 then (s.orBits rMgStatus (2 ^ 22)).reply r stOk []
    else { s with power := { s.power with held := false } }.reply r stOk [])

/-! Firmware (R405). -/

/-- `MG_FW_STAGE` (R405): the image lies in the named lines; in recovery, in stack 0 (R404). -/
def effMgFwStage (r : Req) (s : State) : State :=
  s.mgDo r 0x08 [0x00] [allBits, 1, allBits] (fun ws =>
    let hla := word ws 1 + 2 ^ 32 * word ws 2
    let n := word ws 3
    if n = 0 ∨ fwLimit < n ∨ !s.rangeInHbm hla ((n + 63) / 64) ∨ (s.recovery ∧ 2 ^ 30 ≤ hla) then s.reply r stRejected []
    else
      let (s, bs) := s.hbmLines hla ((n + 63) / 64)
      let (s, ok) := s.stage (bs.take n)
      if ok then (s.reply r stOk []).leaveRecovery else s.reply r stRejected [])

/-- `MG_FW_ACTIVATE` (R405): OK, then a management reset into the staged bank; with none that passes, REJECTED. -/
def effMgFwActivate (r : Req) (s : State) : State :=
  s.mgDo r 0x09 [0x00, 0x10] [] (fun _ =>
    let b := s.inactive
    if !s.bankOk b then s.reply r stRejected []
    else
      let s := s.reply r stOk []
      { s with mg := { s.mg with lastB := b } }.mgmtReset (some b))

/-! Keys (R403, R411). -/

/-- An MG_KEY request for ITEM `item` in plan state EMPTY. -/
def State.keyDo (s : State) (r : Req) (item : Nat) (named : List Nat) (f : List W32 → State) : State :=
  s.answer r 0x0A (fun ws =>
    if keyItem ws ≠ item then s
    else s.mgDo r 0x0A [0x00, 0x10] named (fun ws => if s.planState = psEmpty then f ws else s.reply r stRejected []))

/-- Replaces one-time storage. -/
def State.burn (s : State) (o : Otp) : State := { s with mg := { s.mg with otp := o } }

/-- `MG_KEY_REVOKE_FIRMWARE` (R403): not the last slot that is not revoked. -/
def effMgKeyRevokeFirmware (r : Req) (s : State) : State :=
  s.keyDo r 1 [0xF0F] (fun ws =>
    let k := keySlot ws
    let o := s.mg.otp
    let new := o.fwRevoked ||| 2 ^ k
    if 2 ≤ k ∨ (bitsAt new 0 2 = 3 ∧ !bitAt o.fwRevoked k) then s.reply r stRejected []
    else (s.burn { o with fwRevoked := new }).reply r stOk [])

/-- The coordinate in words 2 to 13, word 2 the most significant. -/
def coordinate (ws : List W32) : Nat := (List.range 12).foldl (fun a i => a * 2 ^ 32 + word ws (2 + i)) 0

/-- `MG_KEY_WRITE_PLAN` (R411): HALF 0 is kept; HALF 1 completes the key. -/
def effMgKeyWritePlan (r : Req) (s : State) : State :=
  s.keyDo r 2 (0x1F0F :: List.replicate 12 allBits) (fun ws =>
    match r with
    | .firm _ => s
    | .chan c =>
      let k := keySlot ws
      let o := s.mg.otp
      let kept := (s.chnl c).half
      let s := s.setChnl c { s.chnl c with half := none }
      if 4 ≤ k then s.reply r stRejected []
      else if !keyHalf ws then (s.setChnl c { s.chnl c with half := some (k, ws, s.now) }).reply r stOk []
      else match kept with
        | none => s.reply r stRejected []
        | some (k0, xs, t) =>
          let key := BitVec.ofNat 768 (coordinate xs * 2 ^ 384 + coordinate ws)
          if k0 ≠ k ∨ t + 10000000000 < s.now ∨ (smapGet (fun _ => none) o.planKeys k).isSome ∨ !Config.validP384 key then s.reply r stRejected []
          else (s.burn { o with planKeys := smapPut (fun _ => none) o.planKeys k (some key) }).reply r stOk [])

/-- `MG_KEY_REVOKE_PLAN` (R403). -/
def effMgKeyRevokePlan (r : Req) (s : State) : State :=
  s.keyDo r 3 [0xF0F] (fun ws =>
    let o := s.mg.otp
    if 4 ≤ keySlot ws then s.reply r stRejected [] else (s.burn { o with planRevoked := o.planRevoked ||| 2 ^ keySlot ws }).reply r stOk [])

/-- `MG_KEY_SET_REQUIRED` (R403). -/
def effMgKeySetRequired (r : Req) (s : State) : State :=
  s.keyDo r 4 [0xF0F] (fun _ => (s.burn { s.mg.otp with required := true }).reply r stOk [])

/-- `MG_KEY_HALF_TIMEOUT` (R411): the halves kept for 10 s are discarded. -/
def effMgKeyHalfTimeout (s : State) : State :=
  (List.range 8).foldl (fun s c =>
    match (s.chnl c).half with
    | some h => if h.2.2 + 10000000000 ≤ s.now then s.setChnl c { s.chnl c with half := none } else s
    | none => s) s

/-! Place and configuration (R408, R411). -/

/-- `MG_PLACE` (R411): LOCKED but in EMPTY, LOADED and STOPPED. -/
def effMgPlace (r : Req) (s : State) : State :=
  s.mgDo r 0x0B [0x10] [0xFFFF, allBits, 0xFFFF] (fun ws =>
    if !([psEmpty, psLoaded, psStopped] : List Nat).contains s.planState then s.reply r stLocked []
    else
      { s with mg := { s.mg with place := word ws 1, domainLo := ws.getD 2 0, domainHi := ws.getD 3 0 } }.rewritePlace.reply r stOk [])

/-- An identity that a channel may be bound to, or 0x1F. -/
def identityOk (i : Nat) : Bool := decide (i ≤ 0x10) || i == 0x1F

/-- `MG_CONFIG` (R408): the record changes; the next management reset uses it. -/
def effMgConfig (r : Req) (s : State) : State :=
  s.mgDo r 0x0C [0x00] [0x3FFFFFFF, 0x3FF, 1] (fun ws =>
    let ids := (List.range 8).map (fun c => if c < 6 then bitsAt (word ws 1) (5 * c) 5 else bitsAt (word ws 2) (5 * (c - 6)) 5)
    if !ids.all identityOk then s.reply r stRejected []
    else { s with mg := { s.mg with config := ⟨ids, bitAt (word ws 3) 0, true⟩ } }.reply r stOk [])

/-! The meanings of the rows of this family. -/

/-- `MAILBOX_TAKE` (R410). -/
def execMailboxTake (c : Nat) (s : State) : Host.Outcome State Fault Refusal := .next (effMailboxTake c s)

/-- `MG_INFO` (R411). -/
def execMgInfo (r : Req) (s : State) : Host.Outcome State Fault Refusal := .next (effMgInfo r s)

/-- `MG_FAULTLOG` (R411). -/
def execMgFaultlog (r : Req) (s : State) : Host.Outcome State Fault Refusal := .next (effMgFaultlog r s)

/-- `MG_DESCRIBE` (R412). -/
def execMgDescribe (r : Req) (s : State) : Host.Outcome State Fault Refusal := .next (effMgDescribe r s)

/-- `MG_SELFTEST` (R415). -/
def execMgSelftest (r : Req) (s : State) : Host.Outcome State Fault Refusal := .next (effMgSelftest r s)

/-- `SELFTEST_PHASE_END` (R415). -/
def execSelftestPhaseEnd (fault : Bool) (s : State) : Host.Outcome State Fault Refusal := .next (effSelftestPhaseEnd fault s)

/-- `MG_RESET_DEVICE` (R414). -/
def execMgResetDevice (r : Req) (s : State) : Host.Outcome State Fault Refusal := .next (effMgResetDevice r s)

/-- `MG_RESET_MANAGEMENT` (R414). -/
def execMgResetManagement (r : Req) (s : State) : Host.Outcome State Fault Refusal := .next (effMgResetManagement r s)

/-- `MGMT_LOCKSTEP_MISCOMPARE` (R358). -/
def execMgmtLockstepMiscompare (sig : W32) (s : State) : Host.Outcome State Fault Refusal := .next (effMgmtLockstepMiscompare sig s)

/-- `MG_SHUTDOWN` (R418). -/
def execMgShutdown (r : Req) (s : State) : Host.Outcome State Fault Refusal := .next (effMgShutdown r s)

/-- `SHUTDOWN_COMPLETE` (R418). -/
def execShutdownComplete (s : State) : Host.Outcome State Fault Refusal := .next (effShutdownComplete s)

/-- `MG_POWER_ON` (R419). -/
def execMgPowerOn (r : Req) (s : State) : Host.Outcome State Fault Refusal := .next (effMgPowerOn r s)

/-- `MG_FW_STAGE` (R405). -/
def execMgFwStage (r : Req) (s : State) : Host.Outcome State Fault Refusal := .next (effMgFwStage r s)

/-- `MG_FW_ACTIVATE` (R405). -/
def execMgFwActivate (r : Req) (s : State) : Host.Outcome State Fault Refusal := .next (effMgFwActivate r s)

/-- `MG_KEY_REVOKE_FIRMWARE` (R403). -/
def execMgKeyRevokeFirmware (r : Req) (s : State) : Host.Outcome State Fault Refusal := .next (effMgKeyRevokeFirmware r s)

/-- `MG_KEY_WRITE_PLAN` (R411). -/
def execMgKeyWritePlan (r : Req) (s : State) : Host.Outcome State Fault Refusal := .next (effMgKeyWritePlan r s)

/-- `MG_KEY_REVOKE_PLAN` (R403). -/
def execMgKeyRevokePlan (r : Req) (s : State) : Host.Outcome State Fault Refusal := .next (effMgKeyRevokePlan r s)

/-- `MG_KEY_SET_REQUIRED` (R403). -/
def execMgKeySetRequired (r : Req) (s : State) : Host.Outcome State Fault Refusal := .next (effMgKeySetRequired r s)

/-- `MG_KEY_HALF_TIMEOUT` (R411). -/
def execMgKeyHalfTimeout (s : State) : Host.Outcome State Fault Refusal := .next (effMgKeyHalfTimeout s)

/-- `MG_PLACE` (R411). -/
def execMgPlace (r : Req) (s : State) : Host.Outcome State Fault Refusal := .next (effMgPlace r s)

/-- `MG_CONFIG` (R408). -/
def execMgConfig (r : Req) (s : State) : Host.Outcome State Fault Refusal := .next (effMgConfig r s)

end Sys2Proof.Machine
end

