-- ==== Sys2Proof/Machine/Mctp.lean ====
section
/-! DEFINITION. MCTP (16 R407, R448): control, PLDM and SPDM messages, whose bodies outside standards lay out, and the vendor-defined message. -/

namespace Sys2Proof.Machine

/-- Message types (Table 16-5). -/
def mtControl := 0x00
def mtPldm := 0x01
def mtSpdm := 0x05
def mtVendor := 0x7E

/-- A message is answered while firmware, or in recovery the ROM, runs; `row` and `value` are what the reply tells. -/
def State.mctpReply (s : State) (typ row arg value : Nat) : State :=
  if s.fwUp || s.recovery then s.emit (.mctp typ (Config.replyBody row arg value)) else s

/-- A PLDM or SPDM message, which the ROM in recovery answers REJECTED (R404). -/
def State.fwReply (s : State) (typ row arg value : Nat) : State :=
  if s.recovery then s.mctpReply typ 0 arg stRejected else s.mctpReply typ row arg value

/-- A PLDM message other than a sensor's, which self-test answers BUSY-SELFTEST (00 R13). -/
def State.pldmReply (s : State) (row arg value : Nat) : State :=
  if s.selftest && !s.recovery then s.mctpReply mtPldm 0 arg stBusySelftest else s.fwReply mtPldm row arg value

/-! Control (Table 16-5). -/

/-- `SET_ENDPOINT_ID` (R413): an owner reset of the BMC's channels. -/
def effSetEndpointId (eid : Nat) (s : State) : State :=
  if !(s.fwUp || s.recovery) then s
  else
    let s := s.ownerResets (· == 0x10)
    { s with mg := { s.mg with eid := eid % 256 } }.mctpReply mtControl 1 eid (eid % 256)

/-- `GET_ENDPOINT_ID` (R407). -/
def effGetEndpointId (body : List Byte) (s : State) : State := s.mctpReply mtControl 2 (numOf body) s.mg.eid

/-- `GET_MCTP_VERSION_SUPPORT` (R407): version 1.3. -/
def effGetMctpVersionSupport (body : List Byte) (s : State) : State := s.mctpReply mtControl 3 (numOf body) 0x13

/-- `GET_MESSAGE_TYPE_SUPPORT` (R407): the types of Table 16-5. -/
def effGetMessageTypeSupport (body : List Byte) (s : State) : State := s.mctpReply mtControl 4 (numOf body) (numOf [0x00, 0x01, 0x05, 0x7E])

/-- `GET_VENDOR_DEFINED_MESSAGE_SUPPORT` (R407). -/
def effGetVendorDefinedMessageSupport (body : List Byte) (s : State) : State := s.mctpReply mtControl 5 (numOf body) 0

/-! PLDM (Table 16-5). -/

/-- `PLDM_BASE_DISCOVERY` (R407). -/
def effPldmBaseDiscovery (body : List Byte) (s : State) : State := s.pldmReply 6 (numOf body) 0

/-- `PLDM_SENSOR_READ` (R407): what the sensor reads is a free value. -/
def effPldmSensorRead (body : List Byte) (s : State) : State :=
  let (v, s) := s.draw
  s.fwReply mtPldm 7 (numOf body) v.toNat

/-- `PLDM_FRU_DATA` (R407). -/
def effPldmFruData (body : List Byte) (s : State) : State := s.pldmReply 8 (numOf body) 0

/-- `PLDM_FIRMWARE_UPDATE` (R407): the image is staged as MG_FW_STAGE does. -/
def effPldmFirmwareUpdate (image : List Byte) (s : State) : State :=
  if !(s.fwUp || s.recovery) then s
  else if s.selftest && !s.recovery then s.mctpReply mtPldm 0 0 stBusySelftest
  else if image.length = 0 ∨ fwLimit < image.length then s.mctpReply mtPldm 9 0 stRejected
  else
    let (s, ok) := s.stage image
    if ok then (s.mctpReply mtPldm 9 0 stOk).leaveRecovery else s.mctpReply mtPldm 9 0 stRejected

/-! SPDM (Table 16-5). -/

/-- `GET_VERSION` (R407): version 1.2. -/
def effGetVersion (body : List Byte) (s : State) : State := s.fwReply mtSpdm 10 (numOf body) 0x12

/-- `GET_CAPABILITIES` (R407). -/
def effGetCapabilities (body : List Byte) (s : State) : State := s.fwReply mtSpdm 11 (numOf body) 0

/-- `NEGOTIATE_ALGORITHMS` (R407). -/
def effNegotiateAlgorithms (body : List Byte) (s : State) : State := s.fwReply mtSpdm 12 (numOf body) 0

/-- `GET_DIGESTS` (R407). -/
def effGetDigests (body : List Byte) (s : State) : State := s.fwReply mtSpdm 13 (numOf body) 0

/-- `GET_CERTIFICATE` (R407). -/
def effGetCertificate (body : List Byte) (s : State) : State := s.fwReply mtSpdm 14 (numOf body) 0

/-- `CHALLENGE` (R407): the answer is signed with a fresh nonce. -/
def effChallenge (body : List Byte) (s : State) : State :=
  let (v, s) := s.draw
  s.fwReply mtSpdm 15 (numOf body) v.toNat

/-- The measurements of Table 16-5 as one number: the ROM's version, the firmware's digest, the policy of one-time storage, the digest of the loaded plan
image. -/
def State.measurements (s : State) : Nat :=
  Config.romVersion % 2 ^ 16 + s.mg.fwDigest % 2 ^ 384 * 2 ^ 16 + s.sigPolicy * 2 ^ 400 + s.loader.digest.getD 0 * 2 ^ 432

/-- `GET_MEASUREMENTS` (R407). -/
def effGetMeasurements (body : List Byte) (s : State) : State := s.fwReply mtSpdm 16 (numOf body) s.measurements

/-! The vendor-defined message (R448, Table 16-16). -/

/-- `MAILBOX_TUNNEL` (R448): the request words and one GO, on a channel of the BMC. -/
def effMailboxTunnel (c : Nat) (words : List W32) (s : State) : State :=
  if !(s.fwUp || s.recovery) then s
  else if !s.owns_ 0x10 c then s.mbxDeny
  else if s.chanFull c then s.overrun c
  else ((List.range 16).foldl (fun s w => s.set (rMbxReq c w) (word words w)) s).go c

/-- The offset and size name a register or an aligned pair within BAR0. -/
def vendorOk (size off : Nat) : Bool := aligned off size && decide (off < 2 ^ 28)

/-- `REGISTER_READ` (R448): through firmware's read latch; self-test answers BUSY-SELFTEST (00 R13). -/
def effRegisterRead (size off : Nat) (s : State) : State :=
  if !s.fwUp then s
  else
    let (s, st, v) := if s.selftest then (s, stBusySelftest, 0)
      else if vendorOk size off then (let (s, v) := s.readReg (latchSource .bmc) off size; (s, stOk, v)) else (s, stRejected, 0)
    s.emit (.mctp mtVendor (bytesOf 1 2 ++ bytesOf 1 st ++ bytesOf 6 0 ++ bytesOf 8 v))

/-- `REGISTER_WRITE` (R448): self-test answers BUSY-SELFTEST (00 R13); the BMC writes RW counters only; a write refused for its field is counted. -/
def effRegisterWrite (size off : Nat) (val : W64) (s : State) : State :=
  if !s.fwUp then s
  else
    let lo := BitVec.ofNat 32 val.toNat
    let hi := BitVec.ofNat 32 (val.toNat / 2 ^ 32)
    let (s, st) :=
      if s.selftest then (s, stBusySelftest)
      else if !vendorOk size off then (s, stRejected)
      else if !isCounter off || (size == 8 && !isCounter (off + 4)) then (s.ignored, stRejected)
      else
        let s := effCounterWrite .bmc off lo 0 s
        (if size = 8 then effCounterWrite .bmc (off + 4) hi 0 s else s, stOk)
    s.emit (.mctp mtVendor (bytesOf 1 3 ++ bytesOf 1 st))

/-! The meanings of the rows of this family. -/

/-- `SET_ENDPOINT_ID` (R413). -/
def execSetEndpointId (eid : Nat) (s : State) : Host.Outcome State Fault Refusal := .next (effSetEndpointId eid s)

/-- `GET_ENDPOINT_ID` (R407). -/
def execGetEndpointId (body : List Byte) (s : State) : Host.Outcome State Fault Refusal := .next (effGetEndpointId body s)

/-- `GET_MCTP_VERSION_SUPPORT` (R407). -/
def execGetMctpVersionSupport (body : List Byte) (s : State) : Host.Outcome State Fault Refusal := .next (effGetMctpVersionSupport body s)

/-- `GET_MESSAGE_TYPE_SUPPORT` (R407). -/
def execGetMessageTypeSupport (body : List Byte) (s : State) : Host.Outcome State Fault Refusal := .next (effGetMessageTypeSupport body s)

/-- `GET_VENDOR_DEFINED_MESSAGE_SUPPORT` (R407). -/
def execGetVendorDefinedMessageSupport (body : List Byte) (s : State) : Host.Outcome State Fault Refusal := .next (effGetVendorDefinedMessageSupport body s)

/-- `PLDM_BASE_DISCOVERY` (R407). -/
def execPldmBaseDiscovery (body : List Byte) (s : State) : Host.Outcome State Fault Refusal := .next (effPldmBaseDiscovery body s)

/-- `PLDM_SENSOR_READ` (R407). -/
def execPldmSensorRead (body : List Byte) (s : State) : Host.Outcome State Fault Refusal := .next (effPldmSensorRead body s)

/-- `PLDM_FRU_DATA` (R407). -/
def execPldmFruData (body : List Byte) (s : State) : Host.Outcome State Fault Refusal := .next (effPldmFruData body s)

/-- `PLDM_FIRMWARE_UPDATE` (R407). -/
def execPldmFirmwareUpdate (image : List Byte) (s : State) : Host.Outcome State Fault Refusal := .next (effPldmFirmwareUpdate image s)

/-- `GET_VERSION` (R407). -/
def execGetVersion (body : List Byte) (s : State) : Host.Outcome State Fault Refusal := .next (effGetVersion body s)

/-- `GET_CAPABILITIES` (R407). -/
def execGetCapabilities (body : List Byte) (s : State) : Host.Outcome State Fault Refusal := .next (effGetCapabilities body s)

/-- `NEGOTIATE_ALGORITHMS` (R407). -/
def execNegotiateAlgorithms (body : List Byte) (s : State) : Host.Outcome State Fault Refusal := .next (effNegotiateAlgorithms body s)

/-- `GET_DIGESTS` (R407). -/
def execGetDigests (body : List Byte) (s : State) : Host.Outcome State Fault Refusal := .next (effGetDigests body s)

/-- `GET_CERTIFICATE` (R407). -/
def execGetCertificate (body : List Byte) (s : State) : Host.Outcome State Fault Refusal := .next (effGetCertificate body s)

/-- `CHALLENGE` (R407). -/
def execChallenge (body : List Byte) (s : State) : Host.Outcome State Fault Refusal := .next (effChallenge body s)

/-- `GET_MEASUREMENTS` (R407). -/
def execGetMeasurements (body : List Byte) (s : State) : Host.Outcome State Fault Refusal := .next (effGetMeasurements body s)

/-- `MAILBOX_TUNNEL` (R448). -/
def execMailboxTunnel (c : Nat) (words : List W32) (s : State) : Host.Outcome State Fault Refusal := .next (effMailboxTunnel c words s)

/-- `REGISTER_READ` (R448). -/
def execRegisterRead (size off : Nat) (s : State) : Host.Outcome State Fault Refusal := .next (effRegisterRead size off s)

/-- `REGISTER_WRITE` (R448). -/
def execRegisterWrite (size off : Nat) (val : W64) (s : State) : Host.Outcome State Fault Refusal := .next (effRegisterWrite size off val s)

end Sys2Proof.Machine
end

