-- ==== Sys2Proof/Machine/Power.lean ====
section
/-! DEFINITION. Power, resets from outside, cooling and cartridges (16 R402, R413, R414, 18 R434 to R446). -/

namespace Sys2Proof.Machine

/-! Inputs (18 R434, R435). -/

/-- What no loss of power changes: the flash, one-time storage and the configuration record, the latches, the inputs, and what has left the device. -/
def State.coldStart (s : State) : State :=
  let r := State.reset
  { r with
    now := s.now, fuse := s.fuse, freeCtr := s.freeCtr, out := s.out, pending := s.pending,
    mg := { r.mg with bankA := s.mg.bankA, bankB := s.mg.bankB, lastB := s.mg.lastB, otp := s.mg.otp, config := s.mg.config },
    power := { r.power with auxIn := s.power.auxIn, mainIn := s.power.mainIn,
                            carts := s.power.carts.foldl (fun m e => smapPut (fun _ => Cart.fresh) m e.1 { Cart.fresh with latched := e.2.latched }) [] } }

/-- `AUX_POWER_GOOD` (16 R402): order 0 of Table 18-4: the straps are sampled and the ROM boots; MG_RESET_POLICY comes from the record. -/
def effAuxPowerGood (strap : Nat) (s : State) : State :=
  if s.power.auxIn then s
  else
    let s := s.coldStart
    let s := { s with
      mg := { s.mg with strap := 0x60 + strap % 8 }
      power := { s.power with auxIn := true, rails := 2 ^ 13 + 2 ^ 15 } }
    (s.set rResetPolicy (b2n s.mg.config.perstFull)).boot none

/-- `AUX_INPUT_LOSS` (R435): the rails go down without a record, and the controller stops. -/
def effAuxInputLoss (s : State) : State :=
  let s := s.coldStart
  { s with power := { s.power with auxIn := false } }

/-- `MAIN_POWER_UP` (R434): firmware runs and 54 V has been in range for 100 ms; self-test begins. A completed shutdown holds the rails off until
MG_POWER_ON. -/
def effMainPowerUp (s : State) : State :=
  let s := { s with power := { s.power with mainIn := true } }
  if !s.fwUp || s.bit rMgStatus 21 || s.bit rMgStatus 23 || s.power.held then s
  else { s with power := { s.power with rails := s.power.rails ||| 2 ^ 14 } }.railsOn

/-- `MAIN_INPUT_LOSS` (R435): 54 V has been out of range for 100 µs. -/
def effMainInputLoss (s : State) : State :=
  let s := { s with power := { s.power with mainIn := false, rails := s.power.rails - (s.power.rails &&& 2 ^ 14) } }
  if s.power.rails &&& mainRails = 0 then s else s.tripOff

/-- The sensors of Table 16-14, word 6: die d, stack c. -/
def tripSensor (k : Nat) : Bool := decide (k < 4) || (decide (0x10 ≤ k) && decide (k < 0x18))

/-- `THERMAL_TRIP` (R438): no record; firmware reports it. -/
def effThermalTrip (sensor : Nat) (s : State) : State :=
  if !tripSensor sensor ∨ s.power.rails &&& mainRails = 0 then s
  else
    let s := { s.tripOff with power := { s.tripOff.power with thermTrip := true }, mg := { s.tripOff.mg with trip := some sensor } }
    if s.fwUp then s.emit (.notify evTrip sensor) else s

/-- `COOLANT_EXCURSION` (R437): a reading of the inlet or the outlet in °C; leaving its limits sends one event per excursion. -/
def effCoolantExcursion (outlet : Bool) (temp : Int) (s : State) : State :=
  let out := if outlet then decide (60 < temp) else decide (temp < 15) || decide (45 < temp)
  let was := if outlet then s.power.outletOut else s.power.inletOut
  if !s.fwUp then s
  else
    let s := { s with power := if outlet then { s.power with outletOut := out } else { s.power with inletOut := out } }
    if out && !was then s.emit (.notify (if outlet then evOutlet else evInlet) (temp + 1024).toNat) else s

/-! Resets from PCIe (16 R414). -/

/-- `PERST_ASSERT` (R414): with PERST_FULL a device reset as well. -/
def effPerstAssert (s : State) : State :=
  let full := s.bit rResetPolicy 0
  let s := s.pcieReset
  if full then s.deviceReset else s

/-- `PCIE_HOT_RESET` (R414). -/
def effPcieHotReset (s : State) : State := s.pcieReset

/-- `FLR_PF0` (R414): VF Enable clears, which resets every VF. -/
def effFlrPf0 (s : State) : State := s.pcieReset

/-- `FLR_VF` (R414). -/
def effFlrVf (n : Nat) (s : State) : State := if 1 ≤ n ∧ n ≤ 15 then (s.fnReset n).ownerResets (· == n) else s

/-! Cartridges (R445). -/

/-- Cartridge `c` goes dark: each of its ports loses a feed, and one that has no other feed loses its light. -/
def State.cartDark (s : State) (c : Nat) : State := (s.setCart c { s.cart c with feeding := false }).feedsLost c false

/-- `CARTRIDGE_LATCH_LIFT` (R445). -/
def effCartridgeLatchLift (c : Nat) (s : State) : State :=
  if 4 ≤ c ∨ !(s.cart c).latched then s
  else
    let s := if (s.cart c).feeding then s.cartDark c else s
    s.setCart c { s.cart c with latched := false, closedAt := none }

/-- `CARTRIDGE_LATCH_CLOSE` (R445): the 5 s wait begins; with the rails off, self-test starts the cartridge. -/
def effCartridgeLatchClose (c : Nat) (s : State) : State :=
  if 4 ≤ c ∨ (s.cart c).latched then s
  else s.setCart c { s.cart c with latched := true, closedAt := if bitAt s.power.rails 11 then some s.now else none }

/-- `CARTRIDGE_START` (Table 18-14): firmware biases the cartridge 5 s after the latch closed; a FEED masque still holds its shutter. -/
def effCartridgeStart (c : Nat) (s : State) : State :=
  match (s.cart c).closedAt with
  | some t => if c < 4 ∧ s.fwUp ∧ t + 5000000000 ≤ s.now then (s.setCart c { s.cart c with closedAt := none }).feeds c (!(s.cart c).masque) else s
  | none => s

/-! The meanings of the rows of this family. -/

/-- `AUX_POWER_GOOD` (R402). -/
def execAuxPowerGood (strap : Nat) (s : State) : Host.Outcome State Fault Refusal := .next (effAuxPowerGood strap s)

/-- `MAIN_POWER_UP` (R434). -/
def execMainPowerUp (s : State) : Host.Outcome State Fault Refusal := .next (effMainPowerUp s)

/-- `AUX_INPUT_LOSS` (R435). -/
def execAuxInputLoss (s : State) : Host.Outcome State Fault Refusal := .next (effAuxInputLoss s)

/-- `MAIN_INPUT_LOSS` (R435). -/
def execMainInputLoss (s : State) : Host.Outcome State Fault Refusal := .next (effMainInputLoss s)

/-- `THERMAL_TRIP` (R438). -/
def execThermalTrip (sensor : Nat) (s : State) : Host.Outcome State Fault Refusal := .next (effThermalTrip sensor s)

/-- `COOLANT_EXCURSION` (R437). -/
def execCoolantExcursion (outlet : Bool) (temp : Int) (s : State) : Host.Outcome State Fault Refusal := .next (effCoolantExcursion outlet temp s)

/-- `PERST_ASSERT` (R414). -/
def execPerstAssert (s : State) : Host.Outcome State Fault Refusal := .next (effPerstAssert s)

/-- `PCIE_HOT_RESET` (R414). -/
def execPcieHotReset (s : State) : Host.Outcome State Fault Refusal := .next (effPcieHotReset s)

/-- `FLR_PF0` (R414). -/
def execFlrPf0 (s : State) : Host.Outcome State Fault Refusal := .next (effFlrPf0 s)

/-- `FLR_VF` (R414). -/
def execFlrVf (n : Nat) (s : State) : Host.Outcome State Fault Refusal := .next (effFlrVf n s)

/-- `CARTRIDGE_LATCH_LIFT` (R445). -/
def execCartridgeLatchLift (c : Nat) (s : State) : Host.Outcome State Fault Refusal := .next (effCartridgeLatchLift c s)

/-- `CARTRIDGE_LATCH_CLOSE` (R445). -/
def execCartridgeLatchClose (c : Nat) (s : State) : Host.Outcome State Fault Refusal := .next (effCartridgeLatchClose c s)

/-- `CARTRIDGE_START` (R445). -/
def execCartridgeStart (c : Nat) (s : State) : Host.Outcome State Fault Refusal := .next (effCartridgeStart c s)

end Sys2Proof.Machine
end

