-- ==== Sys2Proof/Machine/Dispatch.lean ====
section
/-! DEFINITION. The dispatch: one arm for each command, a direct call of its meaning. -/

namespace Sys2Proof.Machine

/-- What a command does to everything but the queue. -/
def exec (i : Instr) (s : State) : Host.Outcome State Fault Refusal :=
  match i with
  | .frameTick => Sys2Proof.Machine.execFrameTick s
  | .commitPoint => Sys2Proof.Machine.execCommitPoint s
  | .planStart => Sys2Proof.Machine.execPlanStart s
  | .commitFlagRaise n t => Sys2Proof.Machine.execCommitFlagRaise n t s
  | .sqNop n t => Sys2Proof.Machine.execSqNop n t s
  | .sqEnd n t => Sys2Proof.Machine.execSqEnd n t s
  | .sqLoop n t => Sys2Proof.Machine.execSqLoop n t s
  | .sqCall n t => Sys2Proof.Machine.execSqCall n t s
  | .sqCallReturn n t => Sys2Proof.Machine.execSqCallReturn n t s
  | .sqHold n t => Sys2Proof.Machine.execSqHold n t s
  | .sqHoldRelease n t => Sys2Proof.Machine.execSqHoldRelease n t s
  | .sqSeti n t => Sys2Proof.Machine.execSqSeti n t s
  | .sqSethi n t => Sys2Proof.Machine.execSqSethi n t s
  | .sqAddi n t => Sys2Proof.Machine.execSqAddi n t s
  | .sqAdd n t => Sys2Proof.Machine.execSqAdd n t s
  | .sqSub n t => Sys2Proof.Machine.execSqSub n t s
  | .sqMul n t => Sys2Proof.Machine.execSqMul n t s
  | .sqAnd n t => Sys2Proof.Machine.execSqAnd n t s
  | .sqOr n t => Sys2Proof.Machine.execSqOr n t s
  | .sqXor n t => Sys2Proof.Machine.execSqXor n t s
  | .sqShl n t => Sys2Proof.Machine.execSqShl n t s
  | .sqShr n t => Sys2Proof.Machine.execSqShr n t s
  | .sqSra n t => Sys2Proof.Machine.execSqSra n t s
  | .sqPops n t => Sys2Proof.Machine.execSqPops n t s
  | .sqEveOpen n t => Sys2Proof.Machine.execSqEveOpen n t s
  | .sqEveClose n t => Sys2Proof.Machine.execSqEveClose n t s
  | .illegalInstruction n t => Sys2Proof.Machine.execIllegalInstruction n t s
  | .engineCommandDispatch n t => Sys2Proof.Machine.execEngineCommandDispatch n t s
  | .mxNop n t => Sys2Proof.Machine.execMxNop n t s
  | .mxMm n w => Sys2Proof.Machine.execMxMm n w s
  | .mxMmi n w => Sys2Proof.Machine.execMxMmi n w s
  | .mxMms n w => Sys2Proof.Machine.execMxMms n w s
  | .mxOperationRetire n t j => Sys2Proof.Machine.execMxOperationRetire n t j s
  | .vxNop n t => Sys2Proof.Machine.execVxNop n t s
  | .vxEw n w => Sys2Proof.Machine.execVxEw n w s
  | .vxCvt n w => Sys2Proof.Machine.execVxCvt n w s
  | .vxRed n w => Sys2Proof.Machine.execVxRed n w s
  | .vxFn n w => Sys2Proof.Machine.execVxFn n w s
  | .vxStn n w => Sys2Proof.Machine.execVxStn n w s
  | .vxRng n w => Sys2Proof.Machine.execVxRng n w s
  | .vxOperationRetire n t j => Sys2Proof.Machine.execVxOperationRetire n t j s
  | .mvNop n t => Sys2Proof.Machine.execMvNop n t s
  | .mvSend n t => Sys2Proof.Machine.execMvSend n t s
  | .mvOsend n t => Sys2Proof.Machine.execMvOsend n t s
  | .mvGet n t => Sys2Proof.Machine.execMvGet n t s
  | .mvPut n t => Sys2Proof.Machine.execMvPut n t s
  | .mvGather n t => Sys2Proof.Machine.execMvGather n t s
  | .mvWait n t => Sys2Proof.Machine.execMvWait n t s
  | .mvSyncSignal n t => Sys2Proof.Machine.execMvSyncSignal n t s
  | .mvSyncArm n t => Sys2Proof.Machine.execMvSyncArm n t s
  | .mvSyncPart n t => Sys2Proof.Machine.execMvSyncPart n t s
  | .mvSyncWait n t => Sys2Proof.Machine.execMvSyncWait n t s
  | .mvSyncRsignal n t => Sys2Proof.Machine.execMvSyncRsignal n t s
  | .mvSyncRpart n t => Sys2Proof.Machine.execMvSyncRpart n t s
  | .mvOperationRetire n t => Sys2Proof.Machine.execMvOperationRetire n t s
  | .anchorMiss n t eng => Sys2Proof.Machine.execAnchorMiss n t eng s
  | .meshHeadArrival n t pkt inp => Sys2Proof.Machine.execMeshHeadArrival n t pkt inp s
  | .meshLineArrival n t pkt line => Sys2Proof.Machine.execMeshLineArrival n t pkt line s
  | .crossingRelease n t inp => Sys2Proof.Machine.execCrossingRelease n t inp s
  | .hbmCommand c w => Sys2Proof.Machine.execHbmCommand c w s
  | .requestFlitArrival c x => Sys2Proof.Machine.execRequestFlitArrival c x s
  | .readLineReady c x l errs => Sys2Proof.Machine.execReadLineReady c x l errs s
  | .hbmDeliverySlot c x l t => Sys2Proof.Machine.execHbmDeliverySlot c x l t s
  | .lateSlot c x t => Sys2Proof.Machine.execLateSlot c x t s
  | .lineArrival n t c x l => Sys2Proof.Machine.execLineArrival n t c x l s
  | .maintenanceSlot c p => Sys2Proof.Machine.execMaintenanceSlot c p s
  | .quietInterval => Sys2Proof.Machine.execQuietInterval s
  | .keepAlive c => Sys2Proof.Machine.execKeepAlive c s
  | .hbmTempSample c temp => Sys2Proof.Machine.execHbmTempSample c temp s
  | .heatModeExit c => Sys2Proof.Machine.execHeatModeExit c s
  | .heatRefresh c p => Sys2Proof.Machine.execHeatRefresh c p s
  | .adaptiveRfmRequest c p => Sys2Proof.Machine.execAdaptiveRfmRequest c p s
  | .caParityError c p => Sys2Proof.Machine.execCaParityError c p s
  | .portEnable p a on => Sys2Proof.Machine.execPortEnable p a on s
  | .fibreClockLock p mask => Sys2Proof.Machine.execFibreClockLock p mask s
  | .signalTimeout p => Sys2Proof.Machine.execSignalTimeout p s
  | .alignTimeout p => Sys2Proof.Machine.execAlignTimeout p s
  | .identTimeout p => Sys2Proof.Machine.execIdentTimeout p s
  | .alignmentMarker p f w => Sys2Proof.Machine.execAlignmentMarker p f w s
  | .codeword p cols => Sys2Proof.Machine.execCodeword p cols s
  | .lossOfSignal p f => Sys2Proof.Machine.execLossOfSignal p f s
  | .feedLoss p second => Sys2Proof.Machine.execFeedLoss p second s
  | .status p => Sys2Proof.Machine.execStatus p s
  | .nak p => Sys2Proof.Machine.execNak p s
  | .abandon p => Sys2Proof.Machine.execAbandon p s
  | .lane p => Sys2Proof.Machine.execLane p s
  | .ident0 p => Sys2Proof.Machine.execIdent0 p s
  | .ident1 p => Sys2Proof.Machine.execIdent1 p s
  | .calendsMarker p => Sys2Proof.Machine.execCalendsMarker p s
  | .calendsMarkerSend p => Sys2Proof.Machine.execCalendsMarkerSend p s
  | .linkControlSend p => Sys2Proof.Machine.execLinkControlSend p s
  | .packetHeader w => Sys2Proof.Machine.execPacketHeader w s
  | .packetTrailer p => Sys2Proof.Machine.execPacketTrailer p s
  | .packetTransmit p vc => Sys2Proof.Machine.execPacketTransmit p vc s
  | .replayTimeout p vc => Sys2Proof.Machine.execReplayTimeout p vc s
  | .packetReplay p => Sys2Proof.Machine.execPacketReplay p s
  | .regularDelivery p vc k j => Sys2Proof.Machine.execRegularDelivery p vc k j s
  | .noticeConfirm p vc k => Sys2Proof.Machine.execNoticeConfirm p vc k s
  | .noticeFail p vc k => Sys2Proof.Machine.execNoticeFail p vc k s
  | .noticeLeap p vc k => Sys2Proof.Machine.execNoticeLeap p vc k s
  | .noticeDead p vc k => Sys2Proof.Machine.execNoticeDead p vc k s
  | .leapDelivery p vc k => Sys2Proof.Machine.execLeapDelivery p vc k s
  | .rangeResolve n t e => Sys2Proof.Machine.execRangeResolve n t e s
  | .reexecution n t => Sys2Proof.Machine.execReexecution n t s
  | .forwardLine p vc k j => Sys2Proof.Machine.execForwardLine p vc k j s
  | .storeAndForward p vc k => Sys2Proof.Machine.execStoreAndForward p vc k s
  | .deadlineFault p vc k => Sys2Proof.Machine.execDeadlineFault p vc k s
  | .peerVigil p vc => Sys2Proof.Machine.execPeerVigil p vc s
  | .stepRequest a val => Sys2Proof.Machine.execStepRequest a val s
  | .stepChange => Sys2Proof.Machine.execStepChange s
  | .marginWarning r m => Sys2Proof.Machine.execMarginWarning r m s
  | .marginWarnEpisodeEnd => Sys2Proof.Machine.execMarginWarnEpisodeEnd s
  | .marginCritical r m => Sys2Proof.Machine.execMarginCritical r m s
  | .counterCompare => Sys2Proof.Machine.execCounterCompare s
  | .referenceLoss => Sys2Proof.Machine.execReferenceLoss s
  | .holdoverLimit => Sys2Proof.Machine.execHoldoverLimit s
  | .referenceRecovery => Sys2Proof.Machine.execReferenceRecovery s
  | .timePllLock => Sys2Proof.Machine.execTimePllLock s
  | .ppsEdge => Sys2Proof.Machine.execPpsEdge s
  | .equinoxStart a val => Sys2Proof.Machine.execEquinoxStart a val s
  | .equinoxPpsTimeout => Sys2Proof.Machine.execEquinoxPpsTimeout s
  | .equinoxCorrection => Sys2Proof.Machine.execEquinoxCorrection s
  | .equinoxTrialTimeout => Sys2Proof.Machine.execEquinoxTrialTimeout s
  | .ptpSync off => Sys2Proof.Machine.execPtpSync off s
  | .syDoorbell a f val => Sys2Proof.Machine.execSyDoorbell a f val s
  | .vigilExpiry n => Sys2Proof.Machine.execVigilExpiry n s
  | .hangDump => Sys2Proof.Machine.execHangDump s
  | .sySet r => Sys2Proof.Machine.execSySet r s
  | .syClear r => Sys2Proof.Machine.execSyClear r s
  | .plLoad r => Sys2Proof.Machine.execPlLoad r s
  | .plLoadReuse r => Sys2Proof.Machine.execPlLoadReuse r s
  | .heldLoadBegin => Sys2Proof.Machine.execHeldLoadBegin s
  | .plVerify r => Sys2Proof.Machine.execPlVerify r s
  | .plArm r => Sys2Proof.Machine.execPlArm r s
  | .plStop r => Sys2Proof.Machine.execPlStop r s
  | .plUnload r => Sys2Proof.Machine.execPlUnload r s
  | .plAction r => Sys2Proof.Machine.execPlAction r s
  | .intercalaryRequest a val => Sys2Proof.Machine.execIntercalaryRequest a val s
  | .gateHold a half val => Sys2Proof.Machine.execGateHold a half val s
  | .manifestCommit a val => Sys2Proof.Machine.execManifestCommit a val s
  | .plCopy r => Sys2Proof.Machine.execPlCopy r s
  | .copyComplete => Sys2Proof.Machine.execCopyComplete s
  | .railExcursion rail above => Sys2Proof.Machine.execRailExcursion rail above s
  | .mgmtLockstepMiscompare sig => Sys2Proof.Machine.execMgmtLockstepMiscompare sig s
  | .exchangePacketSend p => Sys2Proof.Machine.execExchangePacketSend p s
  | .masqueRequest r => Sys2Proof.Machine.execMasqueRequest r s
  | .traceRingWrite => Sys2Proof.Machine.execTraceRingWrite s
  | .digestRingWrite => Sys2Proof.Machine.execDigestRingWrite s
  | .watchArm a f val => Sys2Proof.Machine.execWatchArm a f val s
  | .watchCopy g l => Sys2Proof.Machine.execWatchCopy g l s
  | .counterWrite a off val incr => Sys2Proof.Machine.execCounterWrite a off val incr s
  | .bar0Write a off size val en => Sys2Proof.Machine.execBar0Write a off size val en s
  | .bar2Read a off len => Sys2Proof.Machine.execBar2Read a off len s
  | .bar2ReadCompletion a => Sys2Proof.Machine.execBar2ReadCompletion a s
  | .bar2Write a off data => Sys2Proof.Machine.execBar2Write a off data s
  | .mailboxGo a c => Sys2Proof.Machine.execMailboxGo a c s
  | .mailboxTake c => Sys2Proof.Machine.execMailboxTake c s
  | .mailboxRelease a c => Sys2Proof.Machine.execMailboxRelease a c s
  | .mgInfo r => Sys2Proof.Machine.execMgInfo r s
  | .mgSelftest r => Sys2Proof.Machine.execMgSelftest r s
  | .selftestPhaseEnd fault => Sys2Proof.Machine.execSelftestPhaseEnd fault s
  | .mgResetDevice r => Sys2Proof.Machine.execMgResetDevice r s
  | .mgResetManagement r => Sys2Proof.Machine.execMgResetManagement r s
  | .mgShutdown r => Sys2Proof.Machine.execMgShutdown r s
  | .shutdownComplete => Sys2Proof.Machine.execShutdownComplete s
  | .mgPowerOn r => Sys2Proof.Machine.execMgPowerOn r s
  | .mgFaultlog r => Sys2Proof.Machine.execMgFaultlog r s
  | .mgDescribe r => Sys2Proof.Machine.execMgDescribe r s
  | .mgFwStage r => Sys2Proof.Machine.execMgFwStage r s
  | .mgFwActivate r => Sys2Proof.Machine.execMgFwActivate r s
  | .mgKeyRevokeFirmware r => Sys2Proof.Machine.execMgKeyRevokeFirmware r s
  | .mgKeyWritePlan r => Sys2Proof.Machine.execMgKeyWritePlan r s
  | .mgKeyRevokePlan r => Sys2Proof.Machine.execMgKeyRevokePlan r s
  | .mgKeySetRequired r => Sys2Proof.Machine.execMgKeySetRequired r s
  | .mgKeyHalfTimeout => Sys2Proof.Machine.execMgKeyHalfTimeout s
  | .mgPlace r => Sys2Proof.Machine.execMgPlace r s
  | .mgConfig r => Sys2Proof.Machine.execMgConfig r s
  | .setEndpointId eid => Sys2Proof.Machine.execSetEndpointId eid s
  | .getEndpointId body => Sys2Proof.Machine.execGetEndpointId body s
  | .getMctpVersionSupport body => Sys2Proof.Machine.execGetMctpVersionSupport body s
  | .getMessageTypeSupport body => Sys2Proof.Machine.execGetMessageTypeSupport body s
  | .getVendorDefinedMessageSupport body => Sys2Proof.Machine.execGetVendorDefinedMessageSupport body s
  | .pldmBaseDiscovery body => Sys2Proof.Machine.execPldmBaseDiscovery body s
  | .pldmSensorRead body => Sys2Proof.Machine.execPldmSensorRead body s
  | .pldmFruData body => Sys2Proof.Machine.execPldmFruData body s
  | .pldmFirmwareUpdate image => Sys2Proof.Machine.execPldmFirmwareUpdate image s
  | .getVersion body => Sys2Proof.Machine.execGetVersion body s
  | .getCapabilities body => Sys2Proof.Machine.execGetCapabilities body s
  | .negotiateAlgorithms body => Sys2Proof.Machine.execNegotiateAlgorithms body s
  | .getDigests body => Sys2Proof.Machine.execGetDigests body s
  | .getCertificate body => Sys2Proof.Machine.execGetCertificate body s
  | .challenge body => Sys2Proof.Machine.execChallenge body s
  | .getMeasurements body => Sys2Proof.Machine.execGetMeasurements body s
  | .mailboxTunnel c words => Sys2Proof.Machine.execMailboxTunnel c words s
  | .registerRead size off => Sys2Proof.Machine.execRegisterRead size off s
  | .registerWrite size off val => Sys2Proof.Machine.execRegisterWrite size off val s
  | .auxPowerGood strap => Sys2Proof.Machine.execAuxPowerGood strap s
  | .mainPowerUp => Sys2Proof.Machine.execMainPowerUp s
  | .perstAssert => Sys2Proof.Machine.execPerstAssert s
  | .pcieHotReset => Sys2Proof.Machine.execPcieHotReset s
  | .flrPf0 => Sys2Proof.Machine.execFlrPf0 s
  | .flrVf n => Sys2Proof.Machine.execFlrVf n s
  | .mainInputLoss => Sys2Proof.Machine.execMainInputLoss s
  | .auxInputLoss => Sys2Proof.Machine.execAuxInputLoss s
  | .thermalTrip sensor => Sys2Proof.Machine.execThermalTrip sensor s
  | .coolantExcursion outlet temp => Sys2Proof.Machine.execCoolantExcursion outlet temp s
  | .cartridgeLatchLift c => Sys2Proof.Machine.execCartridgeLatchLift c s
  | .cartridgeStart c => Sys2Proof.Machine.execCartridgeStart c s
  | .bar0Read a off size => Sys2Proof.Machine.execBar0Read a off size s
  | .loadCompletion fault => Sys2Proof.Machine.execLoadCompletion fault s
  | .cartridgeLatchClose c => Sys2Proof.Machine.execCartridgeLatchClose c s

end Sys2Proof.Machine
end

