-- ==== Sys2Proof/Machine/Tick.lean ====
section
/-! DEFINITION. What a nanosecond changes by itself (08 R203, 10 R275, 14 R363, 15 Table 15-9): the step that is taken while no command waits. -/

namespace Sys2Proof.Machine

/-- The global time counter, in trial and set, and its duplicate advance by one. -/
def State.clockEdge (s : State) : State :=
  if s.counterState = 0 then s
  else { s with time := { s.time with counter := s.time.counter + 1, twin := s.time.twin + 1 } }

/-- OB_STEP_TIME of the step in force counts while a plan is ARMED or RUNNING (15 Table 15-9). -/
def State.stepTime (s : State) : State := if s.planRuns then s.bump64 (rStepTime s.step_) 1 else s

/-- With no frame running, records written since the last fault interrupt raise one, no sooner than 10 µs after it (14 R363). -/
def State.lateIrq (s : State) : State :=
  let due := match s.fl.lastIrq with
    | some a => decide (a + 10000 ≤ s.now)
    | none => true
  if s.fl.wrote && s.bit rFlIrq 31 && !s.frame.running && due then
    { s with fl := { s.fl with wrote := false, lastIrq := some s.now } }.raiseVec (s.field rFlIrq 0 6)
  else s

/-- The codeword slots that begin in this nanosecond, on every port (08 R203). -/
def State.frameSlots (s : State) : State := (List.range 16).foldl State.frameSlot s

/-- One nanosecond passes. -/
def State.tick (s : State) : State := (let s := s.frameSlots; { s with now := s.now + 1 }).clockEdge.stepTime.lateIrq.syncRun

end Sys2Proof.Machine
end

