-- ==== Sys2Proof/WellFormed.lean ====
section
/-! DEFINITION. Well-formed commands: every operand names a unit that the device has. A meaning is total: on an operand that names no unit it
leaves the device as it was. -/

namespace Sys2Proof

/-- A tile (02 R40). -/
def tileOk (n : Nat) : Bool := decide (n < 1536)
/-- A port (08 R197). -/
def portOk (p : Nat) : Bool := decide (p < 16)
/-- A fibre of a port (08 R198). -/
def fibreOk (f : Nat) : Bool := decide (f < 13)
/-- A virtual channel of a port (08 R219). -/
def vcOk (v : Nat) : Bool := decide (v < 2)
/-- One of eight: an HBM controller (06 R150) or a mailbox channel (16 R408). -/
def unitOk (c : Nat) : Bool := decide (c < 8)
/-- A pseudo-channel of a stack (06 Table 6-4). -/
def pcOk (p : Nat) : Bool := decide (p < 64)
/-- A PCIe function (16 Table 16-1). -/
def fnOk (f : Nat) : Bool := decide (f < 16)
/-- A virtual function (16 Table 16-1). -/
def vfOk (n : Nat) : Bool := decide (1 ≤ n) && decide (n ≤ 15)
/-- A clock region (02 R40). -/
def regionOk (r : Nat) : Bool := decide (r < 96)
/-- A rail (18 Table 18-2). -/
def railOk (r : Nat) : Bool := decide (r < 16)
/-- A laser cartridge (18 Table 18-14). -/
def cartOk (c : Nat) : Bool := decide (c < 4)
/-- A temperature sensor (16 Table 16-14): die d, or 0x10 + stack c. -/
def sensorOk (k : Nat) : Bool := decide (k < 4) || (decide (0x10 ≤ k) && decide (k < 0x18))
/-- 4 or 8 aligned bytes of BAR0 (17 R424). -/
def sizeOk (size off : Nat) : Bool := (size == 4 || size == 8) && off % size == 0 && decide (off < 2 ^ 28)
/-- `n` symbols of 10 bits (08 R200, R204). -/
def symsOk (n : Nat) (syms : List Nat) : Bool := syms.length == n && syms.all (fun x => decide (x < 1024))
/-- A sender that exists. -/
def agentOk : Agent → Bool
  | .vf n => vfOk n
  | _ => true
/-- A request on a channel that exists, or firmware's own of at most 16 words. -/
def reqOk : Req → Bool
  | .chan c => unitOk c
  | .firm ws => decide (ws.length ≤ 16)

/-- The operands of a command name what the device has. -/
def Instr.wf : Instr → Bool
  | .frameTick => true
  | .commitPoint => true
  | .planStart => true
  | .commitFlagRaise n _ => tileOk n
  | .sqNop n _ => tileOk n
  | .sqEnd n _ => tileOk n
  | .sqLoop n _ => tileOk n
  | .sqCall n _ => tileOk n
  | .sqCallReturn n _ => tileOk n
  | .sqHold n _ => tileOk n
  | .sqHoldRelease n _ => tileOk n
  | .sqSeti n _ => tileOk n
  | .sqSethi n _ => tileOk n
  | .sqAddi n _ => tileOk n
  | .sqAdd n _ => tileOk n
  | .sqSub n _ => tileOk n
  | .sqMul n _ => tileOk n
  | .sqAnd n _ => tileOk n
  | .sqOr n _ => tileOk n
  | .sqXor n _ => tileOk n
  | .sqShl n _ => tileOk n
  | .sqShr n _ => tileOk n
  | .sqSra n _ => tileOk n
  | .sqPops n _ => tileOk n
  | .sqEveOpen n _ => tileOk n
  | .sqEveClose n _ => tileOk n
  | .illegalInstruction n _ => tileOk n
  | .engineCommandDispatch n _ => tileOk n
  | .mxNop n _ => tileOk n
  | .mxMm n _ => tileOk n
  | .mxMmi n _ => tileOk n
  | .mxMms n _ => tileOk n
  | .mxOperationRetire n _ _ => tileOk n
  | .vxNop n _ => tileOk n
  | .vxEw n _ => tileOk n
  | .vxCvt n _ => tileOk n
  | .vxRed n _ => tileOk n
  | .vxFn n _ => tileOk n
  | .vxStn n _ => tileOk n
  | .vxRng n _ => tileOk n
  | .vxOperationRetire n _ _ => tileOk n
  | .mvNop n _ => tileOk n
  | .mvSend n _ => tileOk n
  | .mvOsend n _ => tileOk n
  | .mvGet n _ => tileOk n
  | .mvPut n _ => tileOk n
  | .mvGather n _ => tileOk n
  | .mvWait n _ => tileOk n
  | .mvSyncSignal n _ => tileOk n
  | .mvSyncArm n _ => tileOk n
  | .mvSyncPart n _ => tileOk n
  | .mvSyncWait n _ => tileOk n
  | .mvSyncRsignal n _ => tileOk n
  | .mvSyncRpart n _ => tileOk n
  | .mvOperationRetire n _ => tileOk n
  | .anchorMiss n _ _ => tileOk n
  | .meshHeadArrival n _ _ inp => tileOk n && decide (inp < 5)
  | .meshLineArrival n _ _ _ => tileOk n
  | .crossingRelease n _ inp => tileOk n && decide (inp < 5)
  | .hbmCommand c _ => unitOk c
  | .requestFlitArrival c _ => unitOk c
  | .readLineReady c _ _ _ => unitOk c
  | .hbmDeliverySlot c _ _ _ => unitOk c
  | .lateSlot c _ _ => unitOk c
  | .lineArrival n _ c _ _ => tileOk n && unitOk c
  | .maintenanceSlot c p => unitOk c && pcOk p
  | .quietInterval => true
  | .keepAlive c => unitOk c
  | .hbmTempSample c _ => unitOk c
  | .heatModeExit c => unitOk c
  | .heatRefresh c p => unitOk c && pcOk p
  | .adaptiveRfmRequest c p => unitOk c && pcOk p
  | .caParityError c p => unitOk c && pcOk p
  | .portEnable p a _ => portOk p && agentOk a
  | .fibreClockLock p mask => portOk p && decide (mask < 2 ^ 13)
  | .signalTimeout p => portOk p
  | .alignTimeout p => portOk p
  | .identTimeout p => portOk p
  | .alignmentMarker p f w => portOk p && fibreOk f && symsOk 23 w.syms
  | .codeword p cols => portOk p && decide (23 ≤ cols.length) && decide (cols.length ≤ 26) && cols.all (symsOk 13)
  | .lossOfSignal p f => portOk p && fibreOk f
  | .feedLoss p _ => portOk p
  | .status p => portOk p
  | .nak p => portOk p
  | .abandon p => portOk p
  | .lane p => portOk p
  | .ident0 p => portOk p
  | .ident1 p => portOk p
  | .calendsMarker p => portOk p
  | .calendsMarkerSend p => portOk p
  | .linkControlSend p => portOk p
  | .packetHeader w => portOk w.port && w.marks.all (fun i => decide (i < 128))
  | .packetTrailer p => portOk p
  | .packetTransmit p vc => portOk p && vcOk vc
  | .replayTimeout p vc => portOk p && vcOk vc
  | .packetReplay p => portOk p
  | .regularDelivery p vc _ _ => portOk p && vcOk vc
  | .noticeConfirm p vc _ => portOk p && vcOk vc
  | .noticeFail p vc _ => portOk p && vcOk vc
  | .noticeLeap p vc _ => portOk p && vcOk vc
  | .noticeDead p vc _ => portOk p && vcOk vc
  | .leapDelivery p vc _ => portOk p && vcOk vc
  | .rangeResolve n _ e => tileOk n && decide (e < 16)
  | .reexecution n _ => tileOk n
  | .forwardLine p vc _ _ => portOk p && vcOk vc
  | .storeAndForward p vc _ => portOk p && vcOk vc
  | .deadlineFault p vc _ => portOk p && vcOk vc
  | .peerVigil p vc => portOk p && vcOk vc
  | .stepRequest a _ => agentOk a
  | .stepChange => true
  | .marginWarning r _ => regionOk r
  | .marginWarnEpisodeEnd => true
  | .marginCritical r _ => regionOk r
  | .counterCompare => true
  | .referenceLoss => true
  | .holdoverLimit => true
  | .referenceRecovery => true
  | .timePllLock => true
  | .ppsEdge => true
  | .equinoxStart a _ => agentOk a
  | .equinoxPpsTimeout => true
  | .equinoxCorrection => true
  | .equinoxTrialTimeout => true
  | .ptpSync _ => true
  | .syDoorbell a f _ => agentOk a && fnOk f
  | .vigilExpiry n => tileOk n
  | .hangDump => true
  | .sySet r => reqOk r
  | .syClear r => reqOk r
  | .plLoad r => reqOk r
  | .plLoadReuse r => reqOk r
  | .heldLoadBegin => true
  | .plVerify r => reqOk r
  | .plArm r => reqOk r
  | .plStop r => reqOk r
  | .plUnload r => reqOk r
  | .plAction r => reqOk r
  | .intercalaryRequest a _ => agentOk a
  | .gateHold a half _ => agentOk a && decide (half < 2)
  | .manifestCommit a _ => agentOk a
  | .plCopy r => reqOk r
  | .copyComplete => true
  | .railExcursion rail _ => railOk rail
  | .mgmtLockstepMiscompare _ => true
  | .exchangePacketSend p => portOk p
  | .masqueRequest r => reqOk r
  | .traceRingWrite => true
  | .digestRingWrite => true
  | .watchArm a f _ => agentOk a && fnOk f
  | .watchCopy _ _ => true
  | .counterWrite a _ _ _ => agentOk a
  | .bar0Write a off size _ _ => agentOk a && sizeOk size off
  | .bar2Read a _ _ => agentOk a
  | .bar2ReadCompletion a => agentOk a
  | .bar2Write a _ _ => agentOk a
  | .mailboxGo a c => agentOk a && unitOk c
  | .mailboxTake c => unitOk c
  | .mailboxRelease a c => agentOk a && unitOk c
  | .mgInfo r => reqOk r
  | .mgSelftest r => reqOk r
  | .selftestPhaseEnd _ => true
  | .mgResetDevice r => reqOk r
  | .mgResetManagement r => reqOk r
  | .mgShutdown r => reqOk r
  | .shutdownComplete => true
  | .mgPowerOn r => reqOk r
  | .mgFaultlog r => reqOk r
  | .mgDescribe r => reqOk r
  | .mgFwStage r => reqOk r
  | .mgFwActivate r => reqOk r
  | .mgKeyRevokeFirmware r => reqOk r
  | .mgKeyWritePlan r => reqOk r
  | .mgKeyRevokePlan r => reqOk r
  | .mgKeySetRequired r => reqOk r
  | .mgKeyHalfTimeout => true
  | .mgPlace r => reqOk r
  | .mgConfig r => reqOk r
  | .setEndpointId _ => true
  | .getEndpointId _ => true
  | .getMctpVersionSupport _ => true
  | .getMessageTypeSupport _ => true
  | .getVendorDefinedMessageSupport _ => true
  | .pldmBaseDiscovery _ => true
  | .pldmSensorRead _ => true
  | .pldmFruData _ => true
  | .pldmFirmwareUpdate _ => true
  | .getVersion _ => true
  | .getCapabilities _ => true
  | .negotiateAlgorithms _ => true
  | .getDigests _ => true
  | .getCertificate _ => true
  | .challenge _ => true
  | .getMeasurements _ => true
  | .mailboxTunnel c words => unitOk c && words.length == 16
  | .registerRead size off => sizeOk size off
  | .registerWrite size off _ => sizeOk size off
  | .auxPowerGood _ => true
  | .mainPowerUp => true
  | .perstAssert => true
  | .pcieHotReset => true
  | .flrPf0 => true
  | .flrVf n => vfOk n
  | .mainInputLoss => true
  | .auxInputLoss => true
  | .thermalTrip sensor => sensorOk sensor
  | .coolantExcursion _ _ => true
  | .cartridgeLatchLift c => cartOk c
  | .cartridgeStart c => cartOk c
  | .bar0Read a off size => agentOk a && sizeOk size off
  | .loadCompletion _ => true
  | .cartridgeLatchClose c => cartOk c

end Sys2Proof
end

