-- ==== Sys2Proof/Safety.lean ====
section
/-! DEFINITION. What a safe run is, in the terms that statements use: every sparse map of the device is in its canonical form, and a command that
names a unit names one that exists. -/

namespace Sys2Proof.Machine

/-! What statements say of a command. -/

/-- `exec` answers a next state, of which `P` holds. -/
def Answers (c : Instr) (s : State) (P : State → Prop) : Prop := ∃ u, exec c s = .next u ∧ P u

/-- What only a write of SRAM, a scalar write, an engine or the eve machinery changes on a tile; counters, status bits and records do not. -/
def Tile.steady (tl : Tile) := (tl.mem, tl.eve, tl.sregs, tl.routes, tl.seq, tl.mx, tl.vx, tl.mv, tl.tags, tl.ranges, tl.openRange, tl.tracker, tl.frozen, tl.retired)

/-- A register of a barrier or a queue of the tile window (02 Tables 2-9, 2-10). -/
def isObj (off : Nat) : Bool := (decide (0x40 ≤ off) && decide (off < 0x80)) || (decide (0x200 ≤ off) && decide (off < 0xA00))

/-- The barriers and queues of the two tiles read the same. -/
def Tile.sameObjs (a b : Tile) : Prop := ∀ off, isObj off = true → a.get off = b.get off

/-- The two tiles are the same but for counters, status bits, records, the trace and the slots charged. -/
def Tile.like (a b : Tile) : Prop := a.steady = b.steady ∧ a.sameObjs b

/-- What an event inside one tile leaves alone on the device, beside the other tiles, the registers and its own packets' lines: memories, links, the routers,
synchronisation, time, the plan, power, the queue. -/
def State.far (s : State) := (s.shadow, s.latches, s.loader, s.routers, s.hbmCtl, s.hbm, s.ports, s.sync, s.time, s.serve, s.power, s.library,
  s.freeCtr, s.now, s.fuse, s.pending)

/-- A packet without the lines that tile `n`'s move engine has read for it so far (06 R146). -/
def Packet.past (n : Nat) (k : Packet) : Packet :=
  match k.from_ with
  | .mv _ _ => if k.src = n then { k with lines := [] } else k
  | _ => k

/-- The packets on the mesh, but for the lines of tile `n`'s own that have left the tile. -/
def State.sent (s : State) (n : Nat) : List Packet := s.pkts.map (Packet.past n)

/-- One-time storage `b` holds all that `a` holds (16 R403, Table 16-4): keys stay as written, and revocation bits, the rollback counter and REQUIRED only
rise. -/
def Otp.grows (a b : Otp) : Prop :=
  b.fwKeys = a.fwKeys ∧ (∀ k, bitAt a.fwRevoked k = true → bitAt b.fwRevoked k = true) ∧ a.rollback ≤ b.rollback
    ∧ (∀ k key, smapGet (fun _ => none) a.planKeys k = some key → smapGet (fun _ => none) b.planKeys k = some key)
    ∧ (∀ k, bitAt a.planRevoked k = true → bitAt b.planRevoked k = true) ∧ (a.required = true → b.required = true)

/-- What hardly any command changes: the model's time, the fuses, one-time storage and the queue of waiting commands. -/
def State.base (s : State) : Nat × Fuse × Otp × List Instr := (s.now, s.fuse, s.mg.otp, s.pending)

/-- From `s` to `u` the model's time, the fuses and the queue stay, and one-time storage only grows. -/
def State.grows (s u : State) : Prop := u.now = s.now ∧ u.fuse = s.fuse ∧ u.pending = s.pending ∧ s.mg.otp.grows u.mg.otp

/-- A register of the FL block (17 Table 17-10). -/
def isFl (off : Nat) : Bool := decide (FL 0 ≤ off) && decide (off < FL 0x10000)

/-- From `s` to `u` tile `n` changes, and with it at most the fault log, the frame's status, what leaves the device and the packets on the mesh. -/
def TileAndMesh (n : Nat) (s u : State) : Prop :=
  (∀ m, m ≠ n → u.tile m = s.tile m) ∧ u.far = s.far ∧ ∀ off, isFl off = false → u.get off = s.get off

/-- From `s` to `u` only tile `n` changes, and with it at most the fault log, the frame's status, what leaves the device and the lines of packets that
the tile is sending. -/
def OnlyTile (n : Nat) (s u : State) : Prop := TileAndMesh n s u ∧ u.sent n = s.sent n ∧ u.pktCtr = s.pktCtr

/-- The registers outside the FL block read as before but for those of `offs`. -/
def OnlyRegs (offs : List Nat) (s u : State) : Prop := ∀ off, off ∉ offs → isFl off = false → u.get off = s.get off

/-- From `s` to `u` tile `n` changes and packet `k` of its own enters the mesh; what holds beside it is as `TileAndMesh` says. -/
def Sends (n : Nat) (s u : State) (k : Packet) : Prop :=
  TileAndMesh n s u ∧ u.pktCtr = s.pktCtr + 1 ∧ ∃ old, u.pkts = old ++ [k] ∧ old.map (Packet.past n) = s.sent n

/-- Tile `n` as it stands in slot `t` of the running frame. -/
def State.atSlot (s : State) (n t : Nat) : Tile := (s.tile n).advance n s.frameNo s.frame.alen t

/-- Tile `n` executes in the running frame, has not passed slot `t`, and slot `t` lies before the end of its leap window (01 R26, R28). -/
def State.tileLive (s : State) (n t : Nat) : Bool := s.tileRuns n && decide ((s.tile n).now ≤ t) && decide (t < (s.tile n).stop)

/-- The sequencer of tile `n` decodes the instruction `i` in slot `t`. -/
def State.decodes (s : State) (n t : Nat) (i : SqIns) : Bool :=
  s.tileLive n t && (s.atSlot n t).sqReady t && decide (((s.atSlot n t).sqFetch t s.definesRoutine).2 = .ins i)

/-- In slot `t` tile `n` becomes what `f` makes of it as it stood there, and nothing else changes but for the sync counters' changes whose time has come
(`State.seen`, 11 R296). -/
def TileDoes (n t : Nat) (s u : State) (f : Tile → Tile) : Prop := OnlyTile n (s.seen t) u ∧ (u.tile n).like (f (s.atSlot n t))

/-- What issuing the command `c` does to tile `n` beside putting an operation in flight on `eng` (R62, R67): it leaves the head of its queue, or of the
re-execution's, and the count it waits for is taken from its barrier (`Tile.consume`); nothing else of the tile's registers, memory, sequencer or other engines changes. -/
def IssueFrame (n t : Nat) (eng : Engine) (c : Cmd) (s u : State) : Prop :=
  let tl := s.atSlot n t
  TileAndMesh n (s.seen t) u
    ∧ ((u.tile n).eng eng).queue = (if c.again then (tl.eng eng).queue else (tl.eng eng).queue.tail)
    ∧ ((u.tile n).eng eng).redo = (if c.again then (tl.eng eng).redo.tail else (tl.eng eng).redo)
    ∧ ((u.tile n).eng eng).issuedAt = some t
    ∧ (∀ e, e ≠ eng → (u.tile n).eng e = tl.eng e) ∧ (u.tile n).seq = tl.seq ∧ (u.tile n).sregs = tl.sregs ∧ (u.tile n).mem = tl.mem
    ∧ (u.tile n).eve = tl.eve ∧ (u.tile n).tags = tl.tags ∧ (u.tile n).tracker = tl.tracker
    ∧ (u.tile n).sameObjs (if c.waitEn then tl.consume c.waitB c.waitCnt else tl)

/-- The request `r` has its reply: of a channel that still waits for it and is not the BMC's, REQ_FULL is clear, RSP_FULL set, STATUS and the reply words stand, and
the channel is no longer in service (16 R409, Table 16-6); the BMC's goes out instead (16 R448), and firmware's own needs none. -/
def Replied (s u : State) (r : Req) (status : Nat) (ws : List Nat) : Prop :=
  match r with
  | .firm _ => True
  | .chan c => (s.chnl c).discard = false → s.chanOwner c ≠ 0x10 →
    u.reqFull c = false ∧ u.rspFull c = true ∧ u.field (rMbxCtrl c) 24 4 = status ∧ (u.chnl c).service = false
      ∧ u.get (rMbxRsp c 0) = status * 2 ^ 28 ∧ ∀ w, w < 15 → u.get (rMbxRsp c (w + 1)) = ws.getD w 0 % 2 ^ 32

/-- A loader request has its answer (12 R316): the result register, the locus of a REJECTED one, and the reply. -/
def LoaderAnswered (s u : State) (r : Req) (op status reason locus : Nat) : Prop :=
  u.get rLoadResult = status * 2 ^ 28 + op * 2 ^ 16 + reason % 2 ^ 16 ∧ (status = 4 → u.get rLoadLocus = locus % 2 ^ 32)
    ∧ Replied s u r status (if status = 4 then [reason, locus] else [])

/-- The request comes from one of the senders (none listed: from any) and sets no bit that Table 16-7 does not name (16 R411). -/
def State.mgFits (s : State) (r : Req) (senders named : List Nat) : Bool :=
  (senders.isEmpty || senders.contains (s.reqSender r)) && onlyBits (word (s.reqWords r) 0) 0xFF000000
    && (List.range 15).all (fun i => onlyBits (word (s.reqWords r) (i + 1)) (named.getD i 0))

/-- A fault record of the given class, unit and detail stands in the FL block's queue, unless its coalescing key already stood or the queue is full (14 R361). -/
def Recorded (s u : State) (cls unit detail : Nat) : Prop :=
  (s.keysFresh = true ∧ s.fl.keys.contains ⟨cls, unit, false, 0⟩ = true) ∨ 8192 ≤ u.fl.queue.length
    ∨ ∃ r, r ∈ u.fl.queue ∧ r.cls = cls ∧ r.unit = unit ∧ r.detail = detail

/-- Tile `n` has declared a hang of the given cause in slot `t`, and nothing else of the kind (11 R304). -/
def Hangs (s u : State) (n t cause ctx vid : Nat) (ctr : Option Nat) (count : Nat) : Prop :=
  (u.tile n).frozen = true ∧ (u.tile n).withheld = true ∧ u.sync.hung = insertHung ⟨n, cause, ctx, vid, ctr, count, t⟩ s.sync.hung
    ∧ u.get rHangCnt = (s.get rHangCnt + 1) % 2 ^ 32 ∧ u.bit rSyStatus 31 = true ∧ (∀ m, m ≠ n → u.tile m = s.tile m) ∧ u.hbm = s.hbm

/-- What an erasure in UP leaves (R210, R211): the fibre is out of the lock mask and erased, the loss counted; with fewer than 11 fibres the port leaves UP. -/
def FibreErased (s u : State) (p f : Nat) : Prop :=
  let mask := s.lockMask p - (s.lockMask p &&& 2 ^ f)
  u.get (rLaneEvent p) = (s.get (rLaneEvent p) + 1) % 2 ^ 32 ∧ u.bit (rLkStatus p) 23 = true ∧ u.tiles = s.tiles ∧ u.hbm = s.hbm
    ∧ (11 ≤ (fibresOf mask).length → u.lockMask p = mask ∧ (smapGet (fun _ => Fibre.fresh) (u.port p).fibres f).erased = true ∧ u.train p = trUp
        ∧ (u.port p).lcOut = (s.port p).lcOut ++ [lcLane mask ((s.field (rLkState p) 19 2 + 1) % 4)] ∧ Recorded s u 0x0401 (uPort * 4096 + p) (f + mask * 16))
    ∧ ((fibresOf mask).length < 11 → u.train p = trSignal ∧ u.lockMask p = 0)

/-- The maps of a tile are in canonical form. -/
def Tile.memWf (tl : Tile) : Bool :=
  smapWf zeroByte tl.mem && smapWf (fun _ => false) tl.poison && smapWf (fun _ => false) tl.eve

/-- The bytes of HBM and its poisoned lines are in canonical form. -/
def HbmMem.wf (h : HbmMem) : Bool := smapWf zeroByte h.data && smapWf (fun _ => false) h.poison

/-- The registers and HBM are in canonical form. -/
def State.memOk (s : State) : Prop := smapWf regReset s.regs = true ∧ s.hbm.wf = true

/-- The registers and the memories of the device are in canonical form. -/
def State.memWf (s : State) : Bool :=
  smapWf regReset s.regs && s.hbm.wf && smapWf (fun _ => Tile.reset) s.tiles && s.tiles.all (fun e => e.2.memWf)

/-- The commands that wait are well formed. -/
def State.pendingWf (s : State) : Bool := s.pending.all Instr.wf

end Sys2Proof.Machine
end

