-- ==== Sys2Proof/Certificates/Slice0/Obligations.lean ====
section
/-! DEFINITION. The statements for the provers. Every one is about every state, but for the sanity statements on the state after reset; what a statement
about a command says of its completion stands in its conclusion, `Answers`: the command answers a next state, of which the rest holds. -/

open Sys2Proof Sys2Proof.Machine

/-! The block. -/

/-- A step takes the command at the front of the queue and runs it with the rest of the queue. -/
def Obligations.StepRunsFront : Prop := ∀ (s : State) (c : Instr) (rest : List Instr),
  s.pending = c :: rest → step s = exec c { s with pending := rest }

/-- With no command waiting a nanosecond passes: the global time counter and its duplicate advance by one when they are in trial or set. While no port runs codewords and no
change of a sync counter is on its way, every register outside the FL block stays but for OB_STEP_TIME of the step in force while a plan is armed or running.
DESIGN CHOICE (log 2): the tick is what a step does on an empty queue. -/
def Obligations.IdleStepIsANanosecond : Prop := ∀ s : State, s.pending = [] →
  ∃ u, step s = .next u ∧ u.now = s.now + 1
    ∧ u.time = (if s.counterState = 0 then s.time else { s.time with counter := s.time.counter + 1, twin := s.time.twin + 1 })
    ∧ u.tiles = s.tiles ∧ u.hbm = s.hbm ∧ u.loader = s.loader ∧ u.pending = []
    ∧ ((∀ p, p < 16 → s.linkOn p = false) → s.sync.due = [] → u.ports = s.ports ∧ u.frame = s.frame ∧ u.mg = s.mg ∧ u.sync = s.sync
      ∧ ∀ off, isFl off = false → (s.planRuns = true → off ≠ rStepTime s.step_ ∧ off ≠ rStepTime s.step_ + 4) → u.get off = s.get off)

/-- No command changes the fuses, the model's time or the queue of waiting commands, and none takes anything back from one-time storage: written keys stay,
and revocation bits, the rollback counter and REQUIRED only rise (16 R403). -/
def Obligations.CommandsKeepOneTimeStorage : Prop := ∀ (c : Instr) (s u : State), exec c s = .next u → s.grows u

/-- Every step keeps the canonical form of the registers and of HBM.
The model's choice in it: log 15. -/
def Obligations.StepKeepsMemoryCanonical : Prop := ∀ s u : State, s.memOk → step s = .next u → u.memOk

/-- The state before auxiliary power: every register at its Reset column, memories empty and in canonical form, the queue empty; the values of the Reset column
that are not 0, as 17 Tables 17-5 to 17-12 list them.
The model's choices in it: logs 13, 14 and 15. -/
def Obligations.ResetState : Prop :=
  State.reset.memOk ∧ State.reset.memWf = true ∧ State.reset.pending = [] ∧ State.reset.get64 rTmTime = 2 ^ 64 - 1 ∧ State.reset.get rHoldover = 0x2710
    ∧ State.reset.get rMarginWarn = 0x14 ∧ State.reset.get rMarginCrit = 0x8 ∧ State.reset.get (rLkVigil 15) = 0x2710
    ∧ State.reset.get (rHbTempLimit 7) = 0x5F ∧ State.reset.get rHashSize = 8 ∧ State.reset.get rRingSize = 0xC
    ∧ State.reset.get (rMsixOwner 63) = 0x80000000 ∧ (State.reset.tile 1535).get rTlTraceHi = 0x1FFFF
    ∧ State.reset.get rPlState = 0 ∧ State.reset.power.rails = 0 ∧ State.reset.counterState = 0

/-! The sequencer (02). -/

/-- R54: the scalar instructions. Sd receives the function of Sa and Sb modulo 2^64, shifts by Sb bits 5:0; SQ.NOP changes nothing but the sequencer's place, SQ.SETI loads the
sign-extended immediate, SQ.SETHI the upper half of Sd with the low half kept, SQ.ADDI the sum with the sign-extended immediate. The sequencer goes on at the
next word in the next slot, taking any loop's back-edge; no other scalar register, no memory, queue or barrier of the tile changes, nor any other tile. -/
def Obligations.ScalarArithmetic : Prop := ∀ (s : State) (n t d a b : Nat) (imm : W32),
  let does := fun (row : Instr) (i : SqIns) (f : Tile → Tile) =>
    s.decodes n t i = true → Answers row s (fun u => TileDoes n t s u (fun tl => (f tl).seqGo t (tl.seq.next + 1)))
  let alu := fun (row : Instr) (op : AluOp) (r : W64 → W64 → W64) => does row (.alu op d a b) (fun tl => tl.setS d (r (tl.s a) (tl.s b)))
  alu (.sqAdd n t) .add (fun x y => x + y) ∧ alu (.sqSub n t) .sub (fun x y => x - y) ∧ alu (.sqMul n t) .mul (fun x y => x * y)
    ∧ alu (.sqAnd n t) .and (fun x y => x &&& y) ∧ alu (.sqOr n t) .or (fun x y => x ||| y) ∧ alu (.sqXor n t) .xor (fun x y => x ^^^ y)
    ∧ alu (.sqShl n t) .shl (fun x y => x <<< (y.toNat % 64)) ∧ alu (.sqShr n t) .shr (fun x y => x >>> (y.toNat % 64))
    ∧ alu (.sqSra n t) .sra (fun x y => x.sshiftRight (y.toNat % 64))
    ∧ does (.sqNop n t) .nop id
    ∧ does (.sqSeti n t) (.seti d imm) (fun tl => tl.setS d (imm.signExtend 64))
    ∧ does (.sqSethi n t) (.sethi d imm) (fun tl => tl.setS d (BitVec.ofNat 64 ((tl.s d).toNat % 2 ^ 32 + imm.toNat * 2 ^ 32)))
    ∧ does (.sqAddi n t) (.addi d a imm) (fun tl => tl.setS d (tl.s a + imm.signExtend 64))

/-- R51, R52, R53, R56, R67, R72: SQ.END stops fetching for the frame; SQ.LOOP with a count of 0 skips its body and with another opens a level of that many passes;
SQ.HOLD holds the sequencer on its barrier; the release, where the engines that wait for the barrier in the same slot leave it its count, goes on at the next word and
subtracts the count, from the barrier or from the signals of the slot that found it full.
An illegal word, or a command that its second word shows to be illegal, stops fetching, sets ILLEGAL and withholds the commit flag; the command queues stay, so queued commands retire.
The model's choices in it: logs 22, 70 and 73. -/
def Obligations.SequencerControl : Prop := ∀ (s : State) (n t c len b k : Nat),
  (s.decodes n t .endStream = true → Answers (.sqEnd n t) s (fun u => TileDoes n t s u (fun tl =>
      ({ tl with seq := { tl.seq with fetching := false, ended := true } } : Tile).seqGo t (tl.seq.next + 1))))
  ∧ (s.decodes n t (.loop c len) = true → (s.atSlot n t).s c = 0 → Answers (.sqLoop n t) s (fun u => TileDoes n t s u (fun tl =>
      tl.seqGo t (tl.seq.next + 1 + len))))
  ∧ (s.decodes n t (.loop c len) = true → (s.atSlot n t).s c ≠ 0 → Answers (.sqLoop n t) s (fun u => TileDoes n t s u (fun tl =>
      ({ tl with seq := { tl.seq with loops := ⟨tl.seq.next + 1, tl.seq.next + 1 + len, (tl.s c).toNat⟩ :: tl.seq.loops } } : Tile).seqGo t (tl.seq.next + 1))))
  ∧ (s.decodes n t (.hold b k) = true → Answers (.sqHold n t) s (fun u => TileDoes n t s u (fun tl =>
      { tl with seq := { tl.seq with hold := .barrier b k } })))
  ∧ (s.tileLive n t = true → (s.atSlot n t).seq.hold = .barrier b k →
      k + (s.atSlot n t).takenBefore (s.furtherMet t) t .sq b ≤ (s.atSlot n t).barrierSeen b → (s.atSlot n t).seq.at_ ≤ t →
      (s.atSlot n t).frozen = false → Answers (.sqHoldRelease n t) s (fun u => TileDoes n t s u (fun tl => (tl.consume b k).seqGo t (tl.seq.next + 1))))
  ∧ (∀ tl : Tile, b < 16 → (tl.consume b k).barrier b + timesIn b (tl.consume b k).ovf = tl.barrier b + timesIn b tl.ovf - k
      ∧ (tl.consume b k).steady = tl.steady ∧ ∀ off, off ≠ rTlBarrier b → (tl.consume b k).get off = tl.get off)
  ∧ (let stops := fun (u : State) => TileDoes n t s u (fun tl => { tl with seq := { tl.seq with fetching := false, hold := .free } })
        ∧ (u.tile n).withheld = true ∧ bitAt ((u.tile n).get rTlStatus) 28 = true
    (s.tileLive n t = true → (s.atSlot n t).sqReady t = true → ((s.atSlot n t).sqFetch t s.definesRoutine).2 = .illegal →
      Answers (.illegalInstruction n t) s stops)
    ∧ (s.tileLive n t = true → (s.atSlot n t).sqReady t = true → ((s.atSlot n t).sqFetch t s.definesRoutine).2 = .past →
      Answers (.illegalInstruction n t) s stops)
    ∧ (∀ idx last, s.tileLive n t = true → 0 < t → (s.atSlot n t).sqReady (t - 1) = true →
      ((s.atSlot n t).sqFetch (t - 1) s.definesRoutine).2 = .second idx last → Answers (.illegalInstruction n t) s stops))

/-- R58, R60, 09 R240: SQ.CALL holds the sequencer for exactly the routine's declared length; a remote-read service pops its READ line with the call. The return, once the routine's
engine commands have gone, leaves the routine's results in those of S16 to S31 that the library says it changes and no other register, and the sequencer goes on at the next word. What a
routine computes is a free value (log 5).
The model's choices in it: logs 5, 71 and 82. -/
def Obligations.RoutineCall : Prop := ∀ (s : State) (n t r : Nat),
  (s.decodes n t (.call r) = true →
    (s.readQueue r (s.atSlot n t).args = none → Answers (.sqCall n t) s (fun u => TileDoes n t s u (fun tl =>
      { tl with seq := { tl.seq with hold := .call r (t + s.routineLen r) 0 [] } })))
    ∧ (∀ q, s.readQueue r (s.atSlot n t).args = some q → Answers (.sqCall n t) s (fun u => ∃ read, TileDoes n t s u (fun tl =>
      let tl := if (tl.sqFetch t s.definesRoutine).1.enginePops q t then tl else tl.advHead q 1
      { tl with seq := { tl.seq with hold := .call r (t + s.routineLen r) 0 read } }))))
  ∧ (∀ next read, s.tileLive n t = true → (s.atSlot n t).seq.hold = .call r t next read → (s.routineList r).length ≤ next → (s.atSlot n t).frozen = false →
      Answers (.sqCallReturn n t) s (fun u => OnlyTile n (s.seen t) u
        ∧ (∀ i, i < 16 → (u.tile n).s i = (s.atSlot n t).s i)
        ∧ (∀ i, i < 16 → (u.tile n).s (16 + i) = if bitAt (s.routineWrites r) i then
            Config.routineResult s.storeVersion r (s.atSlot n t).args (s.routineTimes r ++ read) (16 + i) else (s.atSlot n t).s (16 + i))
        ∧ (u.tile n).seq = ((s.atSlot n t).seqGo (t - 1) ((s.atSlot n t).seq.next + 1)).seq
        ∧ (u.tile n).mem = (s.atSlot n t).mem ∧ (u.tile n).sameObjs (s.atSlot n t)))

/-- R54, R45: SQ.POPS loads the named word of the line at HEAD of its queue and moves HEAD and the pop count on by one; a poisoned or an eve line gives 0.
Where an engine pops the queue in the same cycle the pop loses: Sd takes 0 and no pointer moves. `tl` is the tile after the fetch.
The model's choices in it: logs 21 and 72. -/
def Obligations.ScalarPop : Prop := ∀ (s : State) (n t d q w : Nat), s.decodes n t (.pops d q w) = true →
  let tl := (((s.atSlot n t).sqFetch t s.definesRoutine).1).decoded (s.atSlot n t).seq.next 1
  let l := tl.qLine q (tl.qHead q)
  let v := ((tl.event 0x17 1).readLine t l).2
  (tl.enginePops q t = false → Answers (.sqPops n t) s (fun u => TileDoes n t s u (fun x =>
      ((x.advHead q 1).setS d (if v.poison || x.eveBit l then 0 else BitVec.ofNat 64 (bitsAt v.data.toNat (64 * w) 64))).seqGo t (x.seq.next + 1))))
  ∧ (tl.enginePops q t = true → Answers (.sqPops n t) s (fun u => TileDoes n t s u (fun x => (x.setS d 0).seqGo t (x.seq.next + 1))))

/-- R248: SQ.EVE_OPEN takes the lowest free range entry, with the word after it, the scalar registers, the queue pointers and counts, and the eve tags of its
descriptor's mask that are not free; with no entry free the sequencer is held. The descriptor is read as any line is. SQ.EVE_CLOSE makes the open range pending.
The model's choice in it: log 68. -/
def Obligations.EveRangeOpenClose : Prop := ∀ (s : State) (n t : Nat),
  (∀ (sen : Bool) (a desc : Nat), s.decodes n t (.eveOpen sen a desc) = true →
    (∀ e, (s.atSlot n t).freeEntry = some e → Answers (.sqEveOpen n t) s (fun u => TileDoes n t s u (fun tl =>
      let d := (((tl.sqFetch t s.definesRoutine).1).readLine t (tl.descLine (tl.openIdx sen a desc))).2.data.toNat
      (({ tl with openRange := some e } : Tile).setRange e (some
        { order := tl.rangeCtr, first := tl.seq.next + 1, close := 0, closed := false, failed := false, mask := tl.liveTags (bitsAt d 0 16),
          spans := rangeSpans d, sregs := tl.sregs, queues := (List.range 64).map (fun q => ⟨tl.qHead q, tl.qTail q, tl.qPush q, tl.qPop q⟩),
          depth := tl.seq.loops.length, net := [], popped := [], pushed := [], live := 0, slots := [],
          bases := [tl.mx.last.getD 0, tl.vx.last.getD 0, tl.mv.last.getD 0] })).seqGo t (tl.seq.next + 1))))
    ∧ ((s.atSlot n t).freeEntry = none → Answers (.sqEveOpen n t) s (fun u => TileDoes n t s u (fun tl =>
      { tl with seq := { tl.seq with hold := .entry } }))))
  ∧ (s.decodes n t .eveClose = true → ∀ e, (s.atSlot n t).openRange = some e → Answers (.sqEveClose n t) s (fun u => TileDoes n t s u (fun tl =>
      (({ tl with openRange := none } : Tile).modRange e (fun r => { r with closed := true, close := tl.seq.next })).seqGo t (tl.seq.next + 1))))

/-- R53, R55, R61, R62: two cycles after its first word decodes a command enters the tail of its engine's queue with the scalar registers as they stand and
its nominal slot, the engine's last one plus GAP; a queue of 512 commands holds the sequencer instead. A routine's commands enter likewise, in the cycles that the library gives,
and an illegal one stops the fetching.
The model's choices in it: logs 5 and 69. -/
def Obligations.CommandDispatch : Prop := ∀ (s : State) (n t bits : Nat) (eng : Engine), s.tileLive n t = true →
  let tl := s.atSlot n t
  let enters := fun (u : State) (seq : Seq) => OnlyTile n (s.seen t) u
    ∧ ((u.tile n).eng eng).queue = (tl.eng eng).queue ++
        [⟨BitVec.ofNat 128 bits, tl.seq.next, tl.sregs, (tl.eng eng).last.getD 0 + bitsAt bits 112 12, t, tl.openRange, false⟩]
    ∧ ((u.tile n).eng eng).last = some ((tl.eng eng).last.getD 0 + bitsAt bits 112 12)
    ∧ (u.tile n).seq = seq ∧ (u.tile n).sregs = tl.sregs ∧ (u.tile n).mem = tl.mem
    ∧ (u.tile n).sameObjs tl ∧ ∀ e, e ≠ eng → (u.tile n).eng e = tl.eng e
  (tl.seq.fetching = true → tl.seq.hold = .free → tl.seq.at_ + 2 = t → tl.frozen = false →
    (tl.sqFetch tl.seq.at_ s.definesRoutine).2 = .command bits → cmdEng bits = some eng →
    ((tl.eng eng).queue.length < 512 → Answers (.engineCommandDispatch n t) s (fun u => enters u (tl.seqGo (t - 1) (tl.seq.next + 2)).seq))
    ∧ (512 ≤ (tl.eng eng).queue.length → Answers (.engineCommandDispatch n t) s (fun u => TileDoes n t s u (fun tl =>
        { tl with seq := { tl.seq with hold := .full eng } }))))
  ∧ (∀ r until_ next read off, tl.seq.hold = .call r until_ next read → (s.routineList r)[next]? = some off → until_ - s.routineLen r + off ≤ t → tl.frozen = false →
    bits = (Config.routineCommand s.storeVersion r tl.args read next).toNat →
    (cmdEng bits = some eng → tl.cmdLegal bits = true → (tl.eng eng).queue.length < 512 → Answers (.engineCommandDispatch n t) s (fun u => enters u
        { tl.seq with hold := .call r (until_ + (t - (until_ - s.routineLen r + off))) (next + 1) read }))
    ∧ (tl.cmdLegal bits = false → Answers (.engineCommandDispatch n t) s (fun u =>
        TileDoes n t s u (fun tl => { tl with seq := { tl.seq with fetching := false, hold := .free } }) ∧ (u.tile n).withheld = true)))

/-! The engines (04, 05, 06). -/

/-- R102, R104, R105, R107, R108: MX issues the command that stands at its head when its wait is met, an in-flight place is free and the array is free. The
operation reads W + P·T cycles, and its last C write, which is its retirement, lies M·U cycles after the later of cycle 44 + W + P·T and the end of the earlier
operations' writes.
`ups` are the upsets of the operation's datapath, and a MATRIX masque adds its own.
The model's choices in it: logs 20 and 65. -/
def Obligations.MatrixIssue : Prop := ∀ (s : State) (n t : Nat) (c : Cmd) (ups : List MxUpset), s.tileLive n t = true →
  (s.atSlot n t).canIssue (s.furtherMet t) .mx t = some c → (s.atSlot n t).mxArrayFree ≤ t →
  let tl := s.atSlot n t
  let q := mxPar c.bits.toNat
  let first := t + 44 + q.w + q.p * q.t
  let start := if first < tl.mxWriteFree then tl.mxWriteFree else first
  let issues := fun (all : List MxUpset) (u : State) => IssueFrame n t .mx c s u ∧ OnlyTile n (s.seen t) u
    ∧ ∃ o, (u.tile n).mx.flight = tl.mx.flight ++ [o] ∧ o.cmd = c ∧ o.issued = t
    ∧ o.srcEnd = t + q.w + q.p * q.t ∧ o.retire = start + q.m * q.u - 1 ∧ o.retired = false ∧ o.mx = all
  let masque := if (s.masqueOf 0x13 (uTile * 4096 + n)).isSome then [MxUpset.acc 0 0 0 0] else []
  (c.op = 1 → Answers (.mxMm n ⟨t, ups⟩) s (issues ups)) ∧ (c.op = 2 → Answers (.mxMmi n ⟨t, ups⟩) s (issues (masque ++ ups)))
    ∧ (c.op = 3 → Answers (.mxMms n ⟨t, ups⟩) s (issues (masque ++ ups)))

/-- R123 to R141, R129: VX issues the command at its head when its wait is met, an in-flight place is free and its sources would not meet an earlier
operation's; the operation retires in the cycle of its last write, moved as late as the earlier operations' writes ask.
`ups` are the upsets of the operation's datapath, and a VECTOR masque adds its own.
The model's choices in it: logs 20 and 65. -/
def Obligations.VectorIssue : Prop := ∀ (s : State) (n t : Nat) (c : Cmd) (ups : List VxUpset), s.tileLive n t = true →
  (s.atSlot n t).canIssue (s.furtherMet t) .vx t = some c → (s.atSlot n t).vxSrcBusy ≤ t + 3 →
  let tl := s.atSlot n t
  let b := c.bits.toNat
  let shift := match tl.vxLastWrite with
    | none => 0
    | some w => w + 1 - (t + outFirst b (vxPar b))
  let masque := if (s.masqueOf 0x14 (uTile * 4096 + n)).isSome then [VxUpset.flip 0 0 1] else []
  let issues := fun (u : State) => IssueFrame n t .vx c s u ∧ OnlyTile n (s.seen t) u
    ∧ ∃ o, (u.tile n).vx.flight = tl.vx.flight ++ [o] ∧ o.cmd = c ∧ o.issued = t
    ∧ o.srcEnd = t + srcLast b (vxPar b) ∧ o.retire = t + outLast b (vxPar b) + shift ∧ o.retired = false ∧ o.vx = masque ++ ups
  (c.op = 1 → Answers (.vxEw n ⟨t, ups⟩) s issues) ∧ (c.op = 2 → Answers (.vxCvt n ⟨t, ups⟩) s issues) ∧ (c.op = 3 → Answers (.vxRed n ⟨t, ups⟩) s issues)
    ∧ (c.op = 4 → Answers (.vxFn n ⟨t, ups⟩) s issues) ∧ (c.op = 5 → Answers (.vxStn n ⟨t, ups⟩) s issues) ∧ (c.op = 6 → Answers (.vxRng n ⟨t, ups⟩) s issues)

/-- R98, R122, R144: a NOP of an engine with no other operation in flight does nothing but signal its barrier in its issue cycle; behind operations in flight it
signals in the cycle after the last of their retirements. -/
def Obligations.EngineNops : Prop := ∀ (s : State) (n t : Nat),
  let does := fun (row : Instr) (eng : Engine) => ∀ c : Cmd, s.tileLive n t = true → (s.atSlot n t).canIssue (s.furtherMet t) eng t = some c → c.op = 0 →
    let tl := s.atSlot n t
    let busy := (tl.eng eng).flight.filter (fun o => o.cmd.op != 0)
    let waited := if c.waitEn then tl.consume c.waitB c.waitCnt else tl
    (busy = [] → Answers row s (fun u => OnlyTile n (s.seen t) u ∧ ((u.tile n).eng eng).flight = (tl.eng eng).flight ∧ (u.tile n).mem = tl.mem
      ∧ ((u.tile n).eng eng).queue = (if c.again then (tl.eng eng).queue else (tl.eng eng).queue.tail)
      ∧ (u.tile n).seq = tl.seq ∧ (∀ e, e ≠ eng → (u.tile n).eng e = tl.eng e)
      ∧ (u.tile n).sameObjs (if c.sigEn then waited.signal c.sigB else waited)))
    ∧ (busy ≠ [] → Answers row s (fun u => IssueFrame n t eng c s u ∧ OnlyTile n (s.seen t) u
      ∧ ∃ o, ((u.tile n).eng eng).flight = (tl.eng eng).flight ++ [o] ∧ o.cmd = c
      ∧ o.retire = busy.foldl (fun a x => if a < x.retire then x.retire else a) 0 + 1))
  does (.mxNop n t) .mx ∧ does (.vxNop n t) .vx ∧ does (.mvNop n t) .mv

/-- R66 to R68, R105, R128, R146: an engine retires the oldest operation whose retirement is due: it is marked, counted and signals its barrier, whose count, with the signals of the slot
that found it full, rises by one. No byte of the tile's memory changes with the retirement itself. Nothing else of the device changes, but for the hash and digest records of an
MV.PUT that asks for them.
The model's choice in it: log 20. -/
def Obligations.EngineRetirement : Prop := ∀ (s : State) (n t : Nat),
  let does := fun (row : Nat → Instr) (eng : Engine) (counter : Nat) => ∀ o : Op, s.tileLive n t = true → ((s.atSlot n t).eng eng).retiring t = some o →
    o.cmd.op ≠ 0 →
    let tl := s.atSlot n t
    Answers (row o.issued) s (fun u => (∀ m, m ≠ n → u.tile m = s.tile m) ∧ u.hbm = s.hbm
      ∧ ((eng = .mv → o.cmd.op = 4 → o.cmd.f 11 2 = 0) → OnlyTile n (s.seen t) u)
      ∧ ((u.tile n).eng eng).flight.map (fun x => (x.id, x.retired)) = (tl.eng eng).flight.map (fun x => (x.id, x.retired || x.id == o.id))
      ∧ ((u.tile n).eng eng).queue = (tl.eng eng).queue ∧ (u.tile n).retired = tl.retired + 1 ∧ (u.tile n).get counter = (tl.get counter + 1) % 2 ^ 32
      ∧ (u.tile n).mem = tl.mem ∧ (u.tile n).seq = tl.seq ∧ (u.tile n).sameObjs (if o.cmd.sigEn then tl.signal o.cmd.sigB else tl))
  does (.mxOperationRetire n t) .mx rTlMxRetired ∧ does (.vxOperationRetire n t) .vx rTlVxRetired ∧ does (fun _ => .mvOperationRetire n t) .mv rTlMvRetired
    ∧ ∀ (tl : Tile) (b : Nat), b < 16 → (tl.signal b).barrier b + timesIn b (tl.signal b).ovf = tl.barrier b + timesIn b tl.ovf + 1
        ∧ (tl.signal b).steady = tl.steady

/-- R64: an anchored command that cannot issue at its nominal slot is discarded, sets ANCHOR_MISS, withholds the commit flag, and makes every later anchored
command of the frame discarded too.
The model's choice in it: log 25. -/
def Obligations.AnchorMiss : Prop := ∀ (s : State) (n t : Nat) (eng : Engine) (c : Cmd) (rest : List Cmd), s.tileLive n t = true → eng ≠ .sq →
  let tl := s.atSlot n t
  (tl.dead = false → pickFirst (fun c => c.anchored && decide (c.nominal ≤ t)) (tl.eng eng).queue = some (c, rest) →
    (tl.canIssue (s.furtherMet t) eng t ≠ some c ∨ s.furtherMet t tl eng c = false) →
    Answers (.anchorMiss n t eng) s (fun u => TileDoes n t s u (fun tl => tl.setEng eng { tl.eng eng with queue := rest })
      ∧ (u.tile n).withheld = true ∧ (u.tile n).dead = true ∧ bitAt ((u.tile n).get rTlStatus) 29 = true))
  ∧ (tl.dead = true → (tl.eng eng).queue = c :: rest → c.anchored = true → c.nominal ≤ t →
    Answers (.anchorMiss n t eng) s (fun u => TileDoes n t s u (fun tl => tl.setEng eng { tl.eng eng with queue := rest }) ∧ (u.tile n).dead = true))

/-- R147, R148, R160 with R146: MV issues a command that sends lines: they leave as one mesh packet, whose lines enter it as MV reads them, from three slots after the issue on, and the operation
retires once two lines a cycle have left. A write request goes over the route of its almanac transfer; one for which the almanac has none leaves nothing.
The model's choices in it: logs 20 and 24. -/
def Obligations.MoveSends : Prop := ∀ (s : State) (n t : Nat) (c : Cmd), s.tileLive n t = true → (s.atSlot n t).canIssue (s.furtherMet t) .mv t = some c →
  let tl := s.atSlot n t
  let sent := fun (u : State) (len : Nat) => IssueFrame n t .mv c s u
    ∧ ∃ o, (u.tile n).mv.flight = tl.mv.flight ++ [o] ∧ o.cmd = c ∧ o.id = tl.ops ∧ o.issued = t ∧ o.retire = t + 3 + (len - 1) / 2
  let packet := fun (route dvt : Nat) (dest : PktDest) (len : Nat) => (⟨s.pktCtr, .mv tl.ops t, n, route, dvt, dest, len, [], t + 3, 0, none, []⟩ : Packet)
  (c.op = 1 → Answers (.mvSend n t) s (fun u => sent u (c.f 52 14 + 1)
    ∧ Sends n (s.seen t) u (packet (s.meshRoute n (c.f 40 12)) (c.f 72 11) (.queue (c.f 66 6)) (c.f 52 14 + 1))))
  ∧ (c.op = 2 → Answers (.mvOsend n t) s (fun u => sent u (c.f 47 7 + 1)
    ∧ (let e := s.optRoute (c.f 35 12)
      let h := header 1 (c.f 54 1) (c.f 47 7 + 1) (s.field rRank 0 16) (c.f 72 16) (c.f 61 11) (c.f 55 6) (c.f 35 12) s.frameNo
      Sends n (s.seen t) u (packet (s.meshRoute n (orMesh e)) 0 (.port (orOut e) h false) (c.f 47 7 + 1)))))
  ∧ (c.op = 4 →
    let f : ReqFlit := ⟨false, none, c.f 72 16, hlaOf c (c.f 39 33) 19, c.f 25 14 + 1⟩
    (∀ x, s.xferFor n (t + 3) f = some x → Answers (.mvPut n t) s (fun u => sent u (c.f 25 14 + 1)
      ∧ Sends n (s.seen t) u (packet x.2.2.route (s.virtOf (s.wayEnd n x.2.2.route).1) (.edge f) (c.f 25 14 + 1))))
    ∧ (s.xferFor n (t + 3) f = none → Answers (.mvPut n t) s (fun u => sent u (c.f 25 14 + 1) ∧ OnlyTile n (s.seen t) u)))

/-- R153, R155, R171: MV.GET and MV.GATHER reserve their lines at TAIL of the decoupled queue, claim a tracker entry and send their request flit in the next
slot, the push count standing still; MV.WAIT issues and retires once the push count had reached its target at the end of the slot before.
The model's choice in it: log 24. -/
def Obligations.MoveReads : Prop := ∀ (s : State) (n t : Nat) (c : Cmd), s.tileLive n t = true → (s.atSlot n t).canIssue (s.furtherMet t) .mv t = some c →
  let tl := s.atSlot n t
  let q := c.f 90 6
  let reserved := fun (row : Instr) (f : ReqFlit) =>
    let did := fun (u : State) (ctl : Nat) (x : Option Nat) => (u.tile n).tracker = tl.tracker ++ [⟨q, tl.qTail q, f.len, ctl, x, []⟩]
      ∧ (u.tile n).qTail q = (tl.qTail q + f.len) % tl.qDepth q ∧ (u.tile n).qHead q = tl.qHead q ∧ (u.tile n).qPush q = tl.qPush q
      ∧ (u.tile n).mem = tl.mem ∧ (u.tile n).sregs = tl.sregs ∧ (u.tile n).seq = tl.seq
      ∧ (u.tile n).mv.queue = (if c.again then tl.mv.queue else tl.mv.queue.tail)
    (∀ ctl x p, s.xferFor n (t + 1) f = some (ctl, x, p) → Answers row s (fun u => did u ctl (if p.read then some x else none)
      ∧ Sends n (s.seen t) u ⟨s.pktCtr, .mv tl.ops t, n, p.route, s.virtOf (s.wayEnd n p.route).1, .edge f, 1, [(0, some .zero)], t + 1, 0, none, []⟩))
    ∧ (s.xferFor n (t + 1) f = none → Answers row s (fun u => did u (f.hla / 2 ^ 30) none ∧ OnlyTile n (s.seen t) u))
  (c.op = 3 → tl.tracker.length < 16 → reserved (.mvGet n t) ⟨true, none, c.f 74 16, hlaOf c (c.f 41 33) 21, c.f 27 14 + 1⟩)
  ∧ (c.op = 5 → tl.tracker.length < 16 →
      reserved (.mvGather n t) ⟨true, some (c.f 30 11 + 1, c.f 20 10 + 1), c.f 74 16, hlaOf c (c.f 41 33) 14, (c.f 30 11 + 1) * (c.f 20 10 + 1)⟩)
  ∧ (c.op = 6 → (tl.qPushSeen q + 2 ^ 32 - waitTarget c) % 2 ^ 32 < 2 ^ 31 → Answers (.mvWait n t) s (fun u => OnlyTile n (s.seen t) u
      ∧ (u.tile n).mv.queue = (if c.again then tl.mv.queue else tl.mv.queue.tail) ∧ (u.tile n).mv.flight = tl.mv.flight
      ∧ (u.tile n).retired = tl.retired + 1 ∧ (u.tile n).mem = tl.mem ∧ (u.tile n).seq = tl.seq))

/-! Sync counters (11). -/

/-- R296, R297, R299: a local MV.SYNC issues, and its change sets out for the counter that the frame's context translates its identifier to, to take effect at the end of slot t + 40; no
record changes before. A change that takes effect with no other of the frame adds INC to VALUE (SIGNAL) or to TARGET (ARM), or sets its part's arrival bit, the last part expected signalling
the counter unless a part has failed; REACHED follows, and every other counter stays.
R300: a remote signal or part leaves as a SYNC packet of one line, three slots after the issue, to the rank and the port that the optical route names.
The model's choice in it: log 62. -/
def Obligations.SyncOperations : Prop := ∀ (s : State) (n t : Nat) (c : Cmd), s.tileLive n t = true → (s.atSlot n t).mvHead t 7 = some c →
  (∀ i, s.xlate s.frame.ctx (syncVid c) = some i →
    let goes := fun (u : State) (kind a b : Nat) => OnlyTile n (s.seen t) { u with sync := (s.seen t).sync } ∧ (u.tile n).mem = (s.atSlot n t).mem
      ∧ (u.tile n).mv.queue = (if c.again then (s.atSlot n t).mv.queue else (s.atSlot n t).mv.queue.tail)
      ∧ u.sync.hist = (s.seen t).sync.hist
      ∧ ∃ x, u.sync.due = insertStep x (s.seen t).sync.due ∧ x.ctr = i ∧ x.eff = t + 40 ∧ x.kind = kind ∧ x.a = a ∧ x.b = b
    (syncSop c = 0 → Answers (.mvSyncSignal n t) s (fun u => goes u 1 (syncInc c) 0))
    ∧ (syncSop c = 2 → Answers (.mvSyncArm n t) s (fun u => goes u 2 (syncInc c) 0))
    ∧ (syncSop c = 1 → Answers (.mvSyncPart n t) s (fun u => goes u 3 (syncPartNo c) (if syncPartFail c then 1 else 0))))
  ∧ (let e := s.optRoute (syncRoute c)
    let sends := fun (u : State) (d : LineBits) => (u.tile n).mem = (s.atSlot n t).mem ∧ ∃ op, Sends n (s.seen t) u
      ⟨s.pktCtr, .mv op t, n, s.meshRoute n (orMesh e), 0, .port (orOut e) (header 2 (orVc e) 1 (s.field rRank 0 16) (orDrank e) 0 0 (syncRoute c) s.frameNo) false,
        1, [(0, some ⟨d, false⟩)], t + 3, 0, none, []⟩
    (syncSop c = 4 → Answers (.mvSyncRsignal n t) s (fun u => sends u (BitVec.ofNat 512 (syncVid c % 4096 + 1 * 2 ^ 16 + 0 % 16 * 2 ^ 24 + 0 % 2 * 2 ^ 32
        + syncInc c % 65536 * 2 ^ 64))))
    ∧ (syncSop c = 5 → Answers (.mvSyncRpart n t) s (fun u => sends u (BitVec.ofNat 512 (syncVid c % 4096 + 2 * 2 ^ 16 + syncPartNo c % 16 * 2 ^ 24
        + (if syncPartFail c then 1 else 0) % 2 * 2 ^ 32 + 0 % 65536 * 2 ^ 64)))))
  ∧ (∀ x : SyncStep, s.sync.hist.any (fun y => y.ctr == x.ctr) = false → x.ctr < 32768 →
    let k := s.counterRec x.ctr
    let u := s.syncApply x
    let inc := BitVec.ofNat 32 x.a
    let flags := fun (v w : W32) => BitVec.ofNat 32 (setBitsAt k.flags.toNat 30 1 (if (v - w).toNat < 2 ^ 31 then 1 else 0))
    let bad := x.b == 1 || !bitAt k.pmask x.a || bitAt k.amask x.a
    let am := k.amask ||| 2 ^ x.a
    (∀ j, j < 32768 → j ≠ x.ctr → u.counterRec j = s.counterRec j) ∧ u.tiles = s.tiles ∧ u.hbm = s.hbm
    ∧ (x.kind = 1 → u.counterRec x.ctr = ⟨k.value + inc, k.target, k.masks, flags (k.value + inc) k.target⟩)
    ∧ (x.kind = 2 → u.counterRec x.ctr = ⟨k.value, k.target + inc, k.masks, flags k.value (k.target + inc)⟩)
    ∧ (x.kind = 3 → x.a < 16 → (u.counterRec x.ctr).target = k.target ∧ (u.counterRec x.ctr).pmask = k.pmask
      ∧ (u.counterRec x.ctr).amask = (if am = k.pmask then 0 else am)
      ∧ (bad = true → bitAt (u.counterRec x.ctr).fmask x.a = true ∧ (u.counterRec x.ctr).err = true) ∧ (bad = false → (u.counterRec x.ctr).fmask = k.fmask)
      ∧ (u.counterRec x.ctr).value = (if am = k.pmask ∧ (u.counterRec x.ctr).fmask = 0 then k.value + 1 else k.value)))

/-- R298, R303, R304: a WAIT issues when its counter, as it stood at the end of the slot 41 before, has reached the count with ERR clear; it declares a hang on an unmapped
identifier (cause 3) or on ERR (cause 2); else it is held and its vigil starts. A vigil that runs out declares a hang (cause 1). Hung tiles stand in the order of their slots.
R306: once no frame runs after a hang, the dump is written where SY_DUMP_BASE is valid, and DUMP_STATUS says so with the number of hung tiles; with no valid base
HBM stays and DUMP_STATUS says that none was written. The tiles stay.
The model's choices in it: logs 28 and 62. -/
def Obligations.SyncWaitsAndHangs : Prop := ∀ (s : State) (n t : Nat) (c : Cmd),
  (s.tileLive n t = true → (s.atSlot n t).mvHead t 7 = some c → syncSop c = 3 →
    (s.xlate s.frame.ctx (syncVid c) = none →
      Answers (.mvSyncWait n t) s (fun u => Hangs s u n t 3 s.frame.ctx (syncVid c) none (syncCount c)))
    ∧ (∀ i, s.xlate s.frame.ctx (syncVid c) = some i → (s.counterSeen i t).err = true →
      Answers (.mvSyncWait n t) s (fun u => Hangs s u n t 2 s.frame.ctx (syncVid c) (some i) (syncCount c)))
    ∧ (∀ i, s.xlate s.frame.ctx (syncVid c) = some i → (s.counterSeen i t).err = false →
      ((s.counterSeen i t).value - BitVec.ofNat 32 (syncCount c)).toNat < 2 ^ 31 →
      Answers (.mvSyncWait n t) s (fun u => OnlyTile n (s.seen t) u ∧ (u.tile n).mem = (s.atSlot n t).mem ∧ (u.tile n).syncWait = none
        ∧ (u.tile n).mv.queue = (if c.again then (s.atSlot n t).mv.queue else (s.atSlot n t).mv.queue.tail)))
    ∧ (∀ i, s.xlate s.frame.ctx (syncVid c) = some i → (s.counterSeen i t).err = false →
      ¬ ((s.counterSeen i t).value - BitVec.ofNat 32 (syncCount c)).toNat < 2 ^ 31 →
      Answers (.mvSyncWait n t) s (fun u => TileDoes n t s u id
        ∧ (u.tile n).syncWait = some ((s.atSlot n t).syncWait.getD s.time.counter))))
  ∧ (∀ w, s.tileRuns n = true → (s.tile n).syncWait = some w → (s.tile n).mv.queue.head? = some c →
      s.get (rVigil (syncVigil c)) ≤ (s.time.counter - w).toNat →
      Answers (.vigilExpiry n) s (fun u => Hangs s u n (nmax (nmax (s.slotIn n) s.frame.slot) (s.tile n).now) 1 s.frame.ctx (syncVid c)
        (s.xlate s.frame.ctx (syncVid c)) (syncCount c)))
  ∧ (s.sync.hung ≠ [] → s.sync.dumpDone = false → s.frame.running = false →
    Answers .hangDump s (fun u => u.sync.dumpDone = true ∧ u.sync.hung = s.sync.hung ∧ u.tiles = s.tiles
      ∧ (s.bit rDumpBase 31 = true → u.field rDumpStatus 30 2 = 1
          ∧ u.field rDumpStatus 0 11 = (if s.sync.hung.length < 1536 then s.sync.hung.length else 1536))
      ∧ (s.bit rDumpBase 31 = false → u.hbm = s.hbm ∧ u.bit rDumpStatus 28 = true)
      ∧ ∀ off, off ≠ rDumpStatus → off ≠ rSyStatus → u.get off = s.get off))
  ∧ ((s.sync.hung = [] ∨ s.sync.dumpDone = true ∨ s.frame.running = true) → Answers .hangDump s (fun u => u = s))

/-- R301, R307, R308: a function's doorbell signals or arms the counter that its bound context translates to; SY_SET and SY_CLEAR write VALUE and TARGET, and PMASK
where asked, SY_CLEAR clearing AMASK, FMASK and ERR; the reply holds the record as it was. This is of a counter with no other change in the running frame.
The model's choice in it: log 62. -/
def Obligations.SyncByHost : Prop := ∀ (s : State) (i : Nat), i < 32768 → s.sync.hist.any (fun x => x.ctr == i) = false →
  (∀ (a : Agent) (f ctx : Nat) (val : W32), agentFn a = some f → s.selftest = false → s.bound f = some ctx →
    bitsAt val.toNat 0 16 ≠ 0 → bitsAt val.toNat 30 2 < 2 → bitsAt val.toNat 28 2 = 0 → s.xlate ctx (bitsAt val.toNat 16 12) = some i →
    Answers (.syDoorbell a f val) s (fun u =>
      (u.counterRec i).value = (s.counterRec i).value + (if bitsAt val.toNat 30 2 = 0 then BitVec.ofNat 32 (bitsAt val.toNat 0 16) else 0)
      ∧ (u.counterRec i).target = (s.counterRec i).target + (if bitsAt val.toNat 30 2 = 1 then BitVec.ofNat 32 (bitsAt val.toNat 0 16) else 0)
      ∧ (u.counterRec i).masks = (s.counterRec i).masks ∧ u.tiles = s.tiles ∧ u.hbm = s.hbm
      ∧ ∀ j, j < 32768 → j ≠ i → u.counterRec j = s.counterRec j))
  ∧ (∀ (r : Req), s.selftest = false →
    let ws := s.reqWords r
    let k := s.counterRec i
    let did := fun (u : State) (clear : Bool) =>
      (u.counterRec i).value = BitVec.ofNat 32 (word ws 1) ∧ (u.counterRec i).target = BitVec.ofNat 32 (word ws 2)
      ∧ (u.counterRec i).pmask = (if bitAt (word ws 3) 31 then bitsAt (word ws 3) 0 16 else k.pmask)
      ∧ (u.counterRec i).amask = (if clear then 0 else k.amask) ∧ (u.counterRec i).fmask = (if clear then 0 else k.fmask)
      ∧ (u.counterRec i).err = (if clear then false else k.err)
      ∧ Replied s u r 0 [k.value.toNat, k.target.toNat, k.masks.toNat, k.flags.toNat] ∧ u.tiles = s.tiles ∧ u.hbm = s.hbm
      ∧ ∀ j, j < 32768 → j ≠ i → u.counterRec j = s.counterRec j
    zeroFrom ws 4 = true → onlyBits (word ws 3) 0xE03FFFFF = true → s.manualTarget (s.reqSender r) (word ws 0) = some i →
    (s.serves r 0x40 = true → Answers (.sySet r) s (fun u => did u false)) ∧ (s.serves r 0x41 = true → Answers (.syClear r) s (fun u => did u true)))


/-! Frames (01). -/

/-- R16, R18, R39, R322, R323: at the tick frame k begins with the configuration fixed for it and the frame that ends leaves its status in PL_LAST_STATUS; where a cause
stands the plan stops instead, with the frame that ended counted, and a failed time counter stops it without a tick. At T0 an armed plan ticks frame 0, or stops with cause TIME where the counter is not set.
The model's choice in it: log 26. -/
def Obligations.FramesBegin : Prop := ∀ (s : State),
  (∀ c : NextFrame, s.frame.next = some c → s.frame.running = true → s.frame.committed = true → s.planState = 4 → s.counterState = 2 →
    (s.time.counter.toNat : Int) = s.tickOf (s.frameNo + 1 : Nat) → s.frame.causes = [] → s.frame.stopAt ≠ some (s.frameNo + 1) →
    c.actions.any (fun a => bitsAt a.w3.toNat 28 4 == 3) = false → c.writes = [] → c.actions = [] → s.frameNo + 1 < 2 ^ 64 → s.workNo + 1 < 2 ^ 64 →
    s.time.marginLow.all (fun e => decide (e.1 < 96)) = true →
    Answers .frameTick s (fun u => u.frameNo = s.frameNo + 1 ∧ u.workNo = (if s.frame.ical then s.workNo else s.workNo + 1)
      ∧ u.frame.running = true ∧ u.frame.committed = false ∧ u.frame.ical = c.ical ∧ u.frame.shape = c.shape ∧ u.frame.ctx = c.ctx ∧ u.frame.bits = 0
      ∧ u.get rLastStatus = s.frameStatus % 2 ^ 32 ∧ u.pkts = [] ∧ u.now = s.now))
  ∧ (∀ c : NextFrame, s.frame.next = some c → s.frame.running = true → s.frame.committed = true → s.planState = 4 → s.counterState = 2 →
    (s.time.counter.toNat : Int) = s.tickOf (s.frameNo + 1 : Nat) → s.frame.causes ≠ [] →
    Answers .frameTick s (fun u => u.planState = 5 ∧ u.frame.running = false ∧ u.frame.next = none ∧ u.shadow = [] ∧ u.loader.actions = []
      ∧ (s.workNo + 1 < 2 ^ 64 → u.workNo = (if s.frame.ical then s.workNo else s.workNo + 1))))
  ∧ (s.planState = 4 → s.counterState ≠ 2 → s.frame.causes.contains 6 = true →
    Answers .frameTick s (fun u => u.planState = 5 ∧ u.field rPlState 24 3 = 6 ∧ u.frame.running = false ∧ u.loader.actions = []))
  ∧ (s.planState = 3 → s.counterState ≠ 2 → Answers .planStart s (fun u => u.planState = 5 ∧ u.field rPlState 24 3 = 6 ∧ u.frame.running = false))
  ∧ (s.planState = 3 → s.counterState = 2 → s.time.counter.toNat = s.get64 rT0 → s.shadow = [] → s.loader.actions = [] → s.frame.causes = [] →
    s.frame.stopAt ≠ some 0 → Answers .planStart s (fun u => u.planState = 4 ∧ u.frameNo = 0 ∧ u.workNo = 0 ∧ u.frame.running = true ∧ u.frame.committed = false))

/-- R23, R51: a tile that has done all that the frame asks of it raises its commit flag unless a fault withholds it. At the commit point the frame is closed, the
latched writes pass into the next frame's configuration, and a missing flag sets the frame's COMMIT status and, while a plan runs, the cause COMMIT.
The model's choices in it: logs 1 and 26. -/
def Obligations.CommitPoint : Prop := ∀ s : State,
  (∀ n t, s.tileLive n t = true → (s.atSlot n t).finished = true → (s.atSlot n t).withheld = false →
    Answers (.commitFlagRaise n t) s (fun u => TileDoes n t s u id ∧ (u.tile n).committed = true))
  ∧ (s.frame.running = true → s.frame.committed = false → s.counterState = 2 → (s.time.counter.toNat : Int) = s.commitOf s.frameNo →
    Answers .commitPoint s (fun u => u.frame.committed = true ∧ u.frame.running = true ∧ u.shadow = [] ∧ u.loader = s.loader ∧ u.frameNo = s.frameNo ∧ u.now = s.now
      ∧ (∃ c, u.frame.next = some c) ∧ ((∃ n ∈ s.planTiles, s.frame.rail = true ∨ (u.tile n).committed = false) → bitAt u.frame.bits 29 = true ∧ (s.planRuns = true → 3 ∈ u.frame.causes))))

/-! The mesh (07). -/

/-- R180 to R186: a head takes the output it needs, and from the tile also the injection channel, and holds them a cycle for every two lines; over a timed crossing
its flits enter the crossing's queue with their stamps, where the queue has room for each. A line in its destination router is pushed into its queue in the next cycle. A crossing passes its
front flit on in the slot six after its stamp.
The model's choice in it: log 29. -/
def Obligations.MeshMoves : Prop := ∀ (s : State) (n t id inp : Nat), s.meshSlot t = true →
  (∀ (k : Packet) (h b : HopAt) (o : Nat), s.pkt? id = some k → (s.wayOf k)[k.hop]? = some h → (s.wayOf k)[k.hop + 1]? = some b → h.out = some o →
    h.tile = n → h.inp = inp → t = k.t0 + h.cost → k.headLost = false → s.handed k 0 = true → s.crossingHas n inp id 0 = false →
    (s.router n).holder o t = none → (s.router n).holder (4 + o) t = none →
    let q := (s.router b.tile).queue b.inp
    let flits := fun (lead m : Nat) => (List.range m).map (fun j => (⟨t + lead + j, (t + lead + j) % 64, id, j⟩ : Crossing))
    (∀ lead, b.crossing = some lead → ∀ j, j < k.pairs → crossingFill (q ++ flits lead j) t (t + lead + j) < 8) →
    Answers (.meshHeadArrival n t id inp) s (fun u =>
      u.pkts = s.pkts.map (fun x => if x.id = id then { k with hop := k.hop + 1 } else x)
      ∧ (u.router n).holds = ⟨o, id, inp, t, t + k.pairs - 1⟩ :: (if inp = 4 then [⟨4 + o, id, inp, t, t + k.pairs - 1⟩] else []) ++ (s.router n).holds
      ∧ (∀ lead, b.crossing = some lead → (u.router b.tile).queue b.inp = q ++ flits lead k.pairs)
      ∧ (b.crossing = none → ∀ m i, (u.router m).queue i = (s.router m).queue i)
      ∧ u.hbm = s.hbm ∧ u.ports = s.ports ∧ u.regs = (s.seen t).regs ∧ ∀ m, (u.tile m).like (s.tile m)))
  ∧ (∀ (k k' : Packet) (h : HopAt) (i q : Nat) (v : Line), s.pkt? id = some k → (s.wayOf k)[k.hop]? = some h → k.hop + 1 = (s.wayOf k).length →
    h.tile = n → i < k.len → ssetHas k.pushed i = false → t = k.t0 + i / 2 + h.cost → k.alive i = true → s.handed k (i / 2) = true →
    s.crossingHas n h.inp id (i / 2) = false →
    let r := s.readFor k i t
    r.pkt? id = some k' → k'.line? i = some v → k'.dest = .queue q → q < 64 → r.owns n k' = true → r.tileRuns n = true → (r.tile n).now ≤ t + 1 →
    let tl := r.atSlot n (t + 1)
    let l := tl.qLine q (tl.qTail q)
    (tl.access ⟨t + 1, l % 32, l, .mv, false, none⟩).2 = false →
    Answers (.meshLineArrival n t id i) s (fun u =>
      (u.tile n).lineData l = v.data.toNat ∧ ssetHas (u.tile n).poison l = v.poison
      ∧ (u.tile n).eveBit l = false ∧ (u.tile n).qTail q = (tl.qTail q + 1) % tl.qDepth q ∧ (u.tile n).qPush q = (tl.qPush q + 1) % 2 ^ 32
      ∧ (∀ l', l' ≠ l → (u.tile n).lineData l' = tl.lineData l') ∧ (∀ m, m ≠ n → u.tile m = r.tile m) ∧ u.hbm = s.hbm
      ∧ u.sent n = (r.pkts.map (fun x => if x.id = id then { k' with pushed := ssetSet k'.pushed i true } else x)).map (Packet.past n)))
  ∧ (∀ (c : Crossing) (cs : List Crossing), (s.router n).queue inp = c :: cs → c.wrote ≤ t → t ≤ c.wrote + 6 → t % 64 = (c.stamp + 6) % 64 →
    (cs.filter (fun x => decide (x.wrote ≤ t))).all (fun x => decide ((x.stamp + 64 - c.stamp % 64) % 64 < 32)) = true →
    Answers (.crossingRelease n t inp) s (fun u => (u.router n).queue inp = cs ∧ (∀ m i, (m, i) ≠ (n, inp) → (u.router m).queue i = (s.router m).queue i)
      ∧ u.pkts = s.pkts ∧ u.tiles = s.tiles ∧ u.hbm = s.hbm ∧ u.regs = (s.seen t).regs))

/-! HBM (06). -/

/-- R160: a request flit that agrees with its transfer is accepted with its HLA and, for a write, the packet that brings its lines; a missing flit or one that disagrees makes the transfer
void, counts HB_REQ_FAULT and sets its status bit.
The model's choice in it: log 30. -/
def Obligations.HbmRequest : Prop := ∀ (s : State) (c x : Nat) (p : Xfer) (r : XferRun), c < 8 → s.xfer c x = some (p, r) → r.state = .waiting →
  (∀ k f, s.flitFor c p = some (k, f) → flitFits c p f = true →
    Answers (.requestFlitArrival c x) s (fun u => (u.ctl c).xfers = (s.ctl c).xfers.set x { r with state := .accepted, hla := f.hla, pkt := some k.id }
      ∧ u.pkts = s.pkts ∧ u.regs = (s.seen p.reqSlot).regs ∧ u.hbm = s.hbm ∧ u.tiles = s.tiles))
  ∧ ((s.flitFor c p = none ∨ ∃ k f, s.flitFor c p = some (k, f) ∧ flitFits c p f = false) →
    Answers (.requestFlitArrival c x) s (fun u => (u.ctl c).xfers = (s.ctl c).xfers.set x { r with state := .refused }
      ∧ u.get (rHbReqFault c) = (s.get (rHbReqFault c) + 1) % 2 ^ 32 ∧ u.bit (rHbStatus c) 28 = true ∧ u.hbm = s.hbm ∧ u.tiles = s.tiles))

/-- R151, R158, R161: the almanac's commands act in their slots, and a command in no slot of its own does nothing. A WR writes its line where a window of the frame's context admits it, poisoned
data, and a line that does not stand at the edge, as a zero line with the poison pattern, and every other line stays; outside the windows it writes nothing and is counted. An RD takes its line
as it is stored, or leaves the void line at the edge where no window admits it. An index read takes the valid entries of its line. ACT, PRE, REFab and RFM move no data.
The model's choice in it: log 30. -/
def Obligations.HbmCommands : Prop := ∀ (s : State) (c t x i : Nat) (p : Xfer) (r : XferRun),
  let runs := fun (op : HbmOp) => s.frame.running = true ∧ s.frame.committed = false ∧ s.cmdListed c t op = true
  (∀ op, s.cmdListed c t op = false → Answers (.hbmCommand c ⟨t, op⟩) s (fun u => u = s))
  ∧ (∀ a b, (∀ op ∈ [HbmOp.act a b, .pre a b, .refab a, .rfm a], runs op → Answers (.hbmCommand c ⟨t, op⟩) s (fun u => u = s.seen t)))
  ∧ (c < 8 → s.xfer c x = some (p, r) → r.state = .accepted →
    let hla := (r.hla + i) % 2 ^ 33
    let v := (s.edgeLine p r i t).getD .void
    let quiet := fun (u : State) => u.tiles = s.tiles ∧ u.pkts = s.pkts
    (runs (.wr x i) → p.read = false → i < p.len → smapGet (fun _ => none) r.sent i = none → s.windowHas c s.frame.ctx hla true = true →
      Answers (.hbmCommand c ⟨t, .wr x i⟩) s (fun u => u.hbmData hla = (if v.poison then 0 else v.data.toNat) ∧ ssetHas u.hbm.poison hla = v.poison
        ∧ (∀ l, l ≠ hla → u.hbmData l = s.hbmData l ∧ ssetHas u.hbm.poison l = ssetHas s.hbm.poison l) ∧ quiet u))
    ∧ (runs (.wr x i) → p.read = false → i < p.len → smapGet (fun _ => none) r.sent i = none → s.windowHas c s.frame.ctx hla true = false →
      Answers (.hbmCommand c ⟨t, .wr x i⟩) s (fun u => u.hbm = s.hbm ∧ quiet u ∧ u.get (rHbWinFault c) = (s.get (rHbWinFault c) + 1) % 2 ^ 32
        ∧ u.bit (rHbStatus c) 29 = true))
    ∧ (runs (.rd x i) → p.read = true → i < p.len → smapGet (fun _ => none) r.read i = none → p.gather = none →
      Answers (.hbmCommand c ⟨t, .rd x i⟩) s (fun u => u.hbm = s.hbm ∧ quiet u
        ∧ (s.windowHas c s.frame.ctx hla false = true → u.regs = (s.seen t).regs ∧ (u.ctl c).xfers =
            (s.ctl c).xfers.set x { r with read := smapPut (fun _ => none) r.read i (some (s.hbmRaw hla, s.symErrs hla)) })
        ∧ (s.windowHas c s.frame.ctx hla false = false → u.get (rHbWinFault c) = (s.get (rHbWinFault c) + 1) % 2 ^ 32
            ∧ ∃ r', (u.ctl c).xfers = (s.ctl c).xfers.set x r' ∧ smapGet (fun _ => none) r'.ready i = some Line.void)))
    ∧ (runs (.rd x i) → p.read = true → i < p.len → smapGet (fun _ => none) r.read i = none → p.gather ≠ none →
      Answers (.hbmCommand c ⟨t, .rd x i⟩) s (fun u => u.hbm = s.hbm ∧ quiet u ∧ u.regs = (s.seen t).regs ∧ ∃ r', (u.ctl c).xfers = (s.ctl c).xfers.set x r'
        ∧ (∀ a, r.lineAt p i = some a → r' = { r with read := smapPut (fun _ => none) r.read i (some (s.hbmRaw a, s.symErrs a)) })
        ∧ (r.lineAt p i = none → smapGet (fun _ => none) r'.ready i = some Line.void)))
    ∧ (∀ ne gl, runs (.index x i) → p.gather = some (ne, gl) → s.windowHas c s.frame.ctx hla false = true → hla / 2 ^ 30 = c → (s.hbmRead hla).2 = .good →
      (s.hbmRead hla).1.poison = false →
      Answers (.hbmCommand c ⟨t, .index x i⟩) s (fun u => u.hbm = s.hbm ∧ quiet u ∧ ∃ r', (u.ctl c).xfers = (s.ctl c).xfers.set x r'
        ∧ ∀ k, k < 8 → 8 * i + k < ne →
          let w := bitsAt (s.hbmRead hla).1.data.toNat (64 * k) 64
          smapGet (fun _ => none) r'.entries (8 * i + k) = (if s.entryOk c p gl (8 * i + k) w then some w else smapGet (fun _ => none) r.entries (8 * i + k)))))

/-- R161, R162, R166, R167: a read line is decoded at the mesh edge as its RD found it: a good one stands ready; one corrected is counted, and it or an uncorrectable one waits for a
retry where one is possible; else the corrected data stands ready, and an uncorrectable line stands there void, counted and with its status bit.
The model's choices in it: logs 30 and 31. -/
def Obligations.HbmReadLine : Prop := ∀ (s : State) (c x i hla : Nat) (errs stored : List (Nat × Nat)) (raw : Line) (p : Xfer) (r : XferRun), c < 8 →
  s.xfer c x = some (p, r) → r.state = .accepted → smapGet (fun _ => none) r.read i = some (raw, stored) → smapGet (fun _ => none) r.ready i = none →
  r.late.contains i = false → r.lineAt p i = some hla → s.masqueOf 0x06 (uHbm * 4096 + c) = none →
  let v := decodeLine raw (stored ++ errs)
  let ready := fun (u : State) (l : Line) => (u.ctl c).xfers = (s.ctl c).xfers.set x { r with ready := smapPut (fun _ => none) r.ready i (some l) }
  let retry := fun (u : State) => (u.ctl c).xfers = (s.ctl c).xfers.set x { r with late := r.late ++ [i] }
    ∧ smapGet (fun _ => []) (u.ctl c).retries (pcOf hla) = smapGet (fun _ => []) (s.ctl c).retries (pcOf hla) ++ [(x, i, s.now)]
  Answers (.readLineReady c x i errs) s (fun u => u.hbm = s.hbm ∧ u.tiles = s.tiles ∧ u.pkts = s.pkts
    ∧ (v.2 = .good → ready u v.1 ∧ u.regs = s.regs)
    ∧ (v.2 = .corrected → u.get (rHbCe c) = (s.get (rHbCe c) + 1) % 2 ^ 32 ∧ (if s.canRetry c p r hla then retry u else ready u v.1))
    ∧ (v.2 = .bad → if s.canRetry c p r hla then retry u else
        ready u .void ∧ u.get (rHbUe c) = (s.get (rHbUe c) + 1) % 2 ^ 32 ∧ u.bit (rHbStatus c) 31 = true))

/-- R153, R154, R161, R162, 07 R177: at its regular slot a ready line enters the mesh for the tile, a line of a refused transfer as the void line, and a line that is not ready takes
the next late slot; at a late slot the oldest waiting line leaves. A line that arrives is written into its reserved position with its eve bit clear, and
the push count moves over the lines that have arrived in order.
The model's choices in it: logs 1, 24 and 30. -/
def Obligations.HbmDelivery : Prop := ∀ (s : State) (n c x i t : Nat) (p : Xfer) (r : XferRun), c < 8 → s.xfer c x = some (p, r) →
  let left := fun (u : State) (r' : XferRun) (v : Line) (late : Bool) => u.hbm = s.hbm ∧ u.tiles = s.tiles
    ∧ (u.ctl c).xfers = (s.ctl c).xfers.set x { r' with sent := smapPut (fun _ => none) r.sent i (some (v, late)) }
    ∧ u.pktCtr = s.pktCtr + 1
    ∧ u.pkts = s.pkts ++ [⟨s.pktCtr, .hbm, s.physOf s.grid44 p.edge, p.back, p.tile, .hbm c x i late, 1, lineMap [v], t, 0, none, []⟩]
  (s.meshSlot t = true → p.read = true → i < p.len → p.slots[i]? = some t → smapGet (fun _ => none) r.sent i = none →
    (∀ v, r.state = .accepted → smapGet (fun _ => none) r.ready i = some v → r.late.contains i = false →
      Answers (.hbmDeliverySlot c x i t) s (fun u => left u r v false))
    ∧ (r.state = .refused → Answers (.hbmDeliverySlot c x i t) s (fun u => left u r .void false))
    ∧ (r.state = .accepted → r.late.contains i = true → Answers (.hbmDeliverySlot c x i t) s (fun u => u.hbm = s.hbm ∧ u.tiles = s.tiles ∧ u.pkts = s.pkts
        ∧ u.get (rHbLate c) = (s.get (rHbLate c) + 1) % 2 ^ 32 ∧ (u.ctl c).xfers = (s.ctl c).xfers))
    ∧ (r.state = .accepted → smapGet (fun _ => none) r.ready i = none → r.late.contains i = false → r.late.length + r.lateUsed < p.lw →
      Answers (.hbmDeliverySlot c x i t) s (fun u => u.hbm = s.hbm ∧ u.tiles = s.tiles ∧ u.pkts = s.pkts ∧ u.get (rHbLate c) = (s.get (rHbLate c) + 1) % 2 ^ 32
        ∧ (u.ctl c).xfers = (s.ctl c).xfers.set x { r with late := r.late ++ [i] }))
    ∧ (r.state = .accepted → smapGet (fun _ => none) r.ready i = none → r.late.contains i = false → p.lw ≤ r.late.length + r.lateUsed →
      Answers (.hbmDeliverySlot c x i t) s (fun u => left u r .void false ∧ u.get (rHbLateOvf c) = (s.get (rHbLateOvf c) + 1) % 2 ^ 32
        ∧ u.bit (rHbStatus c) 27 = true)))
  ∧ (s.meshSlot t = true → r.state = .accepted → p.lates[r.lateUsed]? = some t →
    (∀ rest v, r.late = i :: rest → smapGet (fun _ => none) r.ready i = some v →
      Answers (.lateSlot c x t) s (fun u => left u { r with late := rest, lateUsed := r.lateUsed + 1 } v true))
    ∧ (r.late = [] → Answers (.lateSlot c x t) s (fun u => u.hbm = s.hbm ∧ u.tiles = s.tiles ∧ u.pkts = s.pkts
        ∧ (u.ctl c).xfers = (s.ctl c).xfers.set x { r with lateUsed := r.lateUsed + 1 })))
  ∧ (∀ (k : Packet) (v : Line) (late : Bool) (a : Arrival),
    s.pkts.find? (fun k => (match k.dest with
      | .hbm c' x' i' _ => c' == c && x' == x && i' == i
      | _ => false) && ssetHas k.pushed 0 && k.t0 + (s.wayEnd k.src k.route).2 + 1 == t) = some k →
    (s.wayEnd k.src k.route).1 = n → k.line? 0 = some v → k.dest = .hbm c x i late → s.tileRuns n = true → (s.tile n).now ≤ t → t ≤ s.frame.alen →
    let tl := s.atSlot n t
    tl.tracker.find? (fun a => a.ctl == c && a.xfer == some x && decide (i < a.count) && !ssetHas a.done i) = some a → a.queue < 64 →
    let q := a.queue
    let l := tl.qLine q ((a.first + i) % tl.qDepth q)
    (tl.access ⟨t, l % 32, l, .mv, false, none⟩).2 = false →
    Answers (.lineArrival n t c x i) s (fun u => OnlyTile n (s.seen t) u ∧ (u.tile n).lineData l = v.data.toNat ∧ ssetHas (u.tile n).poison l = v.poison
      ∧ (u.tile n).eveBit l = false ∧ (∀ l', l' ≠ l → (u.tile n).lineData l' = tl.lineData l')
      ∧ (u.tile n).tracker = freePassed q (markDone c x i tl.tracker)
      ∧ (u.tile n).qPush q = (tl.qPush q + (inOrder q (markDone c x i tl.tracker) - inOrder q tl.tracker)) % 2 ^ 32
      ∧ (u.tile n).qHead q = tl.qHead q ∧ (u.tile n).qTail q = tl.qTail q))

/-- R163 to R165, R167, R169, R356: in heat mode a maintenance slot or an added REFab is spent on refresh and counted; else the slot retries up to four waiting lines, whose errors were found at
least 4 ns before, and scrubs the rest of its eight segments, moving the scrub pointer on; with no symbol stored wrong scrubbing changes nothing. A sample goes into HB_TEMP and enters
heat mode above the limit; heat mode ends after 1 ms at least 3 °C below it. A keep-alive REFab moves no data. An adaptive RFM request is only counted,
a CA parity error sets its bit and is recorded.
The model's choices in it: logs 1, 30 and 63. -/
def Obligations.HbmUpkeep : Prop := ∀ (s : State) (c p temp : Nat), c < 8 →
  Answers (.keepAlive c) s (fun u => u = s)
  ∧ (s.heat c = true → Answers (.heatRefresh c p) s (fun u => u = s.bump (rHbHeat c) 1))
  ∧ Answers (.adaptiveRfmRequest c p) s (fun u => u = s.bump (rHbArfm c) 1)
  ∧ Answers (.caParityError c p) s (fun u => u.bit (rHbStatus c) 24 = true ∧ Recorded s u 0x0307 (uHbm * 4096 + c) (p % 64) ∧ u.hbm = s.hbm ∧ u.tiles = s.tiles)
  ∧ (temp < 256 → Answers (.hbmTempSample c temp) s (fun u => u.get (rHbTemp c) = 2 ^ 31 + temp ∧ u.hbm = s.hbm ∧ u.tiles = s.tiles
      ∧ (s.field (rHbTempLimit c) 0 8 < temp → u.heat c = true) ∧ (temp ≤ s.field (rHbTempLimit c) 0 8 → u.heat c = s.heat c)
      ∧ (105 < temp → u.bit (rHbStatus c) 25 = true)))
  ∧ (∀ a, (s.ctl c).coolSince = some a → s.heat c = true → a + 1000000 ≤ s.now →
      Answers (.heatModeExit c) s (fun u => u.heat c = false ∧ u.hbm = s.hbm ∧ u.tiles = s.tiles ∧ ∀ off, off ≠ rHbStatus c → u.get off = s.get off))
  ∧ (p < 64 → s.frame.running = true → s.masqueOf 0x11 (uHbm * 4096 + c) = none →
      (s.heat c = true → Answers (.maintenanceSlot c p) s (fun u => u = s.bump (rHbHeat c) 1))
      ∧ (s.heat c = false → 0 < s.fuse.rows → s.fuse.rows ≤ 65536 → s.get (rScrubPtr c p) < 48 * s.fuse.rows →
        let q := smapGet (fun _ => []) (s.ctl c).retries p
        let now := if s.frame.ical then [] else (q.filter (fun e => decide (e.2.2 + 4 ≤ s.now))).take 4
        Answers (.maintenanceSlot c p) s (fun u => u.get (rScrubPtr c p) = (s.get (rScrubPtr c p) + (8 - now.length)) % (48 * s.fuse.rows)
          ∧ smapGet (fun _ => []) (u.ctl c).retries p = q.filter (fun e => !now.contains e) ∧ u.tiles = s.tiles ∧ u.pkts = s.pkts
          ∧ (s.hbm.wrong = [] → u.hbm = s.hbm))))

/-! The optical link (08, 09). -/

/-- R206, R259, R260: LK_CTRL.ENABLE takes an off port to SIGNAL and an on port to DISABLED, and is ignored and counted where RWL locks it. 12 fibres with clock lock take
SIGNAL to ALIGN with the full lane map. A state that outlasts its limit returns to SIGNAL, every third failure in a row being recorded; but an identity that has not come is
refused with reason 5, and the port enters HELD.
The model's choices in it: logs 1 and 32. -/
def Obligations.PortTraining : Prop := ∀ (s : State) (p : Nat), p < 16 →
  (∀ a on, isPf0OrFw a = true → s.planRuns = false → s.selftest = false →
    Answers (.portEnable p a on) s (fun u => u.bit (rLkCtrl p) 31 = on ∧ u.tiles = s.tiles ∧ u.hbm = s.hbm
      ∧ (on = true → s.train p = trDisabled → u.train p = trSignal ∧ u.lockMask p = 0)
      ∧ (on = true → s.train p ≠ trDisabled → u.train p = s.train p ∧ u.ports = s.ports)
      ∧ (on = false → u.train p = trDisabled)))
  ∧ (∀ a on, isPf0OrFw a = false ∨ s.planRuns = true ∨ s.selftest = true →
    Answers (.portEnable p a on) s (fun u => u.get rRwlIgnored = (s.get rRwlIgnored + 1) % 2 ^ 32 ∧ u.bit rMgStatus 31 = true ∧ u.ports = s.ports
      ∧ ∀ off, off ≠ rRwlIgnored → off ≠ rMgStatus → u.get off = s.get off))
  ∧ (∀ mask, s.train p = trSignal →
    Answers (.fibreClockLock p mask) s (fun u => (u.port p).clock = mask % 2 ^ 13 ∧ u.tiles = s.tiles ∧ u.hbm = s.hbm
      ∧ ((fibresOf mask).length < 12 → u.train p = trSignal)
      ∧ (12 ≤ (fibresOf mask).length → u.train p = trAlign ∧ (u.port p).since = s.now ∧ u.get (rLaneLo p) = 0x76543210 ∧ u.get (rLaneHi p) = 0xCBA98)))
  ∧ (∀ c st limit, (c, st, limit) ∈ [(Instr.signalTimeout p, trSignal, 5000000), (.alignTimeout p, trAlign, 1000000), (.identTimeout p, trIdent, 100000)] →
    s.train p = st →
    (s.now < (s.port p).since + limit → Answers c s (fun u => u = s))
    ∧ ((s.port p).since + limit ≤ s.now → (st = trIdent → (s.port p).idGot = 3) → let k := (s.port p).fails + 1
      Answers c s (fun u => u.train p = trSignal ∧ u.lockMask p = 0 ∧ (u.port p).fails = k ∧ (u.port p).since = s.now ∧ u.tiles = s.tiles ∧ u.hbm = s.hbm
        ∧ (k % 3 = 0 → Recorded s u 0x0403 (uPort * 4096 + p) (if k < 65535 then k else 65535))))
    ∧ ((s.port p).since + limit ≤ s.now → st = trIdent → (s.port p).idGot ≠ 3 →
      Answers c s (fun u => u.train p = trHeld ∧ u.lockMask p = s.lockMask p ∧ u.bit (rPeerStatus p) 31 = true ∧ u.field (rPeerStatus p) 28 3 = 5
        ∧ u.tiles = s.tiles ∧ u.hbm = s.hbm ∧ Recorded s u 0x0407 (uPort * 4096 + p) 5)))

/-- R204, R207, R208, R210, R211: a valid marker counts towards the lock of its fibre, which five in a row, each a period after the one before, give; a locked fibre looks only where its next marker
must end, and the third invalid one in a row takes its lock, and in UP erases the fibre, as the loss of its light does at once. A marker with the generation asked for brings the new lane map
into use.
R199: a lost feed is recorded once, and a port in UP without either leaves UP.
The model's choices in it: logs 1, 32 and 34. -/
def Obligations.FibreMarkers : Prop := ∀ (s : State) (p : Nat),
  (∀ (f pos : Nat) (syms : List Nat), s.linkOn p = true → f < 13 →
    let x := smapGet (fun _ => Fibre.fresh) (s.port p).fibres f
    let locked := bitAt (s.lockMask p) f
    let fib := fun (u : State) => smapGet (fun _ => Fibre.fresh) (u.port p).fibres f
    let here := pos = x.last.getD 0 + (x.bad + 1) * periodSymbols (s.rxMask p)
    (x.erased = true → Answers (.alignmentMarker p f ⟨pos, syms⟩) s (fun u => u = s))
    ∧ (x.erased = false → markerRead syms = none →
      (locked = false ∨ ¬ here → Answers (.alignmentMarker p f ⟨pos, syms⟩) s (fun u => u = s))
      ∧ (locked = true → here → x.bad < 2 → Answers (.alignmentMarker p f ⟨pos, syms⟩) s (fun u => fib u = { x with bad := x.bad + 1 } ∧ u.regs = s.regs))
      ∧ (locked = true → here → 2 ≤ x.bad → s.train p ≠ trUp →
          Answers (.alignmentMarker p f ⟨pos, syms⟩) s (fun u => fib u = Fibre.fresh ∧ bitAt (u.lockMask p) f = false ∧ u.train p = s.train p))
      ∧ (locked = true → here → 2 ≤ x.bad → s.train p = trUp → Answers (.alignmentMarker p f ⟨pos, syms⟩) s (fun u => FibreErased s u p f)))
    ∧ (∀ m, x.erased = false → markerRead syms = some m →
      (locked = false →
        let good := if x.last = some (pos - 371371) ∧ 371371 ≤ pos then x.good + 1 else 1
        Answers (.alignmentMarker p f ⟨pos, syms⟩) s (fun u => fib u = ⟨good, 0, some pos, false⟩ ∧ bitAt (u.lockMask p) f = decide (5 ≤ good)
          ∧ u.tiles = s.tiles ∧ u.hbm = s.hbm))
      ∧ (locked = true → s.markerDue p x pos = false → Answers (.alignmentMarker p f ⟨pos, syms⟩) s (fun u => u = s))
      ∧ (locked = true → s.markerDue p x pos = true →
        Answers (.alignmentMarker p f ⟨pos, syms⟩) s (fun u => fib u = { x with bad := 0, last := some pos } ∧ bitAt (u.lockMask p) f = true
          ∧ u.tiles = s.tiles ∧ u.hbm = s.hbm
          ∧ (∀ mask gen, s.train p = trUp → (s.port p).mapWant = some (mask, gen) → bitsAt (m.getD 7 0) 0 2 = gen →
              u.field (rLkState p) 19 2 = gen ∧ u.bit (rLkState p) lkReduced = decide ((fibresOf mask).length ≤ 11)
                ∧ u.bit (rLkState p) lkParity = decide ((fibresOf mask).length = 13)
                ∧ (u.port p).mapWant = (if s.lockMask p = mask then none else some (s.lockMask p, (gen + 1) % 4))))))
    ∧ (locked = false → Answers (.lossOfSignal p f) s (fun u => u = s))
    ∧ (locked = true → s.train p = trUp → Answers (.lossOfSignal p f) s (fun u => FibreErased s u p f))
    ∧ (locked = true → s.train p ≠ trUp → Answers (.lossOfSignal p f) s (fun u => fib u = Fibre.fresh ∧ bitAt (u.lockMask p) f = false ∧ u.train p = s.train p)))
  ∧ (∀ second : Bool, p < 16 → let i := if second then 1 else 0
    (bitAt (s.port p).feedLost i = true → Answers (.feedLoss p second) s (fun u => u = s))
    ∧ (bitAt (s.port p).feedLost i = false → Answers (.feedLoss p second) s (fun u => u.bit (rLkStatus p) (21 - i) = true ∧ u.tiles = s.tiles ∧ u.hbm = s.hbm
        ∧ (u.port p).feedLost = (s.port p).feedLost ||| 2 ^ i
        ∧ ((s.port p).feedLost ||| 2 ^ i = 3 → s.train p = trUp → u.train p = trSignal)
        ∧ ((s.port p).feedLost ||| 2 ^ i ≠ 3 ∨ s.train p ≠ trUp → u.train p = s.train p
            ∧ Recorded s u 0x0404 (uPort * 4096 + p) ((p + i) % 4 + 4 * i)))))

/-- R200, R202, R203, R210, R213, R214, R282: the lane positions of a codeword give its symbols, a lost fibre's from the parity fibre's, and it is counted. An uncorrectable one is counted again with
its status bit; of a good one the symbols corrected are counted, the messages of its link-control flits with a good CRC-16 and its calends flits, with the time they came, are put by, and the
descrambler moves on. A port that runs no codewords takes nothing. `r` is the device after a map that the codeword shows has been taken into use (R208).
The model's choice in it: log 32. -/
def Obligations.Codewords : Prop := ∀ (s : State) (p : Nat) (cols : List (List Nat)),
  (s.linkOn p = false → Answers (.codeword p cols) s (fun u => u = s))
  ∧ (s.linkOn p = true →
    let r := s.tryMap p cols
    let fs := r.rxFibres p
    let k := (r.port p).rxCw
    let syms := r.unstripe p fs k cols
    let counted := fun (u : State) => u.get64 (rCwCnt p) = (s.get64 (rCwCnt p) + 1) % 2 ^ 64 ∧ (u.port p).rxCw = (k + 1) % (if fs.length = 11 then 16379 else 16383)
      ∧ u.tiles = s.tiles ∧ u.hbm = s.hbm
    ((s.port p).mapWant = none ∨ (s.port p).rxCw ≠ 0 → r = s)
    ∧ (cols.length < colsOf fs.length k → Answers (.codeword p cols) s (fun u => u = r))
    ∧ (colsOf fs.length k ≤ cols.length → rsFix syms = none →
      Answers (.codeword p cols) s (fun u => counted u ∧ u.get (rUcw p) = (s.get (rUcw p) + 1) % 2 ^ 32
        ∧ u.bit (rLkStatus p) 31 = true ∧ u.get (rCeSym p) = s.get (rCeSym p) ∧ (u.port p).lcIn = (s.port p).lcIn ∧ (u.port p).calIn = (s.port p).calIn))
    ∧ (∀ good errs, colsOf fs.length k ≤ cols.length → rsFix syms = some (good, errs) →
      let d := descramble (s.port p).rxHist (symsNum (good.take 257))
      let lc := (payloadFlits d.1).filter (fun f => f.kind == 2 && crc16 ((lineBytes f.data).take 62) == bigNum ((lineBytes f.data).drop 62))
      Answers (.codeword p cols) s (fun u => counted u ∧ u.get (rUcw p) = s.get (rUcw p)
        ∧ u.get (rCeSym p) = (s.get (rCeSym p) + errs) % 2 ^ 32 ∧ (u.port p).rxHist = d.2
        ∧ (u.port p).lcIn = (s.port p).lcIn ++ (lc.map (fun f => (lcMessages f.data).1)).flatten
        ∧ (u.port p).calIn = (s.port p).calIn ++ ((payloadFlits d.1).filter (fun f => f.kind == 3)).map (fun f => (f.data, s.rxStamp)))))

/-- R214, R225, R227 to R229, R208, R255, R259, R261: the link-control messages, each at the front of those received. STATUS: an acknowledgement of packets sent and not yet
acknowledged frees them, a repeat of an acknowledgement does nothing, any other is counted; the off states follow; in IDENT, with the partner's identity accepted, the partner's acceptance takes the
port to UP with both channels at 0. NAK marks packets of the replay buffer. LANE sets the map that the transmitter will use. ABANDON settles its number. IDENT0 and IDENT1
latch the identity, and with both the port accepts it or enters HELD.
The model's choices in it: logs 1, 32 and 34. -/
def Obligations.LinkMessages : Prop := ∀ (s : State) (p : Nat) (m : LcMsg), p < 16 →
  (s.lcFront p 1 = some m →
    Answers (.status p) s (fun u => (u.port p).lcIn = (s.port p).lcIn.drop 1 ∧ u.tiles = s.tiles ∧ u.hbm = s.hbm
      ∧ (s.train p = trUp → u.train p = trUp ∧
          (let q := s.port p
          let ack := fun vc => bitsAt m.toNat (40 - 16 * vc) 16
          let k := fun vc => (ack vc + 65536 - (q.chan vc).oldest) % 65536
          let covers := fun vc (x : TxPkt) => decide ((x.seq + 65536 - (q.chan vc).oldest) % 65536 ≤ k vc)
          let good := fun vc => decide (k vc < (q.chan vc).unacked) && (q.chan vc).replay.all (fun x => !covers vc x || x.sentAt.isSome || x.replayedAt.isSome)
          let viol := fun vc => bitAt m.toNat (23 - vc) && !good vc && !(k vc == 65535 && (q.chan vc).acked)
          u.get (rAckViol p) = (s.get (rAckViol p) + b2n (viol 0) + b2n (viol 1)) % 2 ^ 32
            ∧ ∀ vc, vc < 2 → u.bit (rLkState p) (lkOffRx vc) = bitAt m.toNat (21 - vc)
              ∧ (if bitAt m.toNat (23 - vc) = true ∧ good vc = true then
                  ((u.port p).chan vc).oldest = (ack vc + 1) % 65536 ∧ ((u.port p).chan vc).replay =
                    (q.chan vc).replay.filter (fun x => !covers vc x || q.fram.any (fun f => f.id == x.id))
                else ((u.port p).chan vc).oldest = (q.chan vc).oldest ∧ ((u.port p).chan vc).replay = (q.chan vc).replay)))
      ∧ (s.train p = trIdent → (s.port p).idOk = true → bitAt m.toNat 17 = true →
          u.train p = trUp ∧ ∀ vc, vc < 2 → ((u.port p).chan vc).e = 0 ∧ ((u.port p).chan vc).next = 0)))
  ∧ (s.lcFront p 2 = some m → s.train p = trUp →
    Answers (.nak p) s (fun u => u = (List.range (bitsAt m.toNat 34 5 + 1)).foldl
        (fun s i => State.nakOne p (bitsAt m.toNat 55 1) s ((bitsAt m.toNat 39 16 + i) % 65536)) (s.lcPop p)))
  ∧ (∀ vc n x, let c := (s.port p).chan vc
    let k := (n + 65536 - c.oldest) % 65536
    (k < 16384 ∨ 49152 ≤ k) → c.replay.find? (fun x => x.seq == n) = some x → x.abandoned = false →
    (∀ t, x.replayedAt = some t → t + s.field (rReplayTimeout p) 0 16 ≤ s.now) →
    (((State.nakOne p vc s n).port p).chan vc).replay = c.replay.map (fun y => if y.seq = n then { y with marked := true } else y))
  ∧ (s.lcFront p 6 = some m →
    Answers (.lane p) s (fun u => (u.port p).lcIn = (s.port p).lcIn.drop 1 ∧ u.regs = s.regs ∧ (u.port p).txWant =
      (if s.linkOn p = true ∧ 11 ≤ (fibresOf (bitsAt m.toNat 43 13)).length ∧ (s.port p).txGen ≠ bitsAt m.toNat 41 2 then
        some (bitsAt m.toNat 43 13, bitsAt m.toNat 41 2) else (s.port p).txWant)))
  ∧ (s.lcFront p 4 = some m → s.train p = trUp →
    let vc := bitsAt m.toNat 55 1
    let n := bitsAt m.toNat 39 16
    let c := (s.port p).chan vc
    let d := (n + 65536 - c.e) % 65536
    (49152 ≤ d → Answers (.abandon p) s (fun u => u = s.lcPop p))
    ∧ (d < 49152 → 16384 ≤ d ∨ (ssetHas c.ahead n = true ∧ ssetHas c.gone n = false) →
        Answers (.abandon p) s (fun u => u.get (rAckViol p) = (s.get (rAckViol p) + 1) % 2 ^ 32 ∧ u.bit (rPeerStatus p) 24 = true ∧ (u.port p).chans = (s.port p).chans))
    ∧ (d < 16384 → ssetHas c.ahead n = false ∨ ssetHas c.gone n = true →
        Answers (.abandon p) s (fun u => ((u.port p).chan vc).e = (c.settle n).e ∧ ((u.port p).chan vc).conf = true
          ∧ u.get (rAbandonRx p) = (s.get (rAbandonRx p) + 1) % 2 ^ 32 ∧ u.bit (rPeerStatus p) 23 = true ∧ u.tiles = s.tiles ∧ u.hbm = s.hbm)))
  ∧ (∀ c kind got, (c, kind, got) ∈ [(Instr.ident0 p, 7, 1), (.ident1 p, 8, 2)] → s.lcFront p kind = some m → s.latching p = true →
    Answers c s (fun u => (u.port p).idGot = (s.port p).idGot ||| got ∧ u.tiles = s.tiles ∧ u.hbm = s.hbm
      ∧ (got = 1 → u.get (rPeerAddr p) = 2 ^ 31 + bitsAt m.toNat 40 16 ∧ u.field (rPeerRank p) 0 16 = bitsAt m.toNat 24 16
          ∧ u.get64 (rPeerPlan p) = s.get64 (rPeerPlan p) % 2 ^ 40 + bitsAt m.toNat 0 24 * 2 ^ 40)
      ∧ (got = 2 → u.field (rPeerRank p) 16 4 = bitsAt m.toNat 12 4 ∧ u.get64 (rPeerPlan p) = s.get64 (rPeerPlan p) / 2 ^ 40 * 2 ^ 40 + bitsAt m.toNat 16 40)
      ∧ (s.train p = trIdent → (s.port p).idGot ||| got = 3 → (s.port p).idOk = false →
          (u.idReason p = 0 → (u.port p).idOk = true ∧ u.train p = trIdent)
          ∧ (u.idReason p ≠ 0 → u.train p = trHeld ∧ u.field (rPeerStatus p) 28 3 = u.idReason p
              ∧ Recorded s u 0x0407 (uPort * 4096 + p) (u.idReason p)))))

/-- R217, R220 to R222, R226, R228, R237, R238, Table 8-13: the receiver's next header is a duplicate, which is counted and discarded, a violation of the sequence, likewise with its
status bit, or a packet, which is checked against the plan: dropped and counted where a check fails, else bound to the entry it serves. The last byte of a packet ends it:
one whose CRC-64 confirms it settles its number, one that fails is NAKed, and either stays in the ingress queue, marked, but for a failed one whose outcome has been told already; a
discarded one only leaves.
The model's choices in it: logs 1, 32 and 75. -/
def Obligations.PacketsReceived : Prop := ∀ (s : State) (p : Nat), p < 16 → s.train p = trUp →
  (∀ q2 h marks, (s.port p).cur = none → Port.scan (9 * (s.port p).rx.length + 9) (s.port p) = (q2, some h, false) →
    let c := (s.port p).chan (hdrVc h)
    let d := (hdrSeq h + 65536 - c.e) % 65536
    let bad := !typeKnown h || bitsAt h 16 11 != 0
    Answers (.packetHeader ⟨p, marks⟩) s (fun u => ∃ k, (u.port p).cur = some k ∧ k.header = h ∧ k.bad = bad ∧ k.marks = marks.filter (· < hdrLen h)
      ∧ u.tiles = s.tiles ∧ u.hbm = s.hbm
      ∧ u.get (rHdrErr p) = (s.get (rHdrErr p) + b2n bad) % 2 ^ 32
      ∧ (49152 ≤ d → k.discard = true ∧ u.get (rDup p) = (s.get (rDup p) + 1) % 2 ^ 32)
      ∧ (16384 ≤ d → d < 49152 → k.discard = true ∧ u.get (rSeqViol p) = (s.get (rSeqViol p) + 1) % 2 ^ 32 ∧ u.bit (rLkStatus p) 27 = true)
      ∧ (d < 16384 → k.discard = false
          ∧ (s.peerCheck p h = 0 → k.dropped = false ∧ ∃ i leap, s.entryFor p h = some (i, leap) ∧ k.entry = some i ∧ k.leap = leap)
          ∧ (s.peerCheck p h = 1 → k.dropped = true ∧ u.get (rDropDest p) = (s.get (rDropDest p) + 1) % 2 ^ 32 ∧ u.bit (rPeerStatus p) 25 = true)
          ∧ (1 < s.peerCheck p h → k.dropped = true ∧ u.get (rDropSrc p) = (s.get (rDropSrc p) + 1) % 2 ^ 32 ∧ u.bit (rPeerStatus p) 26 = true)
          ∧ ∀ i, i < d → let n := (c.e + i) % 65536
              ssetHas c.ahead n = false → ssetHas ((u.port p).chan (hdrVc h)).naked n = true)))
  ∧ (∀ q2 err marks, (s.port p).cur = none → Port.scan (9 * (s.port p).rx.length + 9) (s.port p) = (q2, none, err) →
    Answers (.packetHeader ⟨p, marks⟩) s (fun u => u.port p = q2 ∧ u.get (rHdrErr p) = (s.get (rHdrErr p) + b2n err) % 2 ^ 32 ∧ u.tiles = s.tiles ∧ u.hbm = s.hbm))
  ∧ (∀ k, (s.port p).cur = some k → k.extent ≤ k.body.length →
    let vc := hdrVc k.header
    let n := hdrSeq k.header
    let c := (s.port p).chan vc
    let told := fun (i : Nat) => ((s.port p).entry vc i).notice != .none
    Answers (.packetTrailer p) s (fun u => (u.port p).cur = none ∧ u.tiles = s.tiles ∧ u.hbm = s.hbm
      ∧ (k.discard = true ∨ k.overflow = true → (u.port p).chans = (s.port p).chans ∧ (u.port p).entries = (s.port p).entries)
      ∧ (k.discard = false → k.overflow = false → k.sound = true →
          ((u.port p).chan vc).e = (c.settle n).e ∧ ((u.port p).chan vc).conf = true
          ∧ ((u.port p).chan vc).held = (if k.dropped then c.held else c.held ++ [{ k with state := .confirmed }])
          ∧ (∀ i, k.entry = some i → ((u.port p).entry vc i).confirmed = true ∧ ((u.port p).entry vc i).failed = false))
      ∧ (k.discard = false → k.overflow = false → k.sound = false →
          ((u.port p).chan vc).e = c.e ∧ ssetHas ((u.port p).chan vc).naked n = true
          ∧ (k.entry = none → ((u.port p).chan vc).held = c.held)
          ∧ (∀ i, k.entry = some i → ((u.port p).entry vc i).failed = !((s.port p).entry vc i).confirmed
              ∧ ((u.port p).chan vc).held = (if told i || k.dropped then c.held else c.held ++ [{ k with state := .failed }])))))

/-- R214, R215, R220, R225, R227, R229, R255, R256, R260, 01 R27, R30: the transmitter. A link-control flit carries STATUS and up to six messages. The next packet takes the next number and goes
to the framer and into the replay buffer, or is held back once the window or the buffer is full; in an intercalary frame none goes, and a leap copy goes in the leap window only, within its
budget. The timeout marks the oldest packet; in the leap window, within its budget, the marked packet sent first goes again, alone; of an abandoned packet only ABANDON goes. A partner that holds
a channel off beyond LK_VIGIL is recorded once.
The model's choices in it: logs 1, 32, 33 and 75. -/
def Obligations.LinkTransmit : Prop := ∀ (s : State) (p vc : Nat), p < 16 → vc < 2 →
  let q := s.port p
  let c := q.chan vc
  let budget := s.inLeap p = true ∧ q.leapUsed < s.leapBudget p
  let replayed := fun (u : State) => u.frame.bits = s.frame.bits ||| 2 ^ 24 ∧ (u.port p).leapUsed = q.leapUsed + 1
  (s.linkOn p = true → Answers (.linkControlSend p) s (fun u => u.port p = { q with lcAsk := true } ∧ (∀ r, r ≠ p → u.port r = s.port r) ∧ u.regs = s.regs ∧ u.tiles = s.tiles))
  ∧ (let ms := if s.train p = trUp then q.lcOut.take 6 else if s.train p = trIdent ∨ s.train p = trHeld then
        s.lcIdent p ++ [lcLane (s.lockMask p) ((s.field (rLkState p) 19 2 + 1) % 4)] else []
    let u := (s.lcNext p).1
    (s.lcNext p).2 = ⟨2, lcFlit (s.lcStatus p :: ms)⟩ ∧ (u.port p).lcOut = (if s.train p = trUp then q.lcOut.drop 6 else [])
      ∧ u.get (rNakTx p) = (s.get (rNakTx p) + (ms.filter (fun m => lcKind m == 2)).length) % 2 ^ 32 ∧ (u.port p).chans = q.chans ∧ u.tiles = s.tiles)
  ∧ (∀ x rest, c.egress = x :: rest → s.train p = trUp → s.bit (rLkState p) (lkOffRx vc) = false →
    let sent := fun (u : State) =>
      let y := { x with seq := c.next, order := q.txOrder }
      ((u.port p).chan vc).egress = rest ∧ ((u.port p).chan vc).next = (c.next + 1) % 65536 ∧ ((u.port p).chan vc).replay = c.replay ++ [y]
        ∧ (u.port p).fram = q.fram ++ [⟨vc, x.id, 0, false, none⟩] ∧ (u.port p).txOrder = q.txOrder + 1
        ∧ (u.port p).lcOut = (if x.abandoned then q.lcOut ++ [lcAbandon vc c.next] else q.lcOut)
        ∧ u.out = (if x.marks = [] then s.out else .marks p vc c.next x.marks :: s.out)
        ∧ u.get (rAbandonTx p) = (s.get (rAbandonTx p) + b2n x.abandoned) % 2 ^ 32 ∧ u.tiles = s.tiles
    let fits := c.unacked < 16384 ∧ q.replayBytes + x.size ≤ 768 * 1024
    (s.frame.running = true → s.frame.ical = true → Answers (.packetTransmit p vc) s (fun u => u = s))
    ∧ (s.frame.running = false ∨ s.frame.ical = false →
      (¬ fits → Answers (.packetTransmit p vc) s (fun u => u.out = s.out ∧ ((u.port p).chan vc).next = c.next ∧ ((u.port p).chan vc).egress = { x with noted := true } :: rest
          ∧ u.get (rTxHold p) = (s.get (rTxHold p) + b2n (!x.noted)) % 2 ^ 32 ∧ u.tiles = s.tiles))
      ∧ (fits → x.leap = false → s.fl.masques = [] → Answers (.packetTransmit p vc) s (fun u => sent u ∧ u.frame = s.frame))
      ∧ (fits → x.leap = true → s.inLeap p = false → Answers (.packetTransmit p vc) s (fun u => u = s))
      ∧ (fits → x.leap = true → s.inLeap p = true → s.leapBudget p ≤ q.leapUsed → Answers (.packetTransmit p vc) s (fun u => u = s.frameBit 27))
      ∧ (fits → x.leap = true → budget → Answers (.packetTransmit p vc) s (fun u => sent u ∧ replayed u))))
  ∧ (∀ x rest t, c.waiting = x :: rest → x.sentAt = some t → s.train p = trUp → x.marked = false → t + s.field (rReplayTimeout p) 0 16 ≤ s.now →
    Answers (.replayTimeout p vc) s (fun u => u.out = s.out ∧ u.tiles = s.tiles
      ∧ (x.abandoned = false → u.regs = s.regs
          ∧ ((u.port p).chan vc).replay = c.replay.map (fun y => if y.id = x.id then { y with marked := true, byTimeout := true } else y))
      ∧ (x.abandoned = true → (u.port p).lcOut = q.lcOut ++ [lcAbandon vc x.seq] ∧ u.get (rReplay p) = (s.get (rReplay p) + 1) % 2 ^ 32
          ∧ u.get (rTimeout p) = (s.get (rTimeout p) + 1) % 2 ^ 32)))
  ∧ (s.train p = trUp → s.inLeap p = false → Answers (.packetReplay p) s (fun u => u = s))
  ∧ (∀ x, s.train p = trUp → s.markedOf p vc = some x →
    (∀ y, s.markedOf p (1 - vc) = some y → if vc = 0 then x.order ≤ y.order else x.order < y.order) →
    (s.inLeap p = true → s.leapBudget p ≤ q.leapUsed → Answers (.packetReplay p) s (fun u => u = s.frameBit 27))
    ∧ (budget → Answers (.packetReplay p) s (fun u => u.tiles = s.tiles ∧ replayed u
      ∧ u.get (rReplay p) = (s.get (rReplay p) + 1) % 2 ^ 32 ∧ u.bit (rLkStatus p) 28 = true
      ∧ u.get (rTimeout p) = (s.get (rTimeout p) + b2n x.byTimeout) % 2 ^ 32
      ∧ (u.port p).fram = q.fram ++ [⟨vc, x.id, 0, false, none⟩]
      ∧ ((u.port p).chan vc).replay = c.replay.map (fun y =>
          if y.id = x.id then { y with marked := false, byTimeout := false, sentAt := none, replayedAt := some s.now } else y))))
  ∧ (∀ t, c.offSince = some t → c.offNoted = false → s.train p = trUp → t + s.field (rLkVigil p) 0 24 ≤ s.now →
    Answers (.peerVigil p vc) s (fun u => ((u.port p).chan vc).offNoted = true ∧ u.bit (rPeerStatus p) 27 = true ∧ u.tiles = s.tiles
      ∧ Recorded s u 0x0409 (uPort * 4096 + p) vc))
  ∧ (c.offNoted = true → Answers (.peerVigil p vc) s (fun u => u = s))

/-! Eve delivery and routing (09). -/

/-- R240, R241, R242: in its slot, a regular delivery leaves the port tile with its two lines in order, each the packet's own or the void line. In the destination tile a line acts in the cycle after
its ejection. Under a FREE tag the first line of a delivery makes it EVE and records its position; every line stands at the tail of its queue with the eve bit set, and a delivery to a tag that is
not FREE writes its line poisoned. A leap delivery carries the confirmed packet or void lines, rewrites the recorded positions of a FAILED tag and moves no pointer; a READ line goes so into its
queue once its notice is known.
The model's choices in it: logs 1 and 35. -/
def Obligations.EveDelivery : Prop :=
  (∀ (s : State) (p vc k j : Nat) (a : ArrEntry) (e : Nat) (r : EntryRun), s.arrival p vc k 3 = some (a, e, r) →
    let n := s.portTile p a
    let leaves := fun (u : State) (dest : PktDest) (t : Nat) (ls : List Line) => u.pktCtr = s.pktCtr + 1 ∧ u.tiles = s.tiles ∧ u.hbm = s.hbm
      ∧ u.pkts = s.pkts ++ [⟨s.pktCtr, .port, n, s.meshRoute n (orMesh e), orDvt e, dest, ls.length, lineMap ls, t, 0, none, []⟩]
    (∀ t, a.typ = 1 → a.slots[j]? = some t → r.sent.length ≤ 2 * j → 2 * j < a.len → s.slotOpen t = true →
      let own := ([2 * j, 2 * j + 1].filter (· < a.len)).map (fun i => ((s.port p).serving vc k).bind (fun x => x.line i))
      Answers (.regularDelivery p vc k j) s (fun u => leaves u (.eve (orTag e) (orDq e) (entryId p vc k) (2 * j)) t (own.map (fun v => v.getD .void))
        ∧ (u.port p).entry vc k = { r with sent := r.sent ++ List.replicate (2 * j - r.sent.length) false ++ own.map (fun v => v.isSome) }))
    ∧ (r.leapDone = none → s.slotOpen a.leap = true → 0 < a.len → (a.typ = 1 ∧ r.notice = .fail) ∨ (a.typ = 4 ∧ (r.notice = .confirm ∨ r.notice = .fail)) →
      let own := (s.port p).confirmed vc k
      Answers (.leapDelivery p vc k) s (fun u => leaves u (if a.typ = 1 then .leap (orTag e) else .queue (orDq e)) a.leap (leapLines a own)
        ∧ (u.port p).entry vc k = { r with leapDone := some own.isSome }
        ∧ ((u.port p).chan vc).held = ((s.port p).chan vc).held.filter (fun x => x.entry != some k)
        ∧ u.frame.bits = (if r.notice = .fail then s.frame.bits ||| 2 ^ 24 else s.frame.bits))))
  ∧ (∀ (s : State) (n t id i : Nat) (k : Packet) (h : HopAt) (v : Line) (f : Tile → Tile), s.meshSlot t = true → s.pkt? id = some k → k.from_ = .port →
    (s.wayOf k)[k.hop]? = some h → k.hop + 1 = (s.wayOf k).length → h.tile = n → i < k.len → ssetHas k.pushed i = false → t = k.t0 + i / 2 + h.cost →
    k.alive i = true → s.crossingHas n h.inp id (i / 2) = false → k.line? i = some v → s.owns n k = true → s.tileRuns n = true → (s.tile n).now ≤ t + 1 →
    (match k.dest with
      | .eve g q ent first => f = fun tl => (tl.event 0x2C 1).eveLine (t + 1) g q ent (first + i) v
      | .leap g => f = fun tl => tl.leapLine (t + 1) g i v
      | .notice g code => f = fun tl => tl.notice n s.frameNo (t + 1) g code
      | _ => False) →
    Answers (.meshLineArrival n t id i) s (fun u => u.hbm = s.hbm ∧ (∀ m, m ≠ n → u.tile m = s.tile m) ∧ (u.tile n).like (f (s.atSlot n (t + 1)))))
  ∧ (∀ (tl : Tile) (t g q ent i : Nat) (v : Line), q < 64 →
    let l := tl.qLine q (tl.qTail q)
    (tl.access ⟨t, l % 32, l, .mv, false, none⟩).2 = false →
    let x := tl.tag g
    let good := (x.state = .free ∧ i = 0) ∨ (x.state = .eve ∧ 0 < i ∧ x.owner = ent ∧ x.count = i)
    let u := tl.eveLine t g q ent i v
    u.lineData l = v.data.toNat ∧ u.qTail q = (tl.qTail q + 1) % tl.qDepth q ∧ u.qHead q = tl.qHead q ∧ u.qPush q = (tl.qPush q + 1) % 2 ^ 32
      ∧ (good → ssetHas u.poison l = v.poison ∧ u.eveBit l = true
          ∧ u.tag g = if i = 0 then ⟨.eve, q, tl.qTail q, 1, ent⟩ else { x with count := i + 1 })
      ∧ (¬ good → ssetHas u.poison l = true ∧ u.eveBit l = false ∧ u.tag g = x))
  ∧ (∀ (tl : Tile) (t g i : Nat) (v : Line), (tl.tag g).state = .failed → i < (tl.tag g).count →
    let l := tl.qLine (tl.tag g).queue ((tl.tag g).first + i)
    (tl.access ⟨t, l % 32, l, .mv, false, none⟩).2 = false →
    let u := tl.leapLine t g i v
    u.lineData l = v.data.toNat ∧ ssetHas u.poison l = v.poison ∧ u.eveBit l = false ∧ u.sameObjs tl ∧ u.tags = tl.tags
      ∧ ∀ l', l' ≠ l → u.lineData l' = tl.lineData l' ∧ u.eveBit l' = tl.eveBit l')

/-- R241, R242, R250, R300, R365: CONFIRM and FAIL follow the regular slots, LEAP and DEAD the repair; the notice of a DATA entry leaves the port tile in its slot. In the tile a CONFIRM frees the
tag, clears the eve bits of its lines and its bit in the pending masks; a FAIL makes the tag FAILED and marks the ranges that wait for it; a LEAP or a DEAD frees it. A confirmed SYNC packet's
signal or part sets out for its counter, 40 cycles after the notice's slot; a lost one sets ERR there for a plain signal, and fails its part; a confirmed exchange packet's mode word and records
are taken.
The model's choices in it: logs 1 and 35. -/
def Obligations.EveNotices : Prop := ∀ (s : State) (p vc k : Nat) (a : ArrEntry) (e : Nat) (r : EntryRun), s.arrival p vc k 3 = some (a, e, r) →
  let n := s.portTile p a
  let entry := fun (u : State) => (u.port p).entry vc k
  let tells := fun (u : State) (code t : Nat) => u.tiles = s.tiles ∧ u.hbm = s.hbm ∧ (a.typ = 1 → u.sync = s.sync ∧ u.pktCtr = s.pktCtr + 1
    ∧ u.pkts = s.pkts ++ [⟨s.pktCtr, .port, n, s.meshRoute n (orMesh e), orDvt e, .notice (orTag e) code, 1, lineMap [.zero], t, 0, none, []⟩])
    ∧ (a.typ ≠ 1 → u.pkts = s.pkts)
  let due := fun (u : State) (i t kind x y : Nat) => ∃ d, u.sync.due = insertStep d s.sync.due ∧ u.sync.hist = s.sync.hist ∧ d.ctr = i ∧ d.eff = t + 40
    ∧ d.kind = kind ∧ d.a = x ∧ d.b = y
  let settles := fun (u : State) (t : Nat) => ∀ x, (s.port p).confirmed vc k = some x →
    (∀ kind part (failed : Bool) inc i, a.typ = 2 → syncFields (x.payload.getD 0 0).toNat = some (a.vid, kind, part, failed, inc) → a.kind = kind →
      kind = 1 ∨ part = a.part → s.xlate s.frame.ctx a.vid = some i →
      (kind = 1 → due u i t 1 inc 0) ∧ (kind ≠ 1 → due u i t 3 part (if failed then 1 else 0)))
    ∧ (a.typ = 3 → smapGet (fun _ => none) u.fl.modes p = some (modeOf (x.payload.getD 0 0).toNat) ∧ u.sync = s.sync)
  (s.noticeDue a r = true → noticeGood a r = true →
    Answers (.noticeConfirm p vc k) s (fun u => (entry u).notice = .confirm ∧ tells u 1 a.notice ∧ settles u a.notice))
  ∧ (s.noticeDue a r = true → noticeGood a r = false →
    Answers (.noticeFail p vc k) s (fun u => entry u = { r with notice := .fail } ∧ tells u 2 a.notice ∧ u.sync = s.sync
      ∧ ((u.port p).chan vc).held = ((s.port p).chan vc).held.filter (fun x => x.entry != some k || (true && x.state != .failed))))
  ∧ (s.leapDue a r = true → leapGood a r = true →
    Answers (.noticeLeap p vc k) s (fun u => (entry u).notice = .leap ∧ tells u 3 a.leapNotice ∧ settles u a.leapNotice))
  ∧ (s.leapDue a r = true → leapGood a r = false →
    Answers (.noticeDead p vc k) s (fun u => entry u = { r with notice := .dead } ∧ tells u 4 a.leapNotice
      ∧ (∀ i, a.typ = 2 → r.late = false → s.xlate s.frame.ctx a.vid = some i →
          (a.kind ≠ 2 → due u i a.leapNotice 4 0 0) ∧ (a.kind = 2 → due u i a.leapNotice 3 a.part 1))
      ∧ (a.typ = 2 → r.late = true → u.sync = s.sync)))
  ∧ (∀ (tl : Tile) (g : Nat),
    ((tl.tag g).state = .eve → (tl.noticeConfirm g).tag g = .free ∧ (∀ l ∈ tl.tagLines g, (tl.noticeConfirm g).eveBit l = false)
        ∧ (∀ l, l ∉ tl.tagLines g → (tl.noticeConfirm g).eveBit l = tl.eveBit l) ∧ (tl.noticeConfirm g).mem = tl.mem
        ∧ ∀ e x, e < 16 → tl.range e = some x → (tl.noticeConfirm g).range e = some (if bitAt x.mask g then { x with mask := x.mask - 2 ^ g } else x))
    ∧ ((tl.tag g).state = .eve → (tl.noticeFail g).tag g = { tl.tag g with state := .failed } ∧ (tl.noticeFail g).mem = tl.mem ∧ (tl.noticeFail g).eve = tl.eve
        ∧ ∀ e x, e < 16 → tl.range e = some x → (tl.noticeFail g).range e = some (if bitAt x.mask g then { x with failed := true } else x))
    ∧ ((tl.tag g).state = .failed → ((tl.noticeLeap g).tag g = .free ∧ (tl.noticeLeap g).mem = tl.mem) ∧ ((tl.noticeDead g).tag g = .free ∧ (tl.noticeDead g).mem = tl.mem)
        ∧ (tl.noticeDead g).get rTlEveDead = (tl.get rTlEveDead + 1) % 2 ^ 32))

/-- R250, R251: a closed range with nothing pending and every command retired resolves: its spans lose their eve bits and its entry is free, or, failed, it joins the
re-executions in the order in which ranges were opened. A re-execution begins: the scalar registers are those of the OPEN, and the queues that the range popped or pushed stand as its OPEN
recorded them.
The model's choice in it: log 1. -/
def Obligations.RangesResolve : Prop := ∀ (s : State) (n t e : Nat) (r : Range), s.tileLive n t = true → (s.atSlot n t).range e = some r →
  let tl := s.atSlot n t
  let order := fun (x : Nat) => ((tl.range x).map (fun r => r.order)).getD 0
  (r.closed = true → r.mask = 0 → r.live = 0 → tl.reexec.contains e = false → tl.again ≠ some e →
    (r.failed = false → Answers (.rangeResolve n t e) s (fun u => TileDoes n t s u (fun tl => (tl.clearSpans r.spans).setRange e none)))
    ∧ (r.failed = true → Answers (.rangeResolve n t e) s (fun u => TileDoes n t s u id ∧ (u.tile n).reexec = tl.joinRedo e tl.reexec)))
  ∧ (∀ before after : List Nat, (∀ x ∈ before, order x ≤ order e) → (∀ x ∈ after, order e < order x) → tl.joinRedo e (before ++ after) = before ++ e :: after)
  ∧ (r.closed = false ∨ r.mask ≠ 0 ∨ r.live ≠ 0 → Answers (.rangeResolve n t e) s (fun u => TileDoes n t s u id ∧ (u.tile n).reexec = tl.reexec))
  ∧ (∀ es, tl.reexec = e :: es → tl.again = none → tl.frozen = false →
    Answers (.reexecution n t) s (fun u => TileDoes n t s u (fun tl => tl.reexecute s.frame.alen t) ∧ (u.tile n).reexec = es
      ∧ (u.tile n).get rTlEveReexec = ((tl.get rTlEveReexec) + 1) % 2 ^ 32 ∧ (u.tile n).mem = tl.mem))
  ∧ (∀ (tl : Tile) (q : Nat) (x : QSnap), q < 64 → r.queues[q]? = some x → x.head < 2 ^ 14 → x.tail < 2 ^ 14 → x.push < 2 ^ 32 → x.pop < 2 ^ 32 →
    let u := tl.restoreQueues r
    (ssetHas r.popped q = true → u.qHead q = x.head ∧ u.qPop q = x.pop) ∧ (ssetHas r.popped q = false → u.qHead q = tl.qHead q ∧ u.qPop q = tl.qPop q)
      ∧ (ssetHas r.pushed q = true → u.qTail q = x.tail ∧ u.qPush q = x.push)
      ∧ (ssetHas r.pushed q = false → u.qTail q = tl.qTail q ∧ u.qPush q = tl.qPush q))

/-- R253, R254, R256 to R258, 01 R27, R39: in its slot a forwarded line leaves the port tile for OUT_PORT, as soon as it has come; a line that is absent ends the forwarding, and the copy is
abandoned. At OUT_PORT the first line begins the copy, which the count of forwarded packets shows, and each further one joins it in its place. A confirmed packet that came late goes on in the
leap window as a new packet, and the frame is unclean. A deadline that passes without CONFIRM or LEAP is counted, once, with the frame's DEADLINE status, also where it is the deadline of an
instance of the frame before.
The model's choices in it: logs 1 and 35. -/
def Obligations.Forwarding : Prop :=
  (∀ (s : State) (p vc k : Nat) (a : ArrEntry) (e : Nat) (r : EntryRun), s.arrival p vc k 2 = some (a, e, r) →
    let n := s.portTile p a
    let entry := fun (u : State) => (u.port p).entry vc k
    let leaves := fun (u : State) (dest : PktDest) (t : Nat) (ls : List Line) => u.pktCtr = s.pktCtr + 1 ∧ u.tiles = s.tiles ∧ u.hbm = s.hbm
      ∧ u.pkts = s.pkts ++ [⟨s.pktCtr, .port, n, s.meshRoute n (orMesh e), orDvt e, dest, ls.length, lineMap ls, t, 0, none, []⟩]
    (∀ j t, a.slots[j]? = some t → j < a.len → s.slotOpen t = true →
      (∀ v, r.fwd = j → r.broken = false → ((s.port p).serving vc k).bind (fun x => x.line j) = some v →
        Answers (.forwardLine p vc k j) s (fun u => leaves u (.fwd p vc k j) t [v] ∧ entry u = { r with fwd := j + 1 }))
      ∧ (r.fwd = j → r.broken = false → ((s.port p).serving vc k).bind (fun x => x.line j) = none →
        Answers (.forwardLine p vc k j) s (fun u => u.tiles = s.tiles ∧ u.hbm = s.hbm ∧ u.pkts = s.pkts ∧ (entry u).broken = true ∧ (entry u).fwd = j + 1
          ∧ ∀ h id x, r.hdr = some h → r.out = some id → let o := orOut (s.optRoute (hdrRoute h))
              ((s.port o).chan vc).replay.find? (fun x => x.id == id) = some x → x.abandoned = false →
              u.get (rAbandonTx o) = (s.get (rAbandonTx o) + 1) % 2 ^ 32 ∧ (u.port o).lcOut = (s.port o).lcOut ++ [lcAbandon vc x.seq])))
    ∧ (∀ x, (s.port p).confirmed vc k = some x → r.forwarded = false → x.leap = true ∨ r.broken = true → s.slotOpen a.leap = true →
      let h := setBitsAt (setBitsAt x.header 96 16 0) 0 16 0
      Answers (.storeAndForward p vc k) s (fun u => entry u = { r with forwarded := true }
        ∧ leaves u (.port (orOut e) h true) a.leap ((List.range (hdrLen h)).map (fun i => (x.line i).getD .void))
        ∧ u.get (rFwd (orOut e)) = (s.get (rFwd (orOut e)) + 1) % 2 ^ 32 ∧ u.frame.bits = s.frame.bits ||| 2 ^ 24
        ∧ ∀ y ∈ ((u.port p).chan vc).held, y.entry ≠ some k)))
  ∧ (∀ (s : State) (p vc k j : Nat) (v : LineBits) (poison : Bool),
    let r := (s.port p).entry vc k
    let u := s.forwardLine p vc k j v poison
    (∀ h, r.hdr = some h → r.out = none → r.broken = false → j = 0 →
      let o := orOut (s.optRoute (hdrRoute h))
      let c := bitsAt h 119 1
      u.get (rFwd o) = (s.get (rFwd o) + 1) % 2 ^ 32 ∧ ((u.port p).entry vc k).out = some s.pktCtr
        ∧ ∃ x, ((u.port o).chan c).egress = ((s.port o).chan c).egress ++ [x] ∧ x.id = s.pktCtr ∧ x.lines = [v] ∧ x.marks = (if poison then [0] else [])
          ∧ x.abandoned = false ∧ x.leap = false ∧ hdrRoute x.header = hdrRoute h)
    ∧ (∀ h id, r.hdr = some h → r.out = some id →
      let o := orOut (s.optRoute (hdrRoute h))
      ((u.port o).chan vc).egress = ((s.port o).chan vc).egress.map (fun x => if x.id = id ∧ x.lines.length = j ∧ x.abandoned = false then
        { x with lines := x.lines ++ [v], marks := x.marks ++ if poison then [j] else [] } else x)
      ∧ ((u.port o).chan vc).replay = ((s.port o).chan vc).replay.map (fun x => if x.id = id ∧ x.lines.length = j ∧ x.abandoned = false then
        { x with lines := x.lines ++ [v], marks := x.marks ++ if poison then [j] else [] } else x)))
  ∧ (∀ (s : State) (p vc k : Nat), p < 16 → vc < 2 → s.frame.running = true →
    let counted := fun (u : State) => u.get (rDeadline p) = (s.get (rDeadline p) + 1) % 2 ^ 32 ∧ u.bit (rPeerStatus p) 22 = true ∧ bitAt u.frame.bits 28 = true
      ∧ u.tiles = s.tiles ∧ u.hbm = s.hbm
    let past := fun (q : Port) => smapGet (fun _ => EntryRun.fresh) q.past (2 * k + vc)
    let missedBefore := fun (a : ArrEntry) (w : PastFrame) => (s.arrivalsWas p vc)[k]? = some a ∧ s.frame.was = some w ∧ s.missed a (past (s.port p)) w.tickAt = true
    let missedNow := fun (a : ArrEntry) => (s.arrivals p vc)[k]? = some a ∧ s.missed a ((s.port p).entry vc k) s.frame.tickAt.toNat = true
    (∀ a w, missedBefore a w → Answers (.deadlineFault p vc k) s (fun u => counted u ∧ (past (u.port p)).late = true))
    ∧ (∀ a, (∀ b w, ¬ missedBefore b w) → missedNow a → Answers (.deadlineFault p vc k) s (fun u => counted u ∧ ((u.port p).entry vc k).late = true))
    ∧ ((∀ b w, ¬ missedBefore b w) → (∀ a, ¬ missedNow a) → Answers (.deadlineFault p vc k) s (fun u => u = s)))
  ∧ (∀ (s : State) (a : ArrEntry) (r : EntryRun) (tick : Nat), orRole (s.optRoute a.route) = 3 →
    (s.missed a r tick = true ↔ r.late = false ∧ r.notice ≠ .confirm ∧ r.notice ≠ .leap ∧ tick + a.deadline ≤ s.clock))

/-! Time, clocks and steps (10). -/

/-- R268 with Table 10-3: the outcome of a step request stands in TM_STEP_RESULT, the first condition that holds deciding; an accepted request is pending with its
target frame, and no other changes anything. -/
def Obligations.StepRequestOutcome : Prop := ∀ (s : State) (a : Agent) (val : W32), isPf0OrFw a = true → bitAt val.toNat 31 = true →
  let k := bitsAt val.toNat 0 3
  let f := s.get64 rStepTarget
  let run := s.planRuns
  let st := if s.selftest = true then 2
    else if 5 ≤ k ∨ s.field rTmStatus 16 3 < k then 4
    else if run = true ∧ k < s.field rTmStatus 19 3 then 4
    else if run = true ∧ s.pastCommit f = true then 3
    else if run = true ∧ s.step_ < k ∧ s.tickOf f < (s.clock : Int) + 100000 then 3
    else if s.time.step.isSome = true then 1 else 0
  Answers (.stepRequest a val) s (fun u => u.field rStepResult 28 4 = st ∧ u.field rStepResult 24 3 = k ∧ u.bit rStepResult 23 = u.time.step.isSome
    ∧ (st = 0 → u.time.step = some ⟨k, BitVec.ofNat 64 f, s.now, run⟩) ∧ (st ≠ 0 → u.time = s.time) ∧ u.tiles = s.tiles ∧ u.hbm = s.hbm
    ∧ ∀ off, off ≠ rStepResult → u.get off = s.get off)

/-- R267, R272 to R274: without a plan an accepted change takes the step. A reading below WARN begins one episode, counted and recorded, which 1 ms with every region at or above
WARN ends; one below CRIT is recorded, withdraws the pending change and stops a running plan. Before calibration readings count for nothing. While no frame runs WORST is the least reading of the
last 10 µs.
The model's choice in it: log 1. -/
def Obligations.StepsAndMargins : Prop := ∀ (s : State) (r m : Nat), m < 256 →
  (∀ p, s.time.step = some p → p.withPlan = false → s.planRuns = false →
    Answers .stepChange s (fun u => u.step_ = p.step % 8 ∧ u.get rStepChange = (s.get rStepChange + 1) % 2 ^ 32 ∧ u.time.step = none ∧ u.bit rStepResult 23 = false
      ∧ u.tiles = s.tiles ∧ u.hbm = s.hbm))
  ∧ (s.time.step = none → Answers .stepChange s (fun u => u = s))
  ∧ (∀ a val, isPf0OrFw a = false →
    Answers (.stepRequest a val) s (fun u => u.time = s.time ∧ u.get rRwlIgnored = (s.get rRwlIgnored + 1) % 2 ^ 32 ∧ u.get rStepResult = s.get rStepResult))
  ∧ (s.marginOn r = false → Answers (.marginWarning r m) s (fun u => u = s) ∧ Answers (.marginCritical r m) s (fun u => u = s))
  ∧ (s.marginOn r = true →
    (s.field rMarginWarn 0 8 ≤ m → Answers (.marginWarning r m) s (fun u => u.field (rMargin r) 0 8 = m ∧ u.bit (rMargin r) 31 = true
        ∧ u.time.warning = s.time.warning ∧ u.fl = s.fl ∧ (∀ off, off ≠ rMargin r → u.get off = s.get off)
        ∧ u.field (rMargin r) 8 8 = (if s.frame.running then s.field (rMargin r) 8 8
            else (s.marginPast r).foldl (fun a x => if x.2 < a then x.2 else a) m)))
    ∧ (m < s.field rMarginWarn 0 8 → Answers (.marginWarning r m) s (fun u => u.field (rMargin r) 0 8 = m ∧ u.bit (rMargin r) 31 = true
        ∧ u.time.warning = true ∧ u.time.okSince = none ∧ u.tiles = s.tiles ∧ u.hbm = s.hbm
        ∧ (s.time.warning = true → u.get rWarnCnt = s.get rWarnCnt ∧ u.fl = s.fl)
        ∧ (s.time.warning = false → u.get rWarnCnt = (s.get rWarnCnt + 1) % 2 ^ 32 ∧ u.bit rTmStatus 14 = true ∧ Recorded s u 0x0503 (uRegion * 4096 + r) m)))
    ∧ (m < s.field rMarginCrit 0 8 → Answers (.marginCritical r m) s (fun u => u.field (rMargin r) 0 8 = m ∧ u.bit rTmStatus 13 = true
        ∧ Recorded s u 0x0504 (uRegion * 4096 + r) m ∧ u.tiles = s.tiles ∧ u.hbm = s.hbm
        ∧ (s.planRuns = true → u.time.step = none ∧ u.bit rStepResult 23 = false ∧ u.frame.causes = 5 :: s.frame.causes)))
    ∧ (s.field rMarginCrit 0 8 ≤ m → Answers (.marginCritical r m) s (fun u => u.fl = s.fl ∧ u.frame = s.frame ∧ u.time.step = s.time.step)))
  ∧ (∀ t, s.time.okSince = some t → s.time.warning = true →
    (t + 1000000 ≤ s.now → Answers .marginWarnEpisodeEnd s (fun u => u = { s with time := { s.time with warning := false } }))
    ∧ (s.now < t + 1000000 → Answers .marginWarnEpisodeEnd s (fun u => u = s)))

/-- R277, R279 to R281, R283, R290: copies of the counter that differ make it unset, count and record a time-counter fault and stop a running plan, as does a holdover that lasts too long. A
lost reference falls back to the secondary port's recovered clock, if there is one, to the oscillator, or to holdover; the primary one returns on recovery and on lock. The wall-clock offset is
valid while the client is synchronised and the counter is set, and no port's delay is valid while it is not.
The model's choices in it: logs 1, 38 and 40. -/
def Obligations.TimeCounter : Prop := ∀ s : State,
  let unset := fun (u : State) (detail : Nat) => u.counterState = 0 ∧ u.clock = 2 ^ 64 - 1 ∧ u.bit rTmStatus 15 = true
    ∧ u.get rDupMismatch = (s.get rDupMismatch + 1) % 2 ^ 32 ∧ u.time.twin = u.time.counter ∧ u.tiles = s.tiles ∧ u.hbm = s.hbm
    ∧ (s.time.twinInj = false → Recorded s u 0x0501 0 detail) ∧ u.frame.causes = (if s.planRuns then 6 :: s.frame.causes else s.frame.causes)
  (s.time.counter ≠ s.time.twin → Answers .counterCompare s (fun u => unset u 0))
  ∧ (s.time.counter = s.time.twin → Answers .counterCompare s (fun u => u = s))
  ∧ (∀ t, s.time.holdSince = some t → s.bit rTmStatus 28 = true →
    (t + 1000 * s.field rHoldover 0 24 ≤ s.now → Answers .holdoverLimit s (fun u => unset u 1))
    ∧ (s.now < t + 1000 * s.field rHoldover 0 24 → Answers .holdoverLimit s (fun u => u = s)))
  ∧ (s.bit rTmStatus 29 = true → s.bit rTmStatus 28 = false → s.refNow ≠ 0 →
    Answers .referenceLoss s (fun u => u.bit rTmStatus 12 = true ∧ Recorded s u 0x0502 0 s.refNow ∧ u.tiles = s.tiles ∧ u.time.counter = s.time.counter
      ∧ (let other := s.refSecondary = 2 ∧ 12 ≤ (fibresOf (s.port (s.field rTmRef 20 4)).clock).length
        (s.refNow ≠ 3 → other → u.refNow = 3 ∧ u.bit rTmStatus 28 = false)
        ∧ (s.refNow = 1 → ¬ other → u.refNow = 0 ∧ u.bit rTmStatus 28 = false)
        ∧ (s.refNow = 3 ∨ (s.refNow = 2 ∧ ¬ other) → u.bit rTmStatus 28 = true ∧ u.bit rTmStatus 29 = false ∧ u.time.holdSince = some s.now))))
  ∧ (s.bit rTmStatus 29 = false ∨ s.bit rTmStatus 28 = true ∨ s.refNow = 0 → Answers .referenceLoss s (fun u => u = s))
  ∧ (bitAt s.time.refLost 0 = true → Answers .referenceRecovery s (fun u => u.refNow = s.refPrimary ∧ u.bit rTmStatus 28 = false ∧ u.bit rTmStatus 29 = true ∧ u.time.holdSince = none
      ∧ u.time.refLost = 0 ∧ ∀ off, off ≠ rTmStatus → u.get off = s.get off))
  ∧ (bitAt s.time.refLost 0 = false → Answers .referenceRecovery s (fun u => u = s))
  ∧ (s.bit rMgStatus 21 = true → (s.refPrimary = 2 → 12 ≤ (fibresOf (s.port (s.field rTmRef 26 4)).clock).length) →
    Answers .timePllLock s (fun u => u.bit rTmStatus 29 = true ∧ u.refNow = s.refPrimary ∧ u.bit rTmStatus 28 = false
      ∧ ∀ off, off ≠ rTmStatus → u.get off = s.get off))
  ∧ (s.bit rMgStatus 21 = false ∨ (s.refPrimary = 2 ∧ (fibresOf (s.port (s.field rTmRef 26 4)).clock).length < 12) → Answers .timePllLock s (fun u => u = s))
  ∧ (∀ off : W64, s.fwUp = true → Answers (.ptpSync off) s (fun u => u.get64 rWallOffset = off.toNat ∧ u.bit rTmStatus 9 = decide (s.counterState = 2)
      ∧ u.time = { s.time with ptp := true } ∧ u.tiles = s.tiles))
  ∧ (∀ k p, k < 3 → p < 16 → let u := s.setCounterState k
    u.counterState = k ∧ u.bit rTmStatus 9 = (s.time.ptp && k == 2) ∧ (k ≠ 2 → u.bit (rPortDelay p) 31 = false) ∧ u.time = s.time)

/-- R281, R285 to R287: Equinox. A root sets its counter to TM_EQX_START at once, or at the next 1PPS edge where it is asked to wait for one; another device enters trial, and after 256
exchanges steps its counter by the mean offset and is set. An edge that does not come for 1.5 s, or a trial of more than 100 ms, leaves the counter unset with STATUS FAULT. It is
turned away while a plan runs or the time PLL is not locked.
The model's choices in it: logs 1 and 39. -/
def Obligations.Equinox : Prop := ∀ s : State,
  let fail := fun (u : State) (detail : Nat) => u.counterState = 0 ∧ u.bit rTmStatus 11 = true ∧ u.field rEqxStatus 28 4 = 7 ∧ u.field rEqxStatus 26 2 = 0
    ∧ u.time.eqxSince = none ∧ u.time.eqxPps = false ∧ Recorded s u 0x0506 0 detail ∧ u.tiles = s.tiles
  let isSet := fun (u : State) => u.counterState = 2 ∧ u.time.counter = BitVec.ofNat 64 (s.get64 rEqxStart) ∧ u.time.twin = u.time.counter
    ∧ u.field rEqxStatus 28 4 = 0 ∧ u.field rEqxStatus 26 2 = 3 ∧ u.tiles = s.tiles
  (∀ (a : Agent) (val : W32), isPf0OrFw a = true → bitAt val.toNat 31 = true →
    (s.selftest = true → Answers (.equinoxStart a val) s (fun u => u.field rEqxStatus 28 4 = 2 ∧ u.time = s.time ∧ u.counterState = s.counterState))
    ∧ (s.selftest = false → s.planRuns = true ∨ s.bit rTmStatus 29 = false →
        Answers (.equinoxStart a val) s (fun u => u.field rEqxStatus 28 4 = 4 ∧ u.time = s.time ∧ u.counterState = s.counterState))
    ∧ (s.selftest = false → s.planRuns = false → s.bit rTmStatus 29 = true →
        (s.eqxRoot = true → s.bit rTmRef 19 = false → Answers (.equinoxStart a val) s isSet)
        ∧ (s.eqxRoot = true → s.bit rTmRef 19 = true → Answers (.equinoxStart a val) s (fun u => u.time.eqxPps = true ∧ u.time.eqxSince = some s.now
            ∧ u.field rEqxStatus 28 4 = 0 ∧ u.field rEqxStatus 26 2 = 1 ∧ u.counterState = s.counterState))
        ∧ (s.eqxRoot = false → Answers (.equinoxStart a val) s (fun u => u.counterState = 1 ∧ u.time.twin = u.time.counter ∧ u.time.eqxSum = 0
            ∧ u.time.eqxSince = some s.now ∧ u.field rEqxStatus 28 4 = 0 ∧ u.field rEqxStatus 26 2 = 1 ∧ u.field rEqxStatus 0 9 = 0
            ∧ ∀ p, p < 16 → (u.port p).exch = [] ∧ u.get (rPortDelay p) = 0))))
  ∧ Answers .ppsEdge s (fun u => u.get64 rPpsCapture = s.clock ∧ u.bit rTmStatus 8 = true ∧ u.time.ppsAt = some s.now
      ∧ (s.time.eqxPps = true → isSet u) ∧ (s.time.eqxPps = false → u.counterState = s.counterState ∧ u.time.counter = s.time.counter))
  ∧ (s.time.eqxPps = true → s.eqxOver 1500000000 = true → Answers .equinoxPpsTimeout s (fun u => fail u 1))
  ∧ (s.time.eqxPps = false ∨ s.eqxOver 1500000000 = false → Answers .equinoxPpsTimeout s (fun u => u = s))
  ∧ (s.counterState = 1 → s.eqxOver 100000000 = true → Answers .equinoxTrialTimeout s (fun u => fail u 2))
  ∧ (s.counterState ≠ 1 ∨ s.eqxOver 100000000 = false → Answers .equinoxTrialTimeout s (fun u => u = s))
  ∧ (s.counterState = 1 → s.field rEqxStatus 0 9 = 256 →
      let theta := nearest s.time.eqxSum 256
      let v := ((s.time.counter.toNat : Int) * 64 + s.time.phase - theta) % 2 ^ 70
      Answers .equinoxCorrection s (fun u => u.counterState = 2 ∧ u.time.counter = BitVec.ofNat 64 (v.toNat / 64) ∧ u.time.twin = u.time.counter
        ∧ u.time.phase = v.toNat % 64 ∧ u.get64 rEqxOffset = (theta % 2 ^ 64).toNat ∧ u.field rEqxStatus 28 4 = 0 ∧ u.field rEqxStatus 26 2 = 3 ∧ u.tiles = s.tiles))
  ∧ (s.counterState ≠ 1 ∨ s.field rEqxStatus 0 9 ≠ 256 → Answers .equinoxCorrection s (fun u => u = s))

/-- R282 to R284, R216, R230: a port in UP sends one marker for each multiple of the period, framed in the next free position with the counter as its flit crosses the connector plane and the echo of
the last marker received; a marker received with a good CRC-16 whose echo names one sent gives an exchange of R283's delay and offset, whose means stand in the port's registers and set its
replay timeout while no plan runs, and an offset beyond 28 ns is recorded once an episode.
The model's choices in it: logs 1 and 37. -/
def Obligations.CalendsMarkers : Prop := ∀ (s : State) (p : Nat), p < 16 →
  let q := s.port p
  let may := s.counterState == 2 || (s.counterState == 1 && s.upstream p && s.field rEqxStatus 26 2 == 2)
  let sent := ∃ m, q.marks.head? = some m ∧ (m.t3.toNat - 10) / s.calPeriod = s.clock / s.calPeriod
  (may = false ∨ s.train p ≠ trUp ∨ sent → Answers (.calendsMarkerSend p) s (fun u => u = s))
  ∧ (may = true → s.train p = trUp → ¬ sent → Answers (.calendsMarkerSend p) s (fun u => u.port p = { q with calAsk := true } ∧ (∀ r, r ≠ p → u.port r = s.port r)
      ∧ u.regs = s.regs ∧ u.tiles = s.tiles ∧ u.hbm = s.hbm))
  ∧ (let now := if s.counterState = 0 then 2 ^ 64 - 1 else s.clock + 10
    let tx := (q.lastTx.map (fun x => x.toNat)).getD (2 ^ 64 - 1)
    let rx := if q.lastTx.isSome then q.lastRx.toNat else 2 ^ 64 - 1
    let bs := bigBytes 8 now ++ bigBytes 2 q.cseq ++ bigBytes 8 tx ++ bigBytes 8 rx ++ List.replicate 36 0
    let u := (s.calNext p).1
    (s.calNext p).2 = ⟨3, bytesLine (bs ++ bigBytes 2 (crc16 bs))⟩ ∧ (u.port p).cseq = (q.cseq + 1) % 65536 ∧ (u.port p).calAsk = false ∧ u.regs = s.regs
      ∧ (u.port p).marks = ⟨BitVec.ofNat 64 now, BitVec.ofNat 64 tx, BitVec.ofNat 64 (if q.stale then 2 ^ 64 - 1 else rx)⟩ :: q.marks.take 15)
  ∧ (q.calIn = [] → Answers (.calendsMarker p) s (fun u => u = s))
  ∧ (∀ flit at_ rest, q.calIn = (flit, at_) :: rest → crc16 ((lineBytes flit).take 62) ≠ bigNum ((lineBytes flit).drop 62) →
    Answers (.calendsMarker p) s (fun u => (u.port p).calIn = rest ∧ (u.port p).exch = q.exch ∧ u.get (rHdrErr p) = (s.get (rHdrErr p) + 1) % 2 ^ 32
      ∧ u.bit (rLkStatus p) 30 = true ∧ u.get (rPortDelay p) = s.get (rPortDelay p)))
  ∧ (∀ flit at_ rest, q.calIn = (flit, at_) :: rest → crc16 ((lineBytes flit).take 62) = bigNum ((lineBytes flit).drop 62) →
    let tx := bigNum ((lineBytes flit).take 8)
    let echoTx := bigNum (((lineBytes flit).drop 10).take 8)
    let t4 := bigNum (((lineBytes flit).drop 18).take 8)
    Answers (.calendsMarker p) s (fun u => (u.port p).calIn = rest ∧ (u.port p).lastRx = at_ ∧ u.tiles = s.tiles ∧ u.counterState = s.counterState
      ∧ (u.port p).lastTx = some (BitVec.ofNat 64 tx) ∧ (u.port p).stale = false
      ∧ (s.counterState = 1 → s.upstream p = true → s.field rEqxStatus 26 2 = 1 → u.field rEqxStatus 26 2 = 2)
      ∧ (∀ m, q.marks.find? (fun m => m.t3.toNat == echoTx) = some m → m.t1.toNat ≠ 2 ^ 64 - 1 → m.t2.toNat ≠ 2 ^ 64 - 1 → t4 ≠ 2 ^ 64 - 1 →
          let t1 : Int := m.t1.toNat
          let t2 : Int := m.t2.toNat
          let t3 : Int := m.t3.toNat
          let d := (nearest (32 * (u.port p).exch.foldl (fun (a : Int) (e : Int × Int) => a + e.1) 0) (u.port p).exch.length % 2 ^ 24).toNat
          let valid := s.counterState == 2 && tx != 2 ^ 64 - 1
          (u.port p).exch = ((((t4 : Int) - t1) - (t3 - t2), (t2 - t1) - ((t4 : Int) - t3)) :: q.exch).take 256
            ∧ u.bit (rPortDelay p) 31 = valid ∧ u.field (rPortDelay p) 0 24 = d
            ∧ u.get (rPortOffset p) = (nearest (32 * (u.port p).exch.foldl (fun (a : Int) (e : Int × Int) => a + e.2) 0) (u.port p).exch.length % 2 ^ 32).toNat
            ∧ (s.fwUp = true → s.planRuns = false → valid = true → u.field (rReplayTimeout p) 0 16 = ((2 * d + 63) / 64 + 240) % 65536))
      ∧ (q.marks.find? (fun m => m.t3.toNat == echoTx) = none → (u.port p).exch = q.exch)
      ∧ (s.counterState = 2 → (u.port p).exch ≠ [] → let o := signedAt (u.get (rPortOffset p)) 32
          (o.natAbs ≤ 1792 → (u.port p).offEpisode = false)
          ∧ (1792 < o.natAbs → (u.port p).offEpisode = true ∧ (q.offEpisode = false → u.bit rTmStatus 10 = true
              ∧ Recorded s u 0x0505 (uPort * 4096 + p) (p + (o % 2 ^ 24).toNat * 2 ^ 8))))))

/-! The loader (12). -/

/-- R316, R318, R319, 00 R13: a load or a verification that fails a check is answered with its status and reason and changes no plan; during self-test a load is held. A load that passes
is LOADING with the plan's identity, period and actions in force, its ports disabled, and its tiles' barriers, scalar registers and tags clear; its completion records the
digest, enables the used ports and is LOADED, or, with a device fault, leaves the device EMPTY and answers FAULT.
The model's choices in it: logs 8, 9, 10 and 11. -/
def Obligations.LoadRequests : Prop := ∀ (s : State) (r : Req),
  let ws := s.reqWords r
  let img := stagingOf ws
  let same := fun (u : State) => u.loader = s.loader ∧ u.tiles = s.tiles ∧ u.hbm = s.hbm ∧ u.planState = s.planState ∧ u.get64 rPlanId = s.get64 rPlanId
  (∀ c reuse, (c, reuse) ∈ [(Instr.plLoad r, false), (.plLoadReuse r, true)] → s.serves r 0x20 = true → reuseBit ws = reuse →
    (∀ st why, s.loadGate r ws false = some (st, why) → why < 2 ^ 16 → Answers c s (fun u => same u ∧ LoaderAnswered s u r 0x20 st why 0))
    ∧ (s.loadGate r ws false = none → s.selftest = true → s.loader.held = none →
        Answers c s (fun u => u.loader = { s.loader with held := some r } ∧ u.tiles = s.tiles ∧ u.hbm = s.hbm ∧ u.regs = s.regs))
    ∧ (s.loadGate r ws false = none → s.selftest = true → s.loader.held ≠ none → Answers c s (fun u => same u ∧ LoaderAnswered s u r 0x20 1 0 0))
    ∧ (∀ s' why at_, s.loadGate r ws false = none → s.selftest = false → s.checkImage img.1 img.2 reuse = (s', .bad why at_) → why < 2 ^ 16 →
        Answers c s (fun u => same u ∧ LoaderAnswered s u r 0x20 4 why at_))
    ∧ (∀ s' p dg, s.loadGate r ws false = none → s.selftest = false → s.checkImage img.1 img.2 reuse = (s', .ok p dg) →
        (∀ x ∈ p.sync.records, x.1 < 32768) →
        Answers c s (fun u => u.planState = psLoading ∧ u.loader.plan = some p ∧ u.loader.loading = some ⟨r, bitAt (word ws 0) 0, dg⟩
          ∧ u.loader.actions = p.actions ∧ u.get64 rPlanId = p.head.planId % 2 ^ 64 ∧ u.get rRank = p.head.rank % 2 ^ 32 ∧ u.get rPeriod = p.head.period % 2 ^ 32
          ∧ u.sync.hung = [] ∧ u.sync.xlate = p.xlateMap ∧ (∀ i, i < 16 → u.train i = trDisabled)
          ∧ ∀ n, s.enabled n = true → (u.tile n).sregs = [] ∧ (u.tile n).tags = [] ∧ (u.tile n).frozen = false ∧ ∀ b, b < 16 → (u.tile n).barrier b = 0)))
  ∧ (∀ l p, s.loader.loading = some l → s.loader.plan = some p → (∀ c, l.req = .chan c → c < 8) →
    Answers (.loadCompletion false) s (fun u => u.planState = psLoaded ∧ u.loader = { s.loader with loading := none, digest := some l.digest }
      ∧ u.bit rPlState 28 = l.debug ∧ u.bit rPlState 27 = p.signed ∧ (∀ i ∈ s.usedPorts, u.bit (rLkCtrl i) 31 = true) ∧ u.tiles = s.tiles ∧ u.hbm = s.hbm
      ∧ LoaderAnswered s u l.req 0x20 0 0 0)
    ∧ Answers (.loadCompletion true) s (fun u => u.planState = psEmpty ∧ u.loader.plan = none ∧ u.loader.loading = none ∧ u.tiles = s.tiles ∧ u.hbm = s.hbm
      ∧ (∃ step, 3 ≤ step ∧ step ≤ 7 ∧ Recorded s u 0x0702 0 step) ∧ LoaderAnswered s u l.req 0x20 7 0 0))
  ∧ (s.loader.loading = none → ∀ fault, Answers (.loadCompletion fault) s (fun u => u = s))
  ∧ (s.serves r 0x21 = true → s.selftest = false →
    (∀ st why, s.loadGate r ws true = some (st, why) → why < 2 ^ 16 → Answers (.plVerify r) s (fun u => same u ∧ LoaderAnswered s u r 0x21 st why 0))
    ∧ (∀ s' why at_, s.loadGate r ws true = none → s.checkImage img.1 img.2 false = (s', .bad why at_) → why < 2 ^ 16 →
        Answers (.plVerify r) s (fun u => same u ∧ LoaderAnswered s u r 0x21 4 why at_))
    ∧ (∀ s' p dg, s.loadGate r ws true = none → s.checkImage img.1 img.2 false = (s', .ok p dg) →
        Answers (.plVerify r) s (fun u => same u ∧ LoaderAnswered s u r 0x21 0 0 0)))
  ∧ (s.serves r 0x21 = true → s.selftest = true → Answers (.plVerify r) s (fun u => same u ∧ u.get rLoadResult = 2 * 2 ^ 28 + 0x21 * 2 ^ 16
      ∧ Replied s u r 2 [s.remaining]))
  ∧ (∀ h, s.loader.held = some h → s.selftest = false → s.bit rMgStatus 24 = true →
    Answers .heldLoadBegin s (fun u => ∃ s' : State, s'.loader = { s.loader with held := none } ∧ s'.regs = s.regs ∧ s'.hbm = s.hbm ∧ s'.tiles = s.tiles
      ∧ s'.reqWords h = s.reqWords h ∧ u = s'.load h (s.reqWords h) (reuseBit (s.reqWords h))))
  ∧ (s.loader.held = none ∨ s.selftest = true → Answers .heldLoadBegin s (fun u => u = s))

/-- R320, R321, R323: PL_ARM is answered by the first condition of its gate that fails, and an accepted one is ARMED at T0 with the floor step in force; PL_STOP stops a running plan
at a coming tick, and takes an armed one back to LOADED while the guard time before T0 has not begun; PL_UNLOAD leaves the device EMPTY, on its own oscillator.
The model's choices in it: logs 12 and 76. -/
def Obligations.ArmStopUnload : Prop := ∀ (s : State) (r : Req), s.selftest = false →
  let ws := s.reqWords r
  (∀ st why at_, s.serves r 0x22 = true → s.armGate r ws = (st, why, at_) → st ≠ 0 →
    Answers (.plArm r) s (fun u => LoaderAnswered s u r 0x22 st why at_ ∧ u.planState = s.planState ∧ u.loader = s.loader ∧ u.get64 rT0 = s.get64 rT0
      ∧ u.tiles = s.tiles ∧ u.hbm = s.hbm))
  ∧ (∀ why at_ p, s.serves r 0x22 = true → s.armGate r ws = (0, why, at_) → s.loader.plan = some p →
    Answers (.plArm r) s (fun u => LoaderAnswered s u r 0x22 0 0 0 ∧ u.planState = psArmed ∧ u.loader = s.loader ∧ u.get64 rT0 = word ws 1 + 2 ^ 32 * word ws 2
      ∧ u.step_ = p.head.floor % 8 ∧ u.field rTmStatus 19 3 = p.head.floor % 8 ∧ u.bit rPlState 23 = bitAt (word ws 0) 0
      ∧ u.time.step = none ∧ u.bit rStepResult 23 = false ∧ u.tiles = s.tiles ∧ u.hbm = s.hbm))
  ∧ (s.serves r 0x23 = true → [0x00, 0x10, 0x11].contains (s.reqSender r) = true → onlyBits (word ws 0) 0xFF000000 = true → zeroFrom ws 1 = true →
    (s.planState = psLoading → Answers (.plStop r) s (fun u => LoaderAnswered s u r 0x23 1 0 0 ∧ u.planState = psLoading ∧ u.loader = s.loader))
    ∧ (s.planState = psRunning → Answers (.plStop r) s (fun u => LoaderAnswered s u r 0x23 0 0 0 ∧ u.planState = psRunning ∧ u.loader = s.loader
        ∧ ∃ k, u.frame.stopAt = some k ∧ k ≤ s.frameNo + (if s.pastCommit (s.frameNo + 1) then 2 else 1)
          ∧ (s.frame.stopAt = none → k = s.frameNo + (if s.pastCommit (s.frameNo + 1) then 2 else 1))))
    ∧ (s.planState = psArmed → s.shadow = [] → s.counterState = 2 → (s.clock : Int) < s.tickOf 0 - s.get rGuard →
        Answers (.plStop r) s (fun u => LoaderAnswered s u r 0x23 0 0 0 ∧ u.planState = psLoaded ∧ u.loader = s.loader ∧ u.frame.stopAt = none))
    ∧ (s.planState ≠ psLoading → s.planState ≠ psRunning → s.planState ≠ psArmed →
        Answers (.plStop r) s (fun u => LoaderAnswered s u r 0x23 0 0 0 ∧ u.planState = s.planState ∧ u.loader = s.loader ∧ u.frame = s.frame)))
  ∧ (s.serves r 0x23 = true → [0x00, 0x10, 0x11].contains (s.reqSender r) = false →
    Answers (.plStop r) s (fun u => LoaderAnswered s u r 0x23 4 rsSender 0 ∧ u.planState = s.planState ∧ u.frame = s.frame))
  ∧ (∀ st why, s.serves r 0x24 = true → s.plainGate r ws = (st, why) → st ≠ 0 →
    Answers (.plUnload r) s (fun u => LoaderAnswered s u r 0x24 st why 0 ∧ u.planState = s.planState ∧ u.loader = s.loader ∧ u.tiles = s.tiles))
  ∧ (∀ why, s.serves r 0x24 = true → s.plainGate r ws = (0, why) →
    Answers (.plUnload r) s (fun u => LoaderAnswered s u r 0x24 0 0 0 ∧ u.planState = psEmpty ∧ u.loader.plan = none ∧ u.loader.digest = none ∧ u.get64 rPlanId = 0
      ∧ u.get rRank = 0 ∧ u.sync.xlate = [] ∧ u.get rTmRef = 0 ∧ (s.get rTmRef ≠ 0 → u.refNow = 0 ∧ u.bit rTmStatus 28 = false)
      ∧ (∀ i, i < 16 → u.train i = trDisabled) ∧ (∀ n, s.enabled n = true → (u.tile n).routes = [] ∧ (u.tile n).mem = (s.tile n).mem)
      ∧ ∀ c x w, c < 8 → x < 64 → w < 8 → u.bit (rWinBase c x w) 31 = false ∧ u.bit (rWinBase c x w) 30 = false))

/-- R325, R327: an action is accepted into the list, in posting order, if its sender may post it, a plan is armed or running, its words are well formed, it is in time and fewer than 256
wait; a late one is counted; self-test turns the loader's requests but for loads away. An intercalary request is accepted with a plan armed or running, in time, with no other waiting; it is read back until its frames are over. -/
def Obligations.ActionsAndIntercalary : Prop := ∀ s : State,
  (∀ (r : Req) c op, (c, op) ∈ [(Instr.plArm r, 0x22), (.plStop r, 0x23), (.plUnload r, 0x24), (.plAction r, 0x25)] → s.serves r op = true → s.selftest = true →
    Answers c s (fun u => u.get rLoadResult = 2 * 2 ^ 28 + op * 2 ^ 16 ∧ Replied s u r 2 [s.remaining] ∧ u.loader = s.loader ∧ u.frame = s.frame
      ∧ u.tiles = s.tiles ∧ u.planState = s.planState))
  ∧ (∀ r : Req, s.serves r 0x25 = true → s.selftest = false →
    let ws := s.reqWords r
    let f := word ws 1 + 2 ^ 32 * word ws 2
    let a : Action := ⟨f, ws.getD 3 0, ws.getD 4 0, ws.getD 5 0⟩
    let formed := onlyBits (word ws 0) 0xFF000000 && zeroFrom ws 6 && actionOk (fun c v => (s.xlate c v).isSome) a
    let kept := fun (u : State) => u.loader = s.loader ∧ u.tiles = s.tiles ∧ u.hbm = s.hbm
    (s.actionSender r a = false → Answers (.plAction r) s (fun u => LoaderAnswered s u r 0x25 4 rsSender 0 ∧ kept u))
    ∧ (s.actionSender r a = true → s.planState ≠ psLoading → s.planRuns = false → Answers (.plAction r) s (fun u => LoaderAnswered s u r 0x25 4 rsState 0 ∧ kept u))
    ∧ (s.actionSender r a = true → s.planRuns = true → formed = false → Answers (.plAction r) s (fun u => LoaderAnswered s u r 0x25 4 rsRequest 0 ∧ kept u))
    ∧ (s.actionSender r a = true → s.planRuns = true → formed = true →
        (s.pastHorizon f = true → Answers (.plAction r) s (fun u => LoaderAnswered s u r 0x25 3 0 0 ∧ kept u ∧ u.get rActLate = (s.get rActLate + 1) % 2 ^ 32))
        ∧ (s.pastHorizon f = false → 256 ≤ s.loader.actions.length → Answers (.plAction r) s (fun u => LoaderAnswered s u r 0x25 1 0 0 ∧ kept u))
        ∧ (s.pastHorizon f = false → s.loader.actions.length < 256 → Answers (.plAction r) s (fun u => LoaderAnswered s u r 0x25 0 0 0
            ∧ u.loader = { s.loader with actions := s.loader.actions ++ [a] } ∧ u.tiles = s.tiles ∧ u.hbm = s.hbm))))
  ∧ (∀ (a : Agent) (val : W32), isPf0OrFw a = true → bitAt val.toNat 31 = true →
    let f := s.get64 rIcalFirst
    let n := bitsAt val.toNat 0 16
    let st := if s.selftest = true then 2 else if n = 0 ∨ s.planRuns = false then 4 else if s.pastCommit f = true then 3 else if s.frame.icalRun.isSome = true then 1 else 0
    Answers (.intercalaryRequest a val) s (fun u => u.field rIcalResult 28 4 = st ∧ u.loader = s.loader ∧ u.tiles = s.tiles ∧ u.hbm = s.hbm
      ∧ (st = 0 → u.frame = { s.frame with icalRun := some (f, n) } ∧ u.bit rIcalResult 23 = true ∧ u.field rIcalResult 0 16 = n)
      ∧ (st ≠ 0 → u.frame = s.frame ∧ u.field rIcalResult 0 24 = s.field rIcalResult 0 24) ∧ ∀ off, off ≠ rIcalResult → u.get off = s.get off))
  ∧ (∀ (a : Agent) (val : W32), isPf0OrFw a = true → bitAt val.toNat 31 = false → Answers (.intercalaryRequest a val) s (fun u => u = s))
  ∧ (∀ (a : Agent) (val : W32), isPf0OrFw a = false →
    Answers (.intercalaryRequest a val) s (fun u => u.get rRwlIgnored = (s.get rRwlIgnored + 1) % 2 ^ 32 ∧ u.frame = s.frame ∧ u.get rIcalResult = s.get rIcalResult))

/-! HBM service time, BAR2 and serving (06, 13, 16). -/

/-- R163, R345, R397 to R400: an access of BAR2 waits for service time. Then a write leaves its enabled bytes in lines that the sender may write, a read finds the bytes of lines that it may
read, and its completion goes out; a refused line is counted and answers Unsupported Request, a poisoned one reads 0 and poisons the completion. A write into a closed manifest slot is
dropped and counted. Beyond 4 MiB of write data held, or 1,024 reads, no further one arrives. Service time also moves the fault records that firmware has copied, and runs with nothing
else to do leave HBM alone.
The model's choices in it: logs 1, 41, 43 and 83. -/
def Obligations.HostWindow : Prop := ∀ (s : State) (a : Agent) (f off : Nat), agentFn a = some f →
  let hla := (s.field (rHwinBase f) 0 13 * 2 ^ 20 + off % 2 ^ 36 / 64) % 2 ^ 33
  let sk := off % 64
  let byte := fun (u : State) (k : Nat) => smapGet zeroByte u.hbm.data (64 * hla + k)
  let denied := fun (u : State) => u.hbm = s.hbm ∧ u.get rHwinDeny = (s.get rHwinDeny + 1) % 2 ^ 32 ∧ u.bit rMgStatus 30 = true ∧ u.tiles = s.tiles
  (∀ data : List (Option Byte), s.hbmReady = true → s.serviceTime = true → s.host.queue = [] → data ≠ [] → sk + data.length ≤ 64 →
    (s.slotClosed hla = false → s.hostMay a hla true = true → (data.length = 64 ∧ data.all (fun b => b.isSome) = true) ∨ (ssetHas s.hbm.poison hla = false ∧ s.hbm.wrong = []) →
      Answers (.bar2Write a off data) s (fun u => u.host.queue = [] ∧ u.tiles = s.tiles ∧ ssetHas u.hbm.poison hla = false
        ∧ (∀ k, k < 64 → byte u k = if sk ≤ k ∧ k < sk + data.length then (data.getD (k - sk) none).getD (byte s k) else byte s k)
        ∧ ∀ l, l ≠ hla → u.hbmData l = s.hbmData l))
    ∧ (s.slotClosed hla = false → s.hostMay a hla true = false → Answers (.bar2Write a off data) s denied)
    ∧ (s.slotClosed hla = true → Answers (.bar2Write a off data) s (fun u => u.hbm = s.hbm ∧ u.tiles = s.tiles ∧ u.get rMfDrop = (s.get rMfDrop + 1) % 2 ^ 32)))
  ∧ (∀ data : List (Option Byte), s.hbmReady = true → s.serviceTime = false → s.postedBytes + data.length ≤ 4 * 2 ^ 20 →
    Answers (.bar2Write a off data) s (fun u => u.hbm = s.hbm ∧ u.tiles = s.tiles ∧ ∃ q, u.host.queue = s.host.queue ++ [q] ∧ q.isRead = false ∧ q.line = hla))
  ∧ (∀ data : List (Option Byte), 4 * 2 ^ 20 < s.postedBytes + data.length → Answers (.bar2Write a off data) s (fun u => u = s))
  ∧ (∀ len, 1024 ≤ s.readsHeld → Answers (.bar2Read a off len) s (fun u => u = s))
  ∧ (∀ len, s.hbmReady = true → s.serviceTime = true → s.host.queue = [] → 0 < len → sk + len ≤ 64 → s.hbm.wrong = [] →
    (s.hostMay a hla false = true → Answers (.bar2Read a off len) s (fun u => u.hbm = s.hbm ∧ u.tiles = s.tiles ∧ u.regs = s.regs ∧ ∃ q, u.host.queue = [q]
      ∧ q.who = a ∧ q.served = true ∧ q.refused = false ∧ q.poisoned = ssetHas s.hbm.poison hla
      ∧ q.data = (List.range len).map (fun k => some (if ssetHas s.hbm.poison hla then 0 else byte s (sk + k)))))
    ∧ (s.hostMay a hla false = false → Answers (.bar2Read a off len) s (fun u => denied u ∧ ∃ q, u.host.queue = [q] ∧ q.who = a ∧ q.served = true ∧ q.refused = true)))
  ∧ (∀ len, s.hbmReady = true → s.serviceTime = false → s.readsHeld < 1024 →
    Answers (.bar2Read a off len) s (fun u => u.hbm = s.hbm ∧ u.regs = s.regs ∧ u.out = s.out ∧ ∃ q, u.host.queue = s.host.queue ++ [q] ∧ q.isRead = true ∧ q.served = false))
  ∧ (∀ q, s.host.queue = [q] → q.isRead = true → q.served = true → q.who = a →
    Answers (.bar2ReadCompletion a) s (fun u =>
      let o := Out.read2 a (if q.refused then none else some (q.data.map (fun (b : Option Byte) => b.getD 0))) (q.poisoned && !q.refused)
      u = { s with host := { s.host with queue := [] }, out := o :: s.out }))
  ∧ (s.host.queue = [] → Answers (.bar2ReadCompletion a) s (fun u => u = s))
  ∧ (s.serviceTime = false → Answers .quietInterval s (fun u => u = s))
  ∧ (s.serviceTime = true → s.host.queue = [] → s.serve.copy = none → s.serve.hashes = [] →
    Answers .quietInterval s (fun u => u.fl.queue = s.fl.queue.drop s.fl.copied ∧ u.fl.copied = 0 ∧ u.tiles = s.tiles
      ∧ (s.fl.copied = 0 ∨ s.ringOn faultRing = false → u.hbm = s.hbm)
      ∧ (∀ r, s.fl.queue.take s.fl.copied = [r] → s.ringOn faultRing = true → s.ringFull faultRing = false →
          u.get rRingTail = (s.get rRingTail + 1) % 2 ^ 32
            ∧ bytesGet u.hbm.data (64 * (256 * s.field rRingBase 0 25) + 32 * (s.get rRingTail % 2 ^ s.field rRingSize 0 5)) 32 = r.bytes)
      ∧ (∀ r, s.fl.queue.take s.fl.copied = [r] → s.ringOn faultRing = true → s.ringFull faultRing = true →
          u.hbm = s.hbm ∧ u.get rRingLost = (s.get rRingLost + 1) % 2 ^ 32)))

/-- R336, R341, R345: gate bits set and stay set; a manifest commit is answered by its frame, by the first row of R345 that applies, and an OK one stands. PL_COPY is answered REJECTED, BUSY or OK, and its
completion leaves the source's lines at the destination, void for poisoned ones, with the status posted and the counter signalled.
The model's choices in it: logs 1, 41 and 42. -/
def Obligations.GatesAndCopies : Prop := ∀ s : State,
  (∀ (a : Agent) (half : Nat) (val : W32), half < 2 → isPf0OrFw a = true → s.selftest = false →
    Answers (.gateHold a half val) s (fun u => u.get (rGateHold + 4 * half) = s.get (rGateHold + 4 * half) ||| val.toNat ∧ u.tiles = s.tiles ∧ u.hbm = s.hbm
      ∧ ∀ off, off ≠ rGateHold + 4 * half → u.get off = s.get off))
  ∧ (∀ (a : Agent) (half : Nat) (val : W32), half < 2 → isPf0OrFw a = false ∨ s.selftest = true →
    Answers (.gateHold a half val) s (fun u => u.get (rGateHold + 4 * half) = s.get (rGateHold + 4 * half) ∧ u.get rRwlIgnored = (s.get rRwlIgnored + 1) % 2 ^ 32))
  ∧ (∀ (a : Agent) (val : W32), isPf0OrFw a = true → bitAt val.toNat 31 = true →
    let f := s.get64 rMfFrame
    let st := if s.selftest = true then 2 else if s.planRuns = false ∨ s.bit rMfBase 31 = false then 4 else if s.pastHorizon f = true then 3
      else if (s.clock : Int) < s.tickOf ((f : Int) - 3) then 1 else 0
    Answers (.manifestCommit a val) s (fun u => u.get rMfResult = st * 2 ^ 28 + f % 4 * 2 ^ 24 ∧ u.tiles = s.tiles ∧ u.hbm = s.hbm
      ∧ (st = 0 → BitVec.ofNat 64 f ∈ u.serve.commits ∧ ∀ x, x ∈ u.serve.commits ↔ x = BitVec.ofNat 64 f ∨ x ∈ s.serve.commits)
      ∧ (st ≠ 0 → u.serve = s.serve) ∧ u.get rMfLate = (s.get rMfLate + b2n (st == 3)) % 2 ^ 32))
  ∧ (∀ (a : Agent) (val : W32), isPf0OrFw a = true → bitAt val.toNat 31 = false → Answers (.manifestCommit a val) s (fun u => u = s))
  ∧ (∀ r : Req, s.serves r 0x26 = true → s.selftest = false →
    let ws := s.reqWords r
    let src := word ws 1 + 2 ^ 32 * word ws 2
    let dst := word ws 3 + 2 ^ 32 * word ws 4
    let n := word ws 5
    let formed := onlyBits (word ws 0) 0xFF000000 && decide (word ws 2 < 2) && decide (word ws 4 < 2) && decide (1 ≤ n) && decide (n < 2 ^ 24)
      && onlyBits (word ws 6) 0x803F0FFF && (bitAt (word ws 6) 31 || word ws 6 == 0) && zeroFrom ws 7
    let good := s.loaderSender r && formed && s.rangeInHbm src n && s.rangeInHbm dst n && !meets src n dst n && !s.meetsDump src n && !s.meetsDump dst n
    (good = false ∨ s.copySignal (word ws 6) = none → Answers (.plCopy r) s (fun u => Replied s u r 4 [] ∧ u.serve = s.serve ∧ u.hbm = s.hbm))
    ∧ (∀ sig, good = true → s.copySignal (word ws 6) = some sig → s.serve.copy ≠ none →
        Answers (.plCopy r) s (fun u => Replied s u r 1 [] ∧ u.serve = s.serve ∧ u.hbm = s.hbm))
    ∧ (∀ sig, good = true → s.copySignal (word ws 6) = some sig → s.serve.copy = none →
        Answers (.plCopy r) s (fun u => Replied s u r 0 [] ∧ u.serve.copy = some ⟨src, dst, n, 0, sig, false⟩ ∧ u.hbm = s.hbm
          ∧ u.field rCopyStatus 0 24 = n ∧ u.bit rCopyStatus 27 = true)))
  ∧ (s.serve.copy = none ∨ s.serviceTime = false → Answers .copyComplete s (fun u => u = s))
  ∧ (∀ k, s.serve.copy = some k → s.serviceTime = true → s.hbm.wrong = [] → meets k.src k.lines k.dst k.lines = false → (∀ i, k.signal = some i → i < 32768 ∧ s.sync.hist.any (fun x => x.ctr == i) = false) →
    Answers .copyComplete s (fun u => u.serve = { s.serve with copy := none } ∧ u.tiles = s.tiles ∧ u.get rCopyStatus = (if k.fault then 7 else 0) * 2 ^ 28
      ∧ (∀ i, k.moved ≤ i → i < k.lines → u.hbmData (k.dst + i) = (if ssetHas s.hbm.poison (k.src + i) then 0 else s.hbmData (k.src + i))
          ∧ ssetHas u.hbm.poison (k.dst + i) = ssetHas s.hbm.poison (k.src + i))
      ∧ (∀ l, l < k.dst + k.moved ∨ k.dst + k.lines ≤ l → u.hbmData l = s.hbmData l)
      ∧ ∀ i, k.signal = some i → (u.counterRec i).value = (s.counterRec i).value + 1))

/-! Faults, masques and observation (14, 15). -/

/-- R357, R364, R368: a rail excursion is recorded and, with a plan running, withholds the frame's commit flags, in its guard time the next one's. A used port's exchange packet carries the
frame's mode word and the records that fit. A masque request is answered by the first check that fails, and an accepted one waits for its frame.
The model's choices in it: logs 1, 36, 45 and 46. -/
def Obligations.FaultsAndMasques : Prop := ∀ s : State,
  (∀ rail above, rail < 16 → Answers (.railExcursion rail above) s (fun u => Recorded s u 0x0802 (uRail * 4096 + rail) (rail + 16 * b2n above) ∧ u.tiles = s.tiles ∧ u.hbm = s.hbm
    ∧ u.power = s.power ∧ (s.planRuns = false → u.frame = s.frame)
    ∧ (s.planRuns = true → u.bit rFlStatus 25 = true
        ∧ (s.frame.running = true → s.frame.committed = false → u.frame = { s.frame with rail := true })
        ∧ (s.frame.running = true → s.frame.committed = true → u.frame = { s.frame with railNext := true }))))
  ∧ (∀ rail above, 16 ≤ rail → Answers (.railExcursion rail above) s (fun u => u = s))
  ∧ (∀ p sh len route, s.shapeNow = some sh → smapGet (fun _ => (0, 0)) sh.exch p = (len, route) → p ∈ s.usedPorts → 0 < len → ssetHas s.fl.exchSent p = false →
    s.frame.committed = false → s.frame.shape < 256 → s.frame.ctx < 256 →
    Answers (.exchangePacketSend p) s (fun u => ssetHas u.fl.exchSent p = true ∧ u.exchQ p = (s.exchQ p).drop (2 * len - 1) ∧ u.tiles = s.tiles ∧ u.hbm = s.hbm
      ∧ u.get rExchTx = (s.get rExchTx + ((s.exchQ p).take (2 * len - 1)).length) % 2 ^ 32
      ∧ ∃ x, ((u.port p).chan 1).egress = ((s.port p).chan 1).egress ++ [x] ∧ x.lines.length = len ∧ hdrType x.header = 3
        ∧ modeOf (x.lines.getD 0 0).toNat = ⟨BitVec.ofNat 64 s.frameNo, BitVec.ofNat 64 s.workNo, s.step_, s.frame.shape, s.frame.ctx⟩))
  ∧ (∀ r : Req, s.serves r 0x50 = true → s.selftest = false →
    let ws := s.reqWords r
    let f := word ws 1 + 2 ^ 32 * word ws 2
    let kind := word ws 3 / 2 ^ 24
    let count := bitsAt (word ws 3) 0 16
    let sub := word ws 4 / 2 ^ 16
    let unit := word ws 4 % 2 ^ 16
    let sel := bitsAt (word ws 5) 0 30
    let formed := onlyBits (word ws 0) 0xFF000000 && onlyBits (word ws 3) 0xFF00FFFF && onlyBits (word ws 5) 0x3FFFFFFF && zeroFrom ws 6
    let good := [0x00, 0x10, 0x11].contains (s.reqSender r) && s.bit rMasqueCtrl 31 && s.planRuns && formed
      && masqueKinds.any (fun k => k.kind == kind && s.masqueOk k count unit sub sel)
    (good = false → Answers (.masqueRequest r) s (fun u => Replied s u r 4 [] ∧ u.fl = s.fl ∧ u.tiles = s.tiles))
    ∧ (good = true → s.pastHorizon f = true → Answers (.masqueRequest r) s (fun u => Replied s u r 3 [] ∧ u.fl = s.fl ∧ u.tiles = s.tiles))
    ∧ (good = true → s.pastHorizon f = false → 64 ≤ s.fl.masques.length → Answers (.masqueRequest r) s (fun u => Replied s u r 1 [] ∧ u.fl = s.fl ∧ u.tiles = s.tiles))
    ∧ (good = true → s.pastHorizon f = false → s.fl.masques.length < 64 → Answers (.masqueRequest r) s (fun u => Replied s u r 0 [] ∧ u.tiles = s.tiles
        ∧ u.fl = { s.fl with masques := s.fl.masques ++ [⟨BitVec.ofNat 64 f, kind, count, sub, unit, sel, 0⟩] })))

/-- R383, R387, R389, R390: the trace slots and service time write records to their rings, or drop and count them. A watch arm is answered in OB_WATCH_RESULT, an OK one waiting for its frame
once. A watch point copies its lines, once in a frame of its shape and from its slot on, into the watch buffer, or into the sink when its group is not armed; eve lines and poisoned ones
arrive as marked zero lines. The contents are stated for every line of a tile that is not executing, and for the two lines that the point's slot itself reads of one that is.
The model's choices in it: logs 1, 43, 47 and 61. -/
def Obligations.Observation : Prop := ∀ s : State,
  (s.hbmReady = false → Answers .traceRingWrite s (fun u => u = s))
  ∧ (s.hbmReady = true → Answers .traceRingWrite s (fun u => u.ob.trace = [] ∧ u.tiles = s.tiles
      ∧ (s.ob.trace = [] → u.hbm = s.hbm ∧ u.regs = s.regs)
      ∧ (s.ringOn traceRing = false → u.hbm = s.hbm)
      ∧ (∀ r, s.ob.trace = [r] → s.ringOn traceRing = true → s.ringFull traceRing = false → 0 < s.traceRoom → u.get rTraceTail = (s.get rTraceTail + 1) % 2 ^ 32)
      ∧ (∀ r, s.ob.trace = [r] → s.ringOn traceRing = true → s.ringFull traceRing = true → u.hbm = s.hbm ∧ u.get rTraceLost = (s.get rTraceLost + 1) % 2 ^ 32
          ∧ u.bit rObStatus 31 = true)))
  ∧ (s.serviceTime = false → Answers .digestRingWrite s (fun u => u = s))
  ∧ (s.serviceTime = true → Answers .digestRingWrite s (fun u => u.ob.closed = [] ∧ u.tiles = s.tiles ∧ (s.ob.closed = [] → u.hbm = s.hbm ∧ u.regs = s.regs)
      ∧ (∀ t g d, s.ob.closed = [t] → t.sums = [(g, d)] → s.ringOn digRing = true → s.ringFull digRing = false →
          u.get rDigTail = (s.get rDigTail + 1) % 2 ^ 32
            ∧ bytesGet u.hbm.data (64 * (256 * s.field rDigBase 0 25) + 32 * (s.get rDigTail % 2 ^ s.field rDigSize 0 5)) 32 = digBytes t g d % 2 ^ 256)
      ∧ (∀ t g d, s.ob.closed = [t] → t.sums = [(g, d)] → s.ringOn digRing = false ∨ s.ringFull digRing = true →
          u.hbm = s.hbm ∧ u.get rDigLost = (s.get rDigLost + 1) % 2 ^ 32 ∧ u.bit rObStatus 30 = true)))
  ∧ (∀ (a : Agent) (f : Nat) (val : W32), agentFn a = some f → bitAt val.toNat 31 = true →
    let g := bitsAt val.toNat 16 8
    let j := s.get (rWatchArmLo f) + 2 ^ 32 * bitsAt val.toNat 0 16
    let st := if s.selftest = true then 2 else if s.planRuns = false ∨ s.watchOk g = false ∨ bitsAt val.toNat 24 7 ≠ 0 then 4
      else if j < s.workNo + 3 then 3 else if 8 ≤ s.ob.arms.length then 1 else 0
    Answers (.watchArm a f val) s (fun u => u.get (rWatchResult f) = st * 2 ^ 28 + g * 2 ^ 16 ∧ u.tiles = s.tiles ∧ u.hbm = s.hbm
      ∧ (st ≠ 0 → u.ob = s.ob) ∧ (st = 0 → u.ob.arms = if s.ob.arms.contains ⟨j, g⟩ then s.ob.arms else s.ob.arms ++ [⟨j, g⟩])))
  ∧ (∀ (a : Agent) (f : Nat) (val : W32), agentFn a ≠ some f → Answers (.watchArm a f val) s (fun u => u.ob = s.ob ∧ u.get rRwlIgnored = (s.get rRwlIgnored + 1) % 2 ^ 32))
  ∧ (∀ g i p w x, s.loader.plan = some p → s.watchGroup g = some w → w.points[i]? = some x →
    let n := s.physOf p.head.grid44 x.tile
    let armed := s.ob.runs.find? (fun r => r.group == g)
    let base := if armed.isSome then s.watchBase + w.off + x.off else p.almanac.sink + x.off
    let due := s.slotOpen x.slot = true ∧ x.shape = s.frame.shape ∧ s.ob.copied.contains (g, i) = false ∧ (s.tileRuns n = true → (s.tile n).now ≤ x.slot)
    (¬due → Answers (.watchCopy g i) s (fun u => u = s))
    ∧ (due → Answers (.watchCopy g i) s (fun u => (∀ m, m ≠ n → u.tile m = s.tile m)
      ∧ (∀ l, l < base ∨ base + x.count ≤ l → u.hbmData l = s.hbmData l)
      ∧ (armed = none → u.ob = { s.ob with copied := (g, i) :: s.ob.copied })
      ∧ (∀ r, armed = some r → ∃ r', r' ∈ u.ob.runs ∧ r'.group = g ∧ r'.points = r.points + 1 ∧ r'.lines = r.lines + x.count)
      ∧ (let tl := if s.tileRuns n = true then s.atSlot n x.slot else s.tile n
        tl.wrong = [] →
          (s.tileRuns n = false ∨ (0 < x.count ∧ x.count ≤ 2) → (u.tile n).mem = tl.mem ∧ (u.tile n).sameObjs tl)
          ∧ (∀ k, k < x.count → s.tileRuns n = false ∨ k < 2 → let l := x.first + k
              let gone := tl.eveBit l || ssetHas tl.poison l
              u.hbmData (base + k) = (if gone then 0 else tl.lineData l) ∧ ssetHas u.hbm.poison (base + k) = gone)))))

/-! BAR0 and the mailboxes (16, 17). -/

/-- R10: a software write to a counter wins, and the increments of the same cycle are added to the value written; the halves of a 64-bit pair carry, as do chained event counters. No other
register changes. -/
def Obligations.CounterWriteWins : Prop := ∀ (s : State) (a : Agent) (off incr : Nat) (val : W32), off % 4 = 0 → isCounter off = true →
  (TLW 0 0 ≤ off → s.enabled ((off - TLW 0 0) / 0x10000) = true) →
  (counterPair off = none → s.chainLo off = false → Answers (.counterWrite a off val incr) s (fun u => u.raw off = (val.toNat + incr) % 2 ^ 32
    ∧ ∀ o, o ≠ off → u.raw o = s.raw o))
  ∧ (counterPair off = some true → Answers (.counterWrite a off val incr) s (fun u =>
      u.raw off + 2 ^ 32 * u.raw (off + 4) = (val.toNat + 2 ^ 32 * s.raw (off + 4) + incr) % 2 ^ 64 ∧ ∀ o, o ≠ off → o ≠ off + 4 → u.raw o = s.raw o))
  ∧ (counterPair off = some false → Answers (.counterWrite a off val incr) s (fun u =>
      u.raw (off - 4) + 2 ^ 32 * u.raw off = (s.raw (off - 4) + 2 ^ 32 * val.toNat + incr) % 2 ^ 64 ∧ ∀ o, o ≠ off → o ≠ off - 4 → u.raw o = s.raw o))
  ∧ (counterPair off = none → s.chainLo off = true → Answers (.counterWrite a off val incr) s (fun u => u.raw off = (val.toNat + incr) % 2 ^ 32
      ∧ u.raw (off + 4) = (s.raw (off + 4) + (val.toNat + incr) / 2 ^ 32) % 2 ^ 32 ∧ ∀ o, o ≠ off → o ≠ off + 4 → u.raw o = s.raw o))

/-- R276: reading TM_TIME_LO, or the LO half of TM_EQX_OFFSET, TM_PPS_CAPTURE or TM_WALL_OFFSET, answers it and copies the matching upper half into the read buffer that the sender's next
read of the HI half answers, whatever has changed between the two. -/
def Obligations.LatchedTimePairs : Prop := ∀ (s : State) (a : Agent), ∀ lo ∈ [rTmTime, rEqxOffset, rPpsCapture, rWallOffset],
  let src := latchSource a
  Answers (.bar0Read a lo 4) s (fun u => u.out = .read a (some (s.live src lo)) :: s.out
    ∧ ∀ w : State, w.latches = u.latches → Answers (.bar0Read a (lo + 4) 4) w (fun v => v.out = .read a (some (s.live src (lo + 4) % 2 ^ 32)) :: w.out))

/-- R423: an offset of BAR0 that lies outside every block reads 0 and takes no write, and neither is counted. -/
def Obligations.EmptyOffsets : Prop := ∀ (s : State) (a : Agent) (off size : Nat) (val : W64) (en : Nat), inBlock off = false → aligned off size = true →
  Answers (.bar0Read a off size) s (fun u => u.out = .read a (some 0) :: s.out ∧ u.regs = s.regs ∧ u.tiles = s.tiles ∧ u.hbm = s.hbm ∧ u.latches = s.latches)
  ∧ Answers (.bar0Write a off size val en) s (fun u => u.regs = s.regs ∧ u.tiles = s.tiles ∧ u.hbm = s.hbm ∧ u.shadow = s.shadow ∧ u.out = s.out)

/-- R396, R398, R421, R424 to R426: a read of 4 aligned bytes answers the register's live value, the LO half of a latched pair latching the HI half for its sender, and the HI half answering
the latch. A write reaches a register that has no row of its own by its access type: RW and counters take the bits, W1C clears them, RWL is ignored and counted while a plan runs, RWF waits for the
frame then. A sender that may not write is ignored and counted, as is an access that is not 4 or 8 aligned bytes.
The model's choices in it: logs 48, 49 and 50. -/
def Obligations.Bar0Access : Prop := ∀ (s : State) (a : Agent) (off size : Nat),
  let src := latchSource a
  (aligned off 4 = true → pairLo off = false → s.chainLo off = false → (4 ≤ off → pairLo (off - 4) = false ∧ s.chainLo (off - 4) = false) →
    Answers (.bar0Read a off 4) s (fun u => u.out = .read a (some (s.live src off)) :: s.out ∧ u.regs = s.regs ∧ u.tiles = s.tiles ∧ u.hbm = s.hbm))
  ∧ (aligned off 4 = true → pairLo off = true → Answers (.bar0Read a off 4) s (fun u => u.out = .read a (some (s.live src off)) :: s.out ∧ u.regs = s.regs
      ∧ Answers (.bar0Read a (off + 4) 4) { u with out := s.out } (fun v => pairLo (off + 4) = false → s.chainLo (off + 4) = false →
          v.out = .read a (some (s.live src (off + 4) % 2 ^ 32)) :: s.out)))
  ∧ (aligned off 8 = true → Answers (.bar0Read a off 8) s (fun u => u.out = .read a (some (s.live src off + 2 ^ 32 * s.live src (off + 4))) :: s.out ∧ u.regs = s.regs
      ∧ u.latches = s.latches))
  ∧ (aligned off size = false → Answers (.bar0Read a off size) s (fun u => u.out = .read a none :: s.out ∧ u.get rRwlIgnored = (s.get rRwlIgnored + 1) % 2 ^ 32))
  ∧ (∀ val en, aligned off size = false →
    Answers (.bar0Write a off size val en) s (fun u => u.get rRwlIgnored = (s.get rRwlIgnored + 1) % 2 ^ 32 ∧ ∀ o, o ≠ rRwlIgnored → o ≠ rMgStatus → u.raw o = s.raw o))
  ∧ (∀ (val : W64) (en : Nat), aligned off 4 = true → inBlock off = true → (TLW 0 0 ≤ off → s.enabled ((off - TLW 0 0) / 0x10000) = true) →
    let m := byteBits (en % 16)
    let k := m &&& (regRow off).mask
    let v := val.toNat % 2 ^ 32
    m ≠ 0 → (s.touch a).rowWrite a off v m = none →
    let new := mergeBits (s.raw off) v k
    ((regRow off).acc = .counter → Answers (.bar0Write a off 4 val en) s (fun u => u.raw off = new % 2 ^ 32 ∧ ∀ o, o ≠ off → u.raw o = s.raw o))
    ∧ (mayWrite a off (regRow off) = false → (regRow off).acc ≠ .counter →
        Answers (.bar0Write a off 4 val en) s (fun u => u.get rRwlIgnored = (s.get rRwlIgnored + 1) % 2 ^ 32 ∧ ∀ o, o ≠ rRwlIgnored → o ≠ rMgStatus → u.raw o = s.raw o))
    ∧ (mayWrite a off (regRow off) = true → s.selftest = false →
        ((regRow off).acc = .rw → Answers (.bar0Write a off 4 val en) s (fun u => u.raw off = new % 2 ^ 32 ∧ ∀ o, o ≠ off → u.raw o = s.raw o))
        ∧ ((regRow off).acc = .w1c → Answers (.bar0Write a off 4 val en) s (fun u => u.raw off = s.raw off - (s.raw off &&& (v &&& k)) ∧ ∀ o, o ≠ off → u.raw o = s.raw o))
        ∧ ((regRow off).acc = .rwl → s.planRuns = false →
            Answers (.bar0Write a off 4 val en) s (fun u => u.raw off = new % 2 ^ 32 ∧ ∀ o, o ≠ off → u.raw o = s.raw o))
        ∧ ((regRow off).acc = .rwl → s.planRuns = true →
            Answers (.bar0Write a off 4 val en) s (fun u => u.get rRwlIgnored = (s.get rRwlIgnored + 1) % 2 ^ 32 ∧ ∀ o, o ≠ rRwlIgnored → o ≠ rMgStatus → u.raw o = s.raw o))
        ∧ ((regRow off).acc = .rwf → s.planRuns = false →
            Answers (.bar0Write a off 4 val en) s (fun u => u.raw off = new % 2 ^ 32 ∧ ∀ o, o ≠ off → u.raw o = s.raw o))
        ∧ ((regRow off).acc = .rwf → s.planRuns = true → Answers (.bar0Write a off 4 val en) s (fun u => (∀ o, u.raw o = s.raw o)
            ∧ smapGet (fun _ => none) u.shadow off = some (BitVec.ofNat 32 (mergeBits (((smapGet (fun _ => none) s.shadow off).map (fun w => w.toNat)).getD (s.raw off)) v k))))))

/-- R408 to R410, R448: a GO by a channel's owner, with the bindings locked, fills an idle channel; on a full one it is ignored with OVERRUN, and from anyone else it is denied and counted. A
release takes the reply. Firmware takes the first request that waits, whose words it then serves; one that no row serves is answered REJECTED, or BUSY-SELFTEST. The BMC's tunnel writes
the words and the GO at once.
The model's choices in it: logs 1 and 53. -/
def Obligations.Mailboxes : Prop := ∀ (s : State) (c : Nat), c < 8 →
  let deny := fun (u : State) => u.get rMbxDeny = (s.get rMbxDeny + 1) % 2 ^ 32 ∧ u.bit rMgStatus 29 = true ∧ u.get (rMbxCtrl c) = s.get (rMbxCtrl c)
  let above := fun (u : State) => u.get rMbxDeny = (s.get rMbxDeny + 1) % 2 ^ 32 ∧ u.bit (rMbxCtrl c) 28 = true ∧ u.reqFull c = s.reqFull c ∧ u.rspFull c = s.rspFull c
  let gone := fun (u : State) => u.reqFull c = true ∧ u.rspFull c = false ∧ u.field (rMbxCtrl c) 16 8 = (s.field (rMbxCtrl c) 16 8 + 1) % 256
  (∀ a : Agent,
    (s.owns_ (agentId a) c = false → Answers (.mailboxGo a c) s deny ∧ Answers (.mailboxRelease a c) s deny)
    ∧ (s.owns_ (agentId a) c = true → s.bit rMbxLock 31 = true →
        (s.chanFull c = false → Answers (.mailboxGo a c) s (fun u => gone u ∧ ∀ off, off ≠ rMbxCtrl c → u.get off = s.get off))
        ∧ (s.chanFull c = true → Answers (.mailboxGo a c) s above))
    ∧ (s.owns_ (agentId a) c = true → s.bit rMbxLock 31 = false → Answers (.mailboxGo a c) s (fun u => u.regs = s.regs))
    ∧ (s.owns_ (agentId a) c = true → Answers (.mailboxRelease a c) s (fun u => u.rspFull c = false ∧ u.reqFull c = s.reqFull c
        ∧ ∀ off, off ≠ rMbxCtrl c → u.get off = s.get off)))
  ∧ (s.fwUp = true ∨ s.recovery = true → s.reqFull c = true → (s.chnl c).service = false → (∀ i, i < c → s.reqFull i = false ∨ (s.chnl i).service = true) →
    let ws := (List.range 16).map (fun w => BitVec.ofNat 32 (s.get (rMbxReq c w)))
    (s.unserved c ws = false → Answers (.mailboxTake c) s (fun u => (u.chnl c).words = ws ∧ (u.chnl c).service = true ∧ u.regs = s.regs ∧ u.tiles = s.tiles))
    ∧ (s.unserved c ws = true → (s.chnl c).discard = false → s.chanOwner c ≠ 0x10 → Answers (.mailboxTake c) s (fun u => u.tiles = s.tiles ∧ u.hbm = s.hbm
        ∧ Replied s u (.chan c) (if s.selftest && !s.recovery then 2 else 4) (if s.selftest && !s.recovery then [s.remaining] else []))))
  ∧ (s.fwUp = false → s.recovery = false → Answers (.mailboxTake c) s (fun u => u = s))
  ∧ (∀ words : List W32, s.fwUp = true ∨ s.recovery = true →
    (s.owns_ 0x10 c = false → Answers (.mailboxTunnel c words) s deny)
    ∧ (s.owns_ 0x10 c = true → s.bit rMbxLock 31 = true →
        (s.chanFull c = false → Answers (.mailboxTunnel c words) s (fun u => gone u ∧ ∀ w, w < 16 → u.get (rMbxReq c w) = word words w))
        ∧ (s.chanFull c = true → Answers (.mailboxTunnel c words) s above)))

/-! Management, power and light (16, 18). -/

/-- R403, R406, R408, R411, R412: firmware's requests. One from a sender that Table 16-7 does not allow, or with a nonzero unnamed bit, is answered REJECTED and changes nothing; self-test answers most
of them BUSY-SELFTEST. The information requests answer their words. MG_PLACE, MG_CONFIG and MG_KEY write what they name; one-time storage takes no key twice and keeps one firmware
key slot.
The model's choices in it: logs 7 and 54. -/
def Obligations.MgRequests : Prop := ∀ (s : State) (r : Req),
  let ws := s.reqWords r
  let kept := fun (u : State) => u.mg = s.mg ∧ u.power = s.power ∧ u.tiles = s.tiles ∧ u.hbm = s.hbm ∧ u.planState = s.planState
  let otpIs := fun (u : State) (o : Otp) => u.mg = { s.mg with otp := o } ∧ u.tiles = s.tiles ∧ u.hbm = s.hbm
  (∀ c op senders named, (c, op, senders, named) ∈ [(Instr.mgInfo r, 0x01, [], []), (.mgSelftest r, 0x02, [0, 0x10], []), (.mgResetDevice r, 0x03, [0, 0x10], [1]),
      (.mgResetManagement r, 0x03, [0, 0x10], [1]), (.mgShutdown r, 0x04, [0, 0x10], []), (.mgPowerOn r, 0x05, [0x10], []), (.mgFaultlog r, 0x06, [], [0xFFF]),
      (.mgDescribe r, 0x07, [], [allBits]), (.mgFwStage r, 0x08, [0], [allBits, 1, allBits]), (.mgFwActivate r, 0x09, [0, 0x10], []),
      (.mgPlace r, 0x0B, [0x10], [0xFFFF, allBits, 0xFFFF]), (.mgConfig r, 0x0C, [0], [0x3FFFFFFF, 0x3FF, 1])] → s.serves r op = true →
    (s.selftest = false ∨ servedInTest op = true → s.mgFits r senders named = false → Answers c s (fun u => Replied s u r 4 [] ∧ kept u))
    ∧ (s.selftest = true → servedInTest op = false → Answers c s (fun u => Replied s u r 2 [s.remaining] ∧ kept u)))
  ∧ (s.serves r 0x01 = true → s.mgFits r [] [] = true → Answers (.mgInfo r) s (fun u => u.mg = { s.mg with trip := none } ∧ u.tiles = s.tiles ∧ u.hbm = s.hbm
      ∧ Replied s u r 0 [s.view 16 rPartId, s.get rMgBoot, s.get rLibVersion, s.sigPolicy, s.get rPlState,
          Config.romVersion % 2 ^ 16 + (s.mg.trip.map (fun k => 2 ^ 31 + k * 2 ^ 16)).getD 0]))
  ∧ (s.serves r 0x06 = true → s.mgFits r [] [0xFFF] = true → Answers (.mgFaultlog r) s (fun u => kept u ∧ Replied s u r 0
      ((match s.mg.log[word ws 1]? with
        | some k => (List.range 8).map (fun w => bitsAt k.bytes (32 * w) 32)
        | none => List.replicate 8 0) ++ [s.mg.log.length])))
  ∧ (s.selftest = false → s.serves r 0x07 = true → s.mgFits r [] [allBits] = true →
    (s.mg.descr.length ≤ 60 * word ws 1 → Answers (.mgDescribe r) s (fun u => kept u ∧ Replied s u r 4 []))
    ∧ (60 * word ws 1 < s.mg.descr.length → Answers (.mgDescribe r) s (fun u => kept u
        ∧ Replied s u r 0 ((List.range 15).map (fun w => numOf ((s.mg.descr.drop (60 * word ws 1 + 4 * w)).take 4))))))
  ∧ (s.selftest = false → s.serves r 0x0B = true → s.mgFits r [0x10] [0xFFFF, allBits, 0xFFFF] = true →
    (s.planState = psEmpty ∨ s.planState = psLoaded ∨ s.planState = psStopped → Answers (.mgPlace r) s (fun u => Replied s u r 0 [] ∧ u.get rDeviceAddr = word ws 1
        ∧ u.get rDomainLo = word ws 2 ∧ u.get rDomainHi = word ws 3 ∧ u.mg = { s.mg with place := word ws 1, domainLo := ws.getD 2 0, domainHi := ws.getD 3 0 }))
    ∧ (s.planState ≠ psEmpty → s.planState ≠ psLoaded → s.planState ≠ psStopped → Answers (.mgPlace r) s (fun u => Replied s u r 5 [] ∧ kept u)))
  ∧ (s.selftest = false → s.serves r 0x0C = true → s.mgFits r [0] [0x3FFFFFFF, 0x3FF, 1] = true →
    let ids := (List.range 8).map (fun c => if c < 6 then bitsAt (word ws 1) (5 * c) 5 else bitsAt (word ws 2) (5 * (c - 6)) 5)
    (ids.all (fun i => decide (i ≤ 0x10) || i == 0x1F) = false → Answers (.mgConfig r) s (fun u => Replied s u r 4 [] ∧ kept u))
    ∧ (ids.all (fun i => decide (i ≤ 0x10) || i == 0x1F) = true → Answers (.mgConfig r) s (fun u => Replied s u r 0 []
        ∧ u.mg = { s.mg with config := ⟨ids, bitAt (word ws 3) 0, true⟩ } ∧ u.get (rMbxBind 0) = s.get (rMbxBind 0))))
  ∧ (s.selftest = false → s.serves r 0x0A = true → s.planState = psEmpty →
    let o := s.mg.otp
    let k := keySlot ws
    (keyItem ws = 1 → s.mgFits r [0, 0x10] [0xF0F] = true →
      (2 ≤ k ∨ (bitsAt (o.fwRevoked ||| 2 ^ k) 0 2 = 3 ∧ bitAt o.fwRevoked k = false) → Answers (.mgKeyRevokeFirmware r) s (fun u => Replied s u r 4 [] ∧ kept u))
      ∧ (k < 2 → (bitsAt (o.fwRevoked ||| 2 ^ k) 0 2 ≠ 3 ∨ bitAt o.fwRevoked k = true) →
          Answers (.mgKeyRevokeFirmware r) s (fun u => Replied s u r 0 [] ∧ otpIs u { o with fwRevoked := o.fwRevoked ||| 2 ^ k })))
    ∧ (keyItem ws = 3 → s.mgFits r [0, 0x10] [0xF0F] = true →
      (4 ≤ k → Answers (.mgKeyRevokePlan r) s (fun u => Replied s u r 4 [] ∧ kept u))
      ∧ (k < 4 → Answers (.mgKeyRevokePlan r) s (fun u => Replied s u r 0 [] ∧ otpIs u { o with planRevoked := o.planRevoked ||| 2 ^ k })))
    ∧ (keyItem ws = 4 → s.mgFits r [0, 0x10] [0xF0F] = true →
        Answers (.mgKeySetRequired r) s (fun u => Replied s u r 0 [] ∧ otpIs u { o with required := true }))
    ∧ (∀ c, r = .chan c → keyItem ws = 2 → s.mgFits r [0, 0x10] (0x1F0F :: List.replicate 12 allBits) = true → k < 4 →
      (keyHalf ws = false → Answers (.mgKeyWritePlan r) s (fun u => Replied s u r 0 [] ∧ u.mg = s.mg ∧ (u.chnl c).half = some (k, ws, s.now)))
      ∧ (keyHalf ws = true → (s.chnl c).half = none → Answers (.mgKeyWritePlan r) s (fun u => Replied s u r 4 [] ∧ u.mg = s.mg))
      ∧ (∀ k0 xs t, keyHalf ws = true → (s.chnl c).half = some (k0, xs, t) →
          let key := BitVec.ofNat 768 (coordinate xs * 2 ^ 384 + coordinate ws)
          let good := k0 = k ∧ s.now ≤ t + 10000000000 ∧ smapGet (fun _ => none) o.planKeys k = none ∧ Config.validP384 key = true
          (good → Answers (.mgKeyWritePlan r) s (fun u => Replied s u r 0 [] ∧ (u.chnl c).half = none
              ∧ otpIs u { o with planKeys := smapPut (fun _ => none) o.planKeys k (some key) }))
          ∧ (¬ good → Answers (.mgKeyWritePlan r) s (fun u => Replied s u r 4 [] ∧ (u.chnl c).half = none ∧ u.mg = s.mg)))))
  ∧ (∀ c item named, (c, item, named) ∈ [(Instr.mgKeyRevokeFirmware r, 1, [0xF0F]), (.mgKeyWritePlan r, 2, 0x1F0F :: List.replicate 12 allBits),
      (.mgKeyRevokePlan r, 3, [0xF0F]), (.mgKeySetRequired r, 4, [0xF0F])] → s.selftest = false → s.serves r 0x0A = true → keyItem ws = item →
    s.mgFits r [0, 0x10] named = false ∨ s.planState ≠ psEmpty → Answers c s (fun u => Replied s u r 4 [] ∧ kept u ∧ ∀ i, r = .chan i → (u.chnl i).half = none))
  ∧ Answers .mgKeyHalfTimeout s (fun u => u.mg = s.mg ∧ u.regs = s.regs ∧ ∀ c, c < 8 →
      u.chnl c = (if ((s.chnl c).half.map (fun h => decide (h.2.2 + 10000000000 ≤ s.now))).getD false then { s.chnl c with half := none } else s.chnl c))

/-- R402, R405, R413 to R419, R417, R358: self-test and its five phases, device and management resets, shutdown, and firmware images.
The model's choices in it: logs 1, 7, 18, 19, 55, 56, 57 and 58. -/
def Obligations.TestsAndResets : Prop := ∀ (s : State) (r : Req), s.loader.loading = none →
  let ws := s.reqWords r
  (s.selftest = false → s.serves r 0x02 = true → s.mgFits r [0, 0x10] [] = true →
    (s.planState = psEmpty ∨ s.planState = psLoaded ∨ s.planState = psStopped → Answers (.mgSelftest r) s (fun u => Replied s u r 0 [] ∧ u.planState = psEmpty
        ∧ u.counterState = 0 ∧ (∀ p, p < 16 → u.train p = trDisabled) ∧ (s.bit rMgStatus 21 = true → u.selftest = true ∧ u.field rSelftest 28 4 = 1 ∧ u.hbmReady = false)))
    ∧ (s.planState ≠ psEmpty → s.planState ≠ psLoaded → s.planState ≠ psStopped → Answers (.mgSelftest r) s (fun u => Replied s u r 4 [] ∧ u.planState = s.planState
        ∧ u.tiles = s.tiles ∧ u.time = s.time)))
  ∧ (∀ (fault : Bool) (k : Nat), s.selftest = true → s.field rSelftest 28 4 = k → 1 ≤ k → k ≤ 5 →
    Answers (.selftestPhaseEnd fault) s (fun u => (k < 5 → u.selftest = true ∧ u.field rSelftest 28 4 = k + 1 ∧ u.mg.testFault = (s.mg.testFault || fault))
      ∧ (fault = true → u.bit rSelftest 27 = true ∧ u.bit rMgStatus 25 = true)
      ∧ (k = 1 → u.hbmReady = true ∧ u.hbm = ⟨[], [], []⟩) ∧ (k = 2 → ∀ n, (u.tile n).mem = [] ∧ (u.tile n).poison = [] ∧ (u.tile n).eve = [])
      ∧ (k = 3 → ∀ i, i < 32768 → u.counterRec i = Counter.zero) ∧ (k = 4 → u.field rTmStatus 16 3 = 4 ∧ u.bit rTmStatus 25 = true)
      ∧ (k = 5 → u.selftest = false ∧ u.field rSelftest 28 4 = 0 ∧ u.bit rMgStatus 25 = (s.mg.testFault || fault))))
  ∧ (∀ fault, s.selftest = false → Answers (.selftestPhaseEnd fault) s (fun u => u = s))
  ∧ (s.serves r 0x03 = true → s.mgFits r [0, 0x10] [1] = true →
    (bitAt (word ws 1) 0 = false → Answers (.mgResetDevice r) s (fun u => Replied s u r 0 [] ∧ u.planState = psEmpty ∧ u.loader.plan = none ∧ u.frame = .idle
        ∧ u.ports = [] ∧ u.counterState = 0 ∧ u.mg.otp = s.mg.otp ∧ u.get rDeviceAddr = s.mg.place % 2 ^ 32 ∧ (∀ n, (u.tile n).sregs = [] ∧ (u.tile n).tags = [])
        ∧ (s.bit rMgStatus 21 = true → u.selftest = true ∧ u.field rSelftest 28 4 = 1)))
    ∧ (bitAt (word ws 1) 0 = true → Answers (.mgResetManagement r) s (fun u => Replied s u r 0 [] ∧ u.planState = s.planState ∧ u.tiles = s.tiles ∧ u.hbm = s.hbm
        ∧ u.frame = s.frame ∧ u.loader.plan = s.loader.plan ∧ u.time.counter = s.time.counter ∧ u.fwUp = (s.bankOk false || s.bankOk true)
        ∧ u.recovery = !(s.bankOk false || s.bankOk true) ∧ u.bit rMbxLock 31 = true ∧ ∀ c, c < 8 → (u.chnl c).half = none)))
  ∧ (∀ sig : W32, s.fwUp = true → Answers (.mgmtLockstepMiscompare sig) s (fun u => u.bit rFlStatus 26 = true ∧ Recorded s u 0x0801 (uMgmt * 4096) sig.toNat
      ∧ u.tiles = s.tiles ∧ u.hbm = s.hbm ∧ u.frame = s.frame ∧ u.planState = s.planState ∧ u.fwUp = (s.bankOk false || s.bankOk true)))
  ∧ (s.serves r 0x04 = true → s.mgFits r [0, 0x10] [] = true →
    (s.bit rMgStatus 23 = true → Answers (.mgShutdown r) s (fun u => Replied s u r 0 [] ∧ u.bit rMgStatus 22 = false ∧ u.bit rMgStatus 23 = true ∧ u.frame = s.frame))
    ∧ (s.bit rMgStatus 23 = false → s.shadow = [] → Answers (.mgShutdown r) s (fun u => u.bit rMgStatus 23 = true ∧ u.tiles = s.tiles ∧ u.hbm = s.hbm
        ∧ (∀ c, r = .chan c → u.mg.stopping = some c) ∧ (s.planState = psRunning → u.frame.stopAt ≠ none) ∧ (s.planRuns = false → u.frame = s.frame))))
  ∧ (s.bit rMgStatus 23 = false ∨ s.planRuns = true ∨ s.frame.running = true ∨ s.bit rDumpStatus 31 = true ∨ s.ringsWait = true → Answers .shutdownComplete s (fun u => u = s))
  ∧ (s.bit rMgStatus 23 = true → s.planRuns = false → s.frame.running = false → s.bit rDumpStatus 31 = false → s.ringsWait = false → s.bit rMgStatus 21 = true →
    Answers .shutdownComplete s (fun u => u.bit rMgStatus 23 = false ∧ u.bit rMgStatus 22 = false ∧ u.bit rMgStatus 21 = false ∧ u.power.rails &&& mainRails = 0
      ∧ u.power.held = !s.bit rMgStatus 22 ∧ u.hbm = ⟨[], [], []⟩ ∧ (∀ n, (u.tile n).mem = []) ∧ u.mg.stopping = none
      ∧ ∀ c, s.mg.stopping = some c → c < 8 → Replied s u (.chan c) 0 []))
  ∧ (s.serves r 0x05 = true → s.selftest = false → s.mgFits r [0x10] [] = true → Answers (.mgPowerOn r) s (fun u => Replied s u r 0 [] ∧ u.tiles = s.tiles
      ∧ (s.bit rMgStatus 23 = true → u.bit rMgStatus 22 = true ∧ u.power = s.power) ∧ (s.bit rMgStatus 23 = false → u.power = { s.power with held := false })))
  ∧ (s.serves r 0x08 = true → s.selftest = false → s.recovery = false → s.mgFits r [0] [allBits, 1, allBits] = true →
    let hla := word ws 1 + 2 ^ 32 * word ws 2
    let n := word ws 3
    let lines := (n + 63) / 64
    (n = 0 ∨ fwLimit < n ∨ s.rangeInHbm hla lines = false → Answers (.mgFwStage r) s (fun u => Replied s u r 4 [] ∧ u.mg = s.mg))
    ∧ (0 < n → n ≤ fwLimit → s.rangeInHbm hla lines = true → Answers (.mgFwStage r) s (fun u =>
        let k := bankFrom ((s.hbmLines hla lines).2.take n)
        u.bank s.inactive = k ∧ u.bank (!s.inactive) = s.bank (!s.inactive) ∧ u.hbm = s.hbm ∧ u.tiles = s.tiles
          ∧ Replied s u r (if (s.setBank s.inactive k).bankOk s.inactive then 0 else 4) [])))
  ∧ (s.serves r 0x09 = true → s.selftest = false → s.mgFits r [0, 0x10] [] = true →
    (s.bankOk s.inactive = false → Answers (.mgFwActivate r) s (fun u => Replied s u r 4 [] ∧ u.mg = s.mg))
    ∧ (s.bankOk s.inactive = true → Answers (.mgFwActivate r) s (fun u => Replied s u r 0 [] ∧ u.fwUp = true ∧ u.bit rMgBoot 24 = s.inactive
        ∧ u.mg.fwDigest = (s.bank s.inactive).digest ∧ u.mg.lastB = s.inactive ∧ u.planState = s.planState ∧ u.tiles = s.tiles ∧ u.frame = s.frame)))

/-- R402, R413, R414, R434 to R438, R445: auxiliary power boots firmware from a valid bank, or recovery; main power brings the rails up and begins self-test; a lost input and a thermal trip take the
main rails off and with them what the blocks hold. PCIe's resets reset its functions and their channels. A coolant excursion is told once. A cartridge feeds its ports from 5 s after
its latch closes until it lifts.
The model's choices in it: logs 1, 34, 57 and 58. -/
def Obligations.PowerAndLight : Prop := ∀ s : State,
  let off := fun (u : State) => u.power.rails &&& mainRails = 0 ∧ u.bit rMgStatus 21 = false ∧ u.bit rMgStatus 23 = true ∧ u.hbm = ⟨[], [], []⟩ ∧ u.planState = psEmpty
    ∧ u.counterState = 0 ∧ (∀ n, u.tile n = Tile.reset) ∧ u.mg.otp = s.mg.otp
  (∀ strap, s.power.auxIn = false → Answers (.auxPowerGood strap) s (fun u => u.power.auxIn = true ∧ u.mg.strap = 0x60 + strap % 8 ∧ bitAt u.power.rails 13 = true
      ∧ bitAt u.power.rails 15 = true ∧ u.fwUp = (s.bankOk false || s.bankOk true) ∧ u.recovery = !(s.bankOk false || s.bankOk true) ∧ u.planState = psEmpty
      ∧ u.bit rMbxLock 31 = true ∧ ∀ n, u.tile n = Tile.reset))
  ∧ (∀ strap, s.power.auxIn = true → Answers (.auxPowerGood strap) s (fun u => u = s))
  ∧ Answers .auxInputLoss s (fun u => u.power.auxIn = false ∧ u.power.rails = 0 ∧ u.fwUp = false ∧ u.recovery = false ∧ u.mg.otp = s.mg.otp ∧ u.mg.config = s.mg.config
      ∧ u.mg.bankA = s.mg.bankA ∧ u.mg.bankB = s.mg.bankB ∧ u.hbm = ⟨[], [], []⟩ ∧ u.fl = .reset)
  ∧ (s.fwUp = true → s.bit rMgStatus 21 = false → s.bit rMgStatus 23 = false → s.power.held = false →
    Answers .mainPowerUp s (fun u => u.bit rMgStatus 21 = true ∧ u.power.rails &&& mainRails = mainRails ∧ u.power.thermTrip = false ∧ u.selftest = true
      ∧ u.field rSelftest 28 4 = 1 ∧ u.get rDeviceAddr = s.mg.place % 2 ^ 32))
  ∧ (s.bit rMgStatus 21 = true ∨ s.power.held = true → Answers .mainPowerUp s (fun u => u = { s with power := { s.power with mainIn := true } }))
  ∧ (s.power.rails &&& mainRails ≠ 0 → Answers .mainInputLoss s (fun u => off u ∧ u.power.mainIn = false))
  ∧ (∀ k, k < 4 ∨ (0x10 ≤ k ∧ k < 0x18) → s.power.rails &&& mainRails ≠ 0 → Answers (.thermalTrip k) s (fun u => off u ∧ u.power.thermTrip = true ∧ u.mg.trip = some k
      ∧ (s.fwUp = true → u.out.head? = some (.notify evTrip k))))
  ∧ (∀ (outlet : Bool) (temp : Int), s.fwUp = true → let o := if outlet then decide (60 < temp) else decide (temp < 15) || decide (45 < temp)
    let was := if outlet then s.power.outletOut else s.power.inletOut
    Answers (.coolantExcursion outlet temp) s (fun u => (if outlet then u.power.outletOut else u.power.inletOut) = o ∧ u.regs = s.regs ∧ u.tiles = s.tiles
      ∧ u.out = if o && !was then .notify (if outlet then evOutlet else evInlet) (temp + 1024).toNat :: s.out else s.out))
  ∧ (∀ c, c ∈ [Instr.pcieHotReset, .flrPf0, .perstAssert] → (c = .perstAssert → s.bit rResetPolicy 0 = false) →
    Answers c s (fun u => u.host.vfs = 0 ∧ (∀ f, f < 16 → u.get (rHwinBase f) = 0) ∧ (∀ c, c < 8 → s.chanOwner c < 16 → u.reqFull c = false ∧ u.rspFull c = false
        ∧ (u.chnl c).discard = (s.chnl c).service) ∧ u.tiles = s.tiles ∧ u.hbm = s.hbm ∧ u.frame = s.frame ∧ u.planState = s.planState))
  ∧ (s.bit rResetPolicy 0 = true → s.loader.loading = none → Answers .perstAssert s (fun u => u.host.vfs = 0 ∧ u.planState = psEmpty ∧ u.loader.plan = none ∧ u.frame = .idle
      ∧ u.counterState = 0 ∧ (s.bit rMgStatus 21 = true → u.selftest = true)))
  ∧ (∀ n, 1 ≤ n → n ≤ 15 → Answers (.flrVf n) s (fun u => u.get (rHwinBase n) = 0 ∧ u.host.vfs = s.host.vfs ∧ u.tiles = s.tiles ∧ u.hbm = s.hbm
      ∧ (∀ c, c < 8 → s.chanOwner c = n → u.reqFull c = false ∧ u.rspFull c = false) ∧ ∀ c, c < 8 → s.chanOwner c ≠ n → u.chnl c = s.chnl c))
  ∧ (∀ c, c < 4 → (s.cart c).latched = false → Answers (.cartridgeLatchClose c) s (fun u => (u.cart c).latched = true ∧ (u.cart c).feeding = (s.cart c).feeding
      ∧ (u.cart c).closedAt = (if bitAt s.power.rails 11 then some s.now else none) ∧ u.regs = s.regs))
  ∧ (∀ c t, c < 4 → (s.cart c).closedAt = some t → s.fwUp = true → t + 5000000000 ≤ s.now →
    Answers (.cartridgeStart c) s (fun u => (u.cart c).feeding = !(s.cart c).masque ∧ (u.cart c).closedAt = none ∧ u.regs = s.regs
      ∧ ∀ p, p < 16 → p % 4 = c → bitAt (u.port p).feedLost 0 = (s.cart c).masque))
  ∧ (∀ c t, (s.cart c).closedAt = some t → s.now < t + 5000000000 → Answers (.cartridgeStart c) s (fun u => u = s))
  ∧ (∀ c, c < 4 → (s.cart c).latched = true → Answers (.cartridgeLatchLift c) s (fun u => (u.cart c).latched = false ∧ (u.cart c).closedAt = none ∧ u.tiles = s.tiles ∧ u.hbm = s.hbm
      ∧ ((s.cart c).feeding = true → (u.cart c).feeding = false
          ∧ ∀ p, p < 16 → (p % 4 = c → bitAt (u.port p).feedLost 0 = true ∧ (bitAt (s.port p).feedLost 0 = false → u.bit (rLkStatus p) 21 = true))
            ∧ ((p + 1) % 4 = c → bitAt (u.port p).feedLost 1 = true ∧ (bitAt (s.port p).feedLost 1 = false → u.bit (rLkStatus p) 20 = true))
            ∧ (p % 4 = c → (s.port p).feedLost = 2 → s.train p = trUp → u.train p = trSignal))
      ∧ ((s.cart c).feeding = false → u.regs = s.regs)))

/-- R404, R407, R413, R448: the BMC's messages. Setting the endpoint identifier resets the BMC's channels; the other control, PLDM and SPDM messages are answered, in recovery PLDM and SPDM with
REJECTED, and change nothing but for a firmware update, which stages its image in the bank that does not run. The vendor message reads registers as firmware does, and writes counters only. Self-test
answers PLDM but for the sensors, and the registers, BUSY-SELFTEST. The
bodies of the replies are the standards', which the spec leaves out (free values).
The model's choices in it: logs 57 and 59. -/
def Obligations.BmcMessages : Prop := ∀ s : State,
  let kept := fun (u : State) => u.regs = s.regs ∧ u.tiles = s.tiles ∧ u.hbm = s.hbm ∧ u.mg = s.mg ∧ u.host = s.host ∧ u.loader = s.loader
  (∀ eid, s.fwUp = true ∨ s.recovery = true → Answers (.setEndpointId eid) s (fun u => u.mg = { s.mg with eid := eid % 256 } ∧ u.tiles = s.tiles ∧ u.hbm = s.hbm
      ∧ (∀ c, c < 8 → s.chanOwner c = 0x10 → u.reqFull c = false ∧ u.rspFull c = false ∧ (u.chnl c).discard = (s.chnl c).service)
      ∧ (∀ c, c < 8 → s.chanOwner c ≠ 0x10 → u.chnl c = s.chnl c ∧ u.get (rMbxCtrl c) = s.get (rMbxCtrl c))
      ∧ u.out = .mctp mtControl (Config.replyBody 1 eid (eid % 256)) :: s.out))
  ∧ (∀ body c row v, (c, row, v) ∈ [(Instr.getEndpointId body, 2, s.mg.eid), (.getMctpVersionSupport body, 3, 0x13), (.getMessageTypeSupport body, 4, 0x7E050100),
      (.getVendorDefinedMessageSupport body, 5, 0)] →
    Answers c s (fun u => kept u ∧ u.out = if s.fwUp || s.recovery then .mctp mtControl (Config.replyBody row (numOf body) v) :: s.out else s.out))
  ∧ (∀ body c row, (c, row) ∈ [(Instr.pldmBaseDiscovery body, 6), (.pldmFruData body, 8)] →
    Answers c s (fun u => kept u ∧ u.out = if s.recovery then .mctp mtPldm (Config.replyBody 0 (numOf body) 4) :: s.out
      else if s.fwUp then .mctp mtPldm (if s.selftest then Config.replyBody 0 (numOf body) 2 else Config.replyBody row (numOf body) 0) :: s.out else s.out))
  ∧ (∀ body c typ row v, (c, typ, row, v) ∈ [(Instr.getVersion body, mtSpdm, 10, 0x12),
      (.getCapabilities body, mtSpdm, 11, 0), (.negotiateAlgorithms body, mtSpdm, 12, 0), (.getDigests body, mtSpdm, 13, 0), (.getCertificate body, mtSpdm, 14, 0),
      (.getMeasurements body, mtSpdm, 16, s.measurements)] →
    Answers c s (fun u => kept u ∧ u.out = if s.recovery then .mctp typ (Config.replyBody 0 (numOf body) 4) :: s.out
      else if s.fwUp then .mctp typ (Config.replyBody row (numOf body) v) :: s.out else s.out))
  ∧ (∀ body c typ row, (c, typ, row) ∈ [(Instr.pldmSensorRead body, mtPldm, 7), (.challenge body, mtSpdm, 15)] →
    Answers c s (fun u => kept u ∧ ∃ v, u.out = if s.recovery then .mctp typ (Config.replyBody 0 (numOf body) 4) :: s.out
      else if s.fwUp then .mctp typ (Config.replyBody row (numOf body) v) :: s.out else s.out))
  ∧ (∀ image : List Byte, s.fwUp = true → s.recovery = false → s.selftest = true →
    Answers (.pldmFirmwareUpdate image) s (fun u => kept u ∧ u.out = .mctp mtPldm (Config.replyBody 0 0 2) :: s.out))
  ∧ (∀ image : List Byte, s.fwUp = true → s.recovery = false → s.selftest = false → let b := s.inactive
    let k := bankFrom image
    (image.length = 0 ∨ fwLimit < image.length → Answers (.pldmFirmwareUpdate image) s (fun u => kept u ∧ u.out = .mctp mtPldm (Config.replyBody 9 0 4) :: s.out))
    ∧ (0 < image.length → image.length ≤ fwLimit → Answers (.pldmFirmwareUpdate image) s (fun u => u.bank b = k ∧ u.bank (!b) = s.bank (!b) ∧ u.regs = s.regs ∧ u.tiles = s.tiles
        ∧ u.out = .mctp mtPldm (Config.replyBody 9 0 (if (s.setBank b k).bankOk b then 0 else 4)) :: s.out)))
  ∧ (∀ (size off : Nat) (val : W64), s.fwUp = true → s.selftest = true →
    Answers (.registerRead size off) s (fun u => kept u ∧ u.out.head? = some (.mctp mtVendor ([2, 2, 0, 0, 0, 0, 0, 0] ++ List.replicate 8 0)))
    ∧ Answers (.registerWrite size off val) s (fun u => kept u ∧ u.out = .mctp mtVendor [3, 2] :: s.out))
  ∧ (∀ size off : Nat, s.fwUp = true → s.selftest = false →
    (vendorOk size off = false → Answers (.registerRead size off) s (fun u => kept u ∧ u.out.head? = some (.mctp mtVendor ([2, 4, 0, 0, 0, 0, 0, 0] ++ List.replicate 8 0))))
    ∧ (vendorOk 8 off = true → Answers (.registerRead 8 off) s (fun u => kept u
        ∧ u.out.head? = some (.mctp mtVendor ([2, 0, 0, 0, 0, 0, 0, 0] ++ bytesOf 8 (s.live 16 off + 2 ^ 32 * s.live 16 (off + 4))))))
    ∧ (vendorOk 4 off = true → pairLo off = false → s.chainLo off = false → (4 ≤ off → pairLo (off - 4) = false ∧ s.chainLo (off - 4) = false) →
        Answers (.registerRead 4 off) s (fun u => kept u ∧ u.out.head? = some (.mctp mtVendor ([2, 0, 0, 0, 0, 0, 0, 0] ++ bytesOf 8 (s.live 16 off))))))
  ∧ (∀ (size off : Nat) (val : W64), s.fwUp = true → s.selftest = false →
    (vendorOk size off = false → Answers (.registerWrite size off val) s (fun u => kept u ∧ u.out = .mctp mtVendor [3, 4] :: s.out))
    ∧ (vendorOk size off = true → isCounter off = false → Answers (.registerWrite size off val) s (fun u => u.out = .mctp mtVendor [3, 4] :: s.out
        ∧ u.get rRwlIgnored = (s.get rRwlIgnored + 1) % 2 ^ 32 ∧ u.tiles = s.tiles ∧ u.hbm = s.hbm))
    ∧ (vendorOk 4 off = true → isCounter off = true → counterPair off = none → s.chainLo off = false → (TLW 0 0 ≤ off → s.enabled ((off - TLW 0 0) / 0x10000) = true) →
        Answers (.registerWrite 4 off val) s (fun u => u.raw off = val.toNat % 2 ^ 32 ∧ u.out = .mctp mtVendor [3, 0] :: s.out ∧ ∀ o, o ≠ off → u.raw o = s.raw o)))
  ∧ (s.fwUp = false → ∀ (size off : Nat) (val : W64), Answers (.registerRead size off) s (fun u => u = s) ∧ Answers (.registerWrite size off val) s (fun u => u = s))
end

