-- ==== Sys2Proof/Laws/Sparse.lean ====
section
/-! SUPPORT. What a sparse map does: a key reads as it was last written, every other key is left alone, and
every operation keeps the canonical form. -/

namespace Sys2Proof.Machine

variable {α : Type}

theorem smapGet_erase_same (d : Nat → α) (m : SMap α) (k : Nat) :
    smapGet d (smapErase m k) k = d k := by
  induction m with
  | nil => rfl
  | cons e m ih =>
    by_cases h : e.1 = k <;> simp_all [smapErase, smapGet]

theorem smapGet_erase_other (d : Nat → α) (m : SMap α) {k j : Nat} (h : j ≠ k) :
    smapGet d (smapErase m k) j = smapGet d m j := by
  induction m with
  | nil => rfl
  | cons e m ih =>
    by_cases h1 : e.1 = k
    · simp_all [smapErase, smapGet, List.filter_cons, Ne.symm h]
    · by_cases h2 : e.1 = j <;> simp_all [smapErase, smapGet]

theorem smapGet_insert_other (d : Nat → α) (m : SMap α) {k j : Nat} (v : α) (h : j ≠ k) :
    smapGet d (smapInsert m k v) j = smapGet d m j := by
  induction m with
  | nil => simp [smapInsert, smapGet, Ne.symm h]
  | cons e m ih =>
    by_cases h1 : k < e.1
    · simp [smapInsert, smapGet, h1, Ne.symm h]
    · simp [smapInsert, smapGet, h1, ih]

theorem smapGet_insert_same (d : Nat → α) (m : SMap α) (k : Nat) (v : α)
    (h : ∀ e ∈ m, e.1 ≠ k) : smapGet d (smapInsert m k v) k = v := by
  induction m with
  | nil => simp [smapInsert, smapGet]
  | cons e m ih =>
    have he := h e (by simp)
    by_cases h1 : k < e.1
    · simp [smapInsert, smapGet, h1]
    · simp [smapInsert, smapGet, h1, he, ih (fun x hx => h x (by simp [hx]))]

theorem smapErase_absent (m : SMap α) (k : Nat) : ∀ e ∈ smapErase m k, e.1 ≠ k := by
  intro e he
  simp [smapErase] at he
  exact he.2

/-- Read after write, at the key written. -/
@[simp] theorem smapGet_put_same [DecidableEq α] (d : Nat → α) (m : SMap α) (k : Nat) (v : α) :
    smapGet d (smapPut d m k v) k = v := by
  by_cases h : v = d k
  · simp [smapPut, h, smapGet_erase_same]
  · simp [smapPut, h, smapGet_insert_same d _ k v (smapErase_absent m k)]

/-- A write leaves every other key alone. -/
theorem smapGet_put_other [DecidableEq α] (d : Nat → α) (m : SMap α) {k j : Nat} (v : α) (h : j ≠ k) :
    smapGet d (smapPut d m k v) j = smapGet d m j := by
  by_cases h1 : v = d k
  · simp [smapPut, h1, smapGet_erase_other d m h]
  · simp [smapPut, h1, smapGet_insert_other d _ v h, smapGet_erase_other d m h]

/-- Both cases at once, for `simp`. -/
theorem smapGet_put [DecidableEq α] (d : Nat → α) (m : SMap α) (k j : Nat) (v : α) :
    smapGet d (smapPut d m k v) j = if j = k then v else smapGet d m j := by
  by_cases h : j = k
  · simp [h]
  · simp [h, smapGet_put_other d m v h]

theorem smapGet_drop (d : Nat → α) (m : SMap α) (p : Nat → Bool) (k : Nat) :
    smapGet d (smapDrop m p) k = if p k then d k else smapGet d m k := by
  induction m with
  | nil => simp [smapDrop, smapGet]
  | cons e m ih =>
    by_cases h1 : p e.1 = true
    · by_cases h2 : e.1 = k <;> simp_all [smapDrop, smapGet]
    · by_cases h2 : e.1 = k <;> simp_all [smapDrop, smapGet]

theorem smapRising_mono (m : SMap α) {a b : Nat} (h : a ≤ b) (hm : smapRising b m = true) :
    smapRising a m = true := by
  cases m with
  | nil => rfl
  | cons e m =>
    simp only [smapRising, Bool.and_eq_true, decide_eq_true_eq] at *
    exact ⟨by omega, hm.2⟩

theorem smapRising_filter (m : SMap α) (p : Nat × α → Bool) (lo : Nat) (h : smapRising lo m = true) :
    smapRising lo (m.filter p) = true := by
  induction m generalizing lo with
  | nil => rfl
  | cons e m ih =>
    simp only [smapRising, Bool.and_eq_true, decide_eq_true_eq] at h
    by_cases hp : p e = true
    · simp only [List.filter_cons, hp, if_true, smapRising, Bool.and_eq_true, decide_eq_true_eq]
      exact ⟨h.1, ih _ h.2⟩
    · simp only [List.filter_cons, hp, Bool.false_eq_true, if_false]
      exact ih _ (smapRising_mono m (by omega) h.2)

theorem smapRising_insert (m : SMap α) (k : Nat) (v : α) (lo : Nat) (hlo : lo ≤ k)
    (hk : ∀ e ∈ m, e.1 ≠ k) (h : smapRising lo m = true) : smapRising lo (smapInsert m k v) = true := by
  induction m generalizing lo with
  | nil => simp [smapInsert, smapRising, hlo]
  | cons e m ih =>
    have he := hk e (by simp)
    simp only [smapRising, Bool.and_eq_true, decide_eq_true_eq] at h
    by_cases h1 : k < e.1
    · simp only [smapInsert, h1, if_true, smapRising, Bool.and_eq_true, decide_eq_true_eq]
      exact ⟨hlo, by omega, h.2⟩
    · simp only [smapInsert, h1, if_false, smapRising, Bool.and_eq_true, decide_eq_true_eq]
      exact ⟨h.1, ih (e.1 + 1) (by omega) (fun x hx => hk x (by simp [hx])) h.2⟩

theorem smapInsert_all (p : Nat × α → Bool) (m : SMap α) (k : Nat) (v : α)
    (hm : m.all p = true) (hv : p (k, v) = true) : (smapInsert m k v).all p = true := by
  induction m with
  | nil => simp [smapInsert, hv]
  | cons e m ih =>
    simp only [List.all_cons, Bool.and_eq_true] at hm
    by_cases h1 : k < e.1
    · simp [smapInsert, h1, hv, hm.1]; simpa using hm.2
    · simp only [smapInsert, h1, if_false, List.all_cons, Bool.and_eq_true]
      exact ⟨hm.1, ih hm.2⟩

theorem smapWf_filter [DecidableEq α] (d : Nat → α) (m : SMap α) (p : Nat × α → Bool)
    (h : smapWf d m = true) : smapWf d (m.filter p) = true := by
  simp only [smapWf, Bool.and_eq_true] at *
  refine ⟨smapRising_filter m p 0 h.1, ?_⟩
  simp only [List.all_eq_true] at *
  intro x hx
  exact h.2 x (List.mem_filter.mp hx).1

/-- A write keeps the canonical form. -/
theorem smapWf_put [DecidableEq α] (d : Nat → α) (m : SMap α) (k : Nat) (v : α)
    (h : smapWf d m = true) : smapWf d (smapPut d m k v) = true := by
  have hE : smapWf d (smapErase m k) = true := smapWf_filter d m _ h
  by_cases h1 : v = d k
  · simpa [smapPut, h1] using hE
  · simp only [smapPut, h1, if_false]
    simp only [smapWf, Bool.and_eq_true] at *
    exact ⟨smapRising_insert _ k v 0 (by omega) (smapErase_absent m k) hE.1,
      smapInsert_all _ _ k v hE.2 (by simpa using h1)⟩

/-- Dropping keys keeps the canonical form. -/
theorem smapWf_drop [DecidableEq α] (d : Nat → α) (m : SMap α) (p : Nat → Bool)
    (h : smapWf d m = true) : smapWf d (smapDrop m p) = true := smapWf_filter d m _ h

theorem smapWf_bytesPut (m : SMap Byte) (a n v : Nat) (h : smapWf zeroByte m = true) :
    smapWf zeroByte (bytesPut m a n v) = true := by
  induction n generalizing m a v with
  | zero => simpa [bytesPut] using h
  | succ n ih => exact ih _ _ _ (smapWf_put _ _ _ _ h)

/-- A store leaves every byte outside its own alone. -/
theorem bytesPut_other (m : SMap Byte) (a n v b : Nat) (h : b < a ∨ a + n ≤ b) :
    smapGet zeroByte (bytesPut m a n v) b = smapGet zeroByte m b := by
  induction n generalizing m a v with
  | zero => rfl
  | succ n ih =>
    rw [bytesPut, ih _ _ _ (by omega), smapGet_put_other _ _ _ (by omega)]

theorem bytesGet_put_disjoint (m : SMap Byte) (a n v b k : Nat) (h : b + k ≤ a ∨ a + n ≤ b) :
    bytesGet (bytesPut m a n v) b k = bytesGet m b k := by
  induction k generalizing b with
  | zero => rfl
  | succ k ih =>
    simp only [bytesGet]
    rw [ih _ (by omega), bytesPut_other _ _ _ _ _ (by omega)]

/-- A load of the bytes just stored gives the value stored. -/
theorem bytesGet_put_same (m : SMap Byte) (a n v : Nat) :
    bytesGet (bytesPut m a n v) a n = v % 256 ^ n := by
  induction n generalizing m a v with
  | zero => simp [bytesGet, Nat.mod_one]
  | succ n ih =>
    simp only [bytesGet, bytesPut]
    rw [ih, bytesPut_other _ _ _ _ _ (by omega)]
    simp only [smapGet_put_same, BitVec.toNat_ofNat]
    have h : v % 256 ^ (n + 1) = v % 256 + 256 * (v / 256 % 256 ^ n) := by
      rw [show (256 : Nat) ^ (n + 1) = 256 * 256 ^ n by rw [Nat.pow_succ, Nat.mul_comm], Nat.mod_mul]
    simpa using h.symm

end Sys2Proof.Machine
end

