-- ==== Sys2Proof/Laws/Base.lean ====
section
/-! SUPPORT. No command changes the time, the fuses, the one-time storage or the queue, but for the few that are said to: one lemma for every operation
on the device, so that no later proof unfolds one for this. -/

set_option linter.unusedSimpArgs false

namespace Sys2Proof.Machine

theorem State.base_eta (s : State) : (s.now, s.fuse, s.mg.otp, s.pending) = s.base := Eq.trans rfl rfl

theorem State.base_ite (c : Prop) [Decidable c] (a b : State) : (if c then a else b).base = if c then a.base else b.base := by
  split <;> rfl

theorem foldl_base {α : Type} (f : State → α → State) (h : ∀ s x, (f s x).base = s.base) (l : List α) (s : State) :
    (l.foldl f s).base = s.base := by
  induction l generalizing s with
  | nil => rfl
  | cons x l ih => rw [List.foldl_cons, ih, h]

theorem foldlPair_base {α β : Type} (f : State × β → α → State × β) (h : ∀ p x, (f p x).1.base = p.1.base) (l : List α) (p : State × β) :
    (l.foldl f p).1.base = p.1.base := by
  induction l generalizing p with
  | nil => rfl
  | cons x l ih => rw [List.foldl_cons, ih, h]

theorem upto_base (f : Nat → State → State) (h : ∀ i s, (f i s).base = s.base) (lo n : Nat) (s : State) : (upto f lo n s).base = s.base := by
  induction n generalizing lo s with
  | zero => rfl
  | succ n ih => rw [upto, ih, h]

@[simp] theorem State.base_mk (now regs shadow latches fuse frame loader tiles routers pkts pktCtr hbmCtl hbm ports sync time fl ob serve host mg power library freeCtr out pending) : State.base ⟨now, regs, shadow, latches, fuse, frame, loader, tiles, routers, pkts, pktCtr, hbmCtl, hbm, ports, sync, time, fl, ob, serve, host, mg, power, library, freeCtr, out, pending⟩ = (now, fuse, mg.otp, pending) := Eq.trans rfl rfl

@[simp] theorem State.set_base (s : State) (off v : Nat) : (State.set s off v).base = s.base := by
  unfold State.set
  simp only [State.base_mk, State.base_eta, State.base_ite, ite_self]

@[simp] theorem State.orBits_base (s : State) (off mask : Nat) : (State.orBits s off mask).base = s.base := by
  unfold State.orBits
  simp only [State.base_mk, State.base_eta, State.base_ite, ite_self, State.set_base]

@[simp] theorem State.clrBits_base (s : State) (off mask : Nat) : (State.clrBits s off mask).base = s.base := by
  unfold State.clrBits
  simp only [State.base_mk, State.base_eta, State.base_ite, ite_self, State.set_base]

@[simp] theorem State.bump_base (s : State) (off k : Nat) : (State.bump s off k).base = s.base := by
  unfold State.bump
  simp only [State.base_mk, State.base_eta, State.base_ite, ite_self, State.set_base]

@[simp] theorem State.setField_base (s : State) (off lo len v : Nat) : (State.setField s off lo len v).base = s.base := by
  unfold State.setField
  simp only [State.base_mk, State.base_eta, State.base_ite, ite_self, State.set_base]

@[simp] theorem State.set64_base (s : State) (off v : Nat) : (State.set64 s off v).base = s.base := by
  unfold State.set64
  simp only [State.base_mk, State.base_eta, State.base_ite, ite_self, State.set_base]

@[simp] theorem State.bump64_base (s : State) (off k : Nat) : (State.bump64 s off k).base = s.base := by
  unfold State.bump64
  simp only [State.base_mk, State.base_eta, State.base_ite, ite_self, State.set64_base]

@[simp] theorem State.restore_base (s : State) (p : Nat → Bool) : (State.restore s p).base = s.base := by
  unfold State.restore
  simp only [State.base_mk, State.base_eta, State.base_ite, ite_self]

@[simp] theorem State.setTile_base (s : State) (n : Nat) (tl : Tile) : (State.setTile s n tl).base = s.base := by
  unfold State.setTile
  simp only [State.base_mk, State.base_eta, State.base_ite, ite_self]

@[simp] theorem State.draw_base (s : State) : (State.draw s).2.base = s.base := by
  unfold State.draw
  simp only [State.base_mk, State.base_eta, State.base_ite, ite_self]

@[simp] theorem State.emit_base (s : State) (o : Out) : (State.emit s o).base = s.base := by
  unfold State.emit
  simp only [State.base_mk, State.base_eta, State.base_ite, ite_self]

@[simp] theorem State.raiseVec_base (s : State) (v : Nat) : (State.raiseVec s v).base = s.base := by
  unfold State.raiseVec
  repeat' (first | (simp only [State.base_mk, State.base_eta, State.base_ite, ite_self, State.emit_base]; done) | split)

@[simp] theorem State.fwLog_base (s : State) (r : FRec) (k : Nat) : (State.fwLog s r k).base = s.base := by
  unfold State.fwLog
  simp only [State.base_mk, State.base_eta, State.base_ite, ite_self, State.emit_base]

@[simp] theorem State.flStore_base (s : State) (r : FRec) : (State.flStore s r).base = s.base := by
  unfold State.flStore
  simp only [State.base_mk, State.base_eta, State.base_ite, ite_self, State.bump_base, State.fwLog_base]

@[simp] theorem State.flNotify_base (s : State) (r : FRec) : (State.flNotify s r).base = s.base := by
  unfold State.flNotify
  simp only [State.base_mk, State.base_eta, State.base_ite, ite_self, State.raiseVec_base]

@[simp] theorem State.flWrite_base (s : State) (r : FRec) : (State.flWrite s r).base = s.base := by
  unfold State.flWrite
  simp only [State.base_ite, ite_self, State.orBits_base, State.bump_base, State.flStore_base, State.flNotify_base]

@[simp] theorem State.flRaise_base (s : State) (r : FRec) (sub : Nat) : (State.flRaise s r sub).base = s.base := by
  unfold State.flRaise
  simp only [State.base_mk, State.base_eta, State.base_ite, ite_self, State.bump_base, State.flWrite_base]

@[simp] theorem State.recordSub_base (s : State) (cls kind idx detail sub : Nat) : (State.recordSub s cls kind idx detail sub).base = s.base := by
  unfold State.recordSub
  simp only [State.base_mk, State.base_eta, State.base_ite, ite_self, State.flRaise_base]

@[simp] theorem State.record_base (s : State) (cls kind idx detail : Nat) : (State.record s cls kind idx detail).base = s.base := by
  unfold State.record
  simp only [State.base_mk, State.base_eta, State.base_ite, ite_self, State.recordSub_base]

@[simp] theorem State.recordInj_base (s : State) (cls kind idx detail : Nat) (inj : Bool) : (State.recordInj s cls kind idx detail inj).base = s.base := by
  unfold State.recordInj
  simp only [State.base_mk, State.base_eta, State.base_ite, ite_self, State.flRaise_base]

@[simp] theorem State.frameBit_base (s : State) (i : Nat) : (State.frameBit s i).base = s.base := by
  unfold State.frameBit
  simp only [State.base_mk, State.base_eta, State.base_ite, ite_self]

@[simp] theorem State.cause_base (s : State) (c : Nat) : (State.cause s c).base = s.base := by
  unfold State.cause
  simp only [State.base_mk, State.base_eta, State.base_ite, ite_self]

@[simp] theorem State.hbmWrite_base (s : State) (hla : Nat) (v : Line) : (State.hbmWrite s hla v).base = s.base := by
  unfold State.hbmWrite
  simp only [State.base_mk, State.base_eta, State.base_ite, ite_self, *]

@[simp] theorem State.hbmBytes_base (s : State) (a n v : Nat) : (State.hbmBytes s a n v).base = s.base := by
  unfold State.hbmBytes
  simp only [State.base_mk, State.base_eta, State.base_ite, ite_self]

@[simp] theorem State.hbLast_base (s : State) (c kind l : Nat) : (State.hbLast s c kind l).base = s.base := by
  unfold State.hbLast
  simp only [State.base_mk, State.base_eta, State.base_ite, ite_self, State.set_base]

@[simp] theorem State.hbmHostRead_base (s : State) (hla : Nat) (host : Bool) : (State.hbmHostRead s hla host).1.base = s.base := by
  unfold State.hbmHostRead
  repeat' (first | (simp only [State.base_mk, State.base_eta, State.base_ite, ite_self, State.bump_base, State.hbLast_base, State.orBits_base, State.record_base, *]; done) | split)

@[simp] theorem State.ringWrite_base (s : State) (r : Ring) (bytes : Nat) : (State.ringWrite s r bytes).base = s.base := by
  unfold State.ringWrite
  simp only [State.base_mk, State.base_eta, State.base_ite, ite_self, State.bump_base, State.hbmBytes_base]

@[simp] theorem State.faultToRing_base (s : State) (r : FRec) : (State.faultToRing s r).base = s.base := by
  unfold State.faultToRing
  simp only [State.base_mk, State.base_eta, State.base_ite, ite_self, State.orBits_base, State.bump_base, State.ringWrite_base]

@[simp] theorem State.drainFaults_base (s : State) : (State.drainFaults s).base = s.base := by
  unfold State.drainFaults
  simp only [State.base_mk, State.base_eta, State.base_ite, ite_self, implies_true, foldl_base, foldlPair_base, State.faultToRing_base]

@[simp] theorem State.setCounter_base (s : State) (i : Nat) (c : Counter) : (State.setCounter s i c).base = s.base := by
  unfold State.setCounter
  simp only [State.base_mk, State.base_eta, State.base_ite, ite_self, State.set_base]

@[simp] theorem State.syncApply_base (s : State) (x : SyncStep) : (State.syncApply s x).base = s.base := by
  unfold State.syncApply
  simp only [State.base_mk, State.base_eta, State.base_ite, ite_self, State.setCounter_base, State.recordSub_base, State.orBits_base, State.bump_base, State.raiseVec_base]

@[simp] theorem State.syncIn_base (s : State) (x : SyncStep) : (State.syncIn s x).base = s.base := by
  unfold State.syncIn
  simp only [State.base_mk, State.base_eta, State.base_ite, ite_self]

@[simp] theorem State.syncRun_base (s : State) : (State.syncRun s).base = s.base := by
  unfold State.syncRun
  simp only [State.base_mk, State.base_eta, State.base_ite, ite_self, implies_true, foldl_base, foldlPair_base, State.syncApply_base]

@[simp] theorem State.syncShift_base (s : State) (k : Nat) : (State.syncShift s k).base = s.base := by
  unfold State.syncShift
  simp only [State.base_mk, State.base_eta, State.base_ite, ite_self, implies_true, foldl_base, foldlPair_base]

@[simp] theorem State.putTile_base (s : State) (n : Nat) (tl : Tile) : (State.putTile s n tl).base = s.base := by
  unfold State.putTile
  simp only [State.base_mk, State.base_eta, State.base_ite, ite_self, implies_true, foldl_base, foldlPair_base, State.setTile_base, State.recordInj_base]

@[simp] theorem State.seen_base (s : State) (t : Nat) : (State.seen s t).base = s.base := by
  unfold State.seen
  simp only [State.base_mk, State.base_eta, State.base_ite, ite_self, State.syncRun_base]

@[simp] theorem State.afterTile_base (s : State) (n : Nat) (old new : Tile) : (State.afterTile s n old new).base = s.base := by
  unfold State.afterTile
  simp only [State.base_mk, State.base_eta, State.base_ite, ite_self, State.frameBit_base, State.putTile_base]

@[simp] theorem State.tileAt_base (s : State) (n t : Nat) (f : Tile → Tile) : (State.tileAt s n t f).base = s.base := by
  unfold State.tileAt
  simp only [State.base_mk, State.base_eta, State.base_ite, ite_self, State.afterTile_base, State.seen_base]

@[simp] theorem State.tileEvent_base (s : State) (n t : Nat) (f : Tile → Tile) : (State.tileEvent s n t f).base = s.base := by
  unfold State.tileEvent
  simp only [State.base_mk, State.base_eta, State.base_ite, ite_self, State.tileAt_base]

@[simp] theorem State.tileSync_base (s : State) (n t : Nat) : (State.tileSync s n t).base = s.base := by
  unfold State.tileSync
  simp only [State.base_mk, State.base_eta, State.base_ite, ite_self, State.tileAt_base]

@[simp] theorem State.arrivalEvent_base (s : State) (n t : Nat) (f : Tile → Tile) : (State.arrivalEvent s n t f).base = s.base := by
  unfold State.arrivalEvent
  simp only [State.base_mk, State.base_eta, State.base_ite, ite_self, State.tileAt_base]

@[simp] theorem State.setChnl_base (s : State) (c : Nat) (v : Chnl) : (State.setChnl s c v).base = s.base := by
  unfold State.setChnl
  simp only [State.base_mk, State.base_eta, State.base_ite, ite_self]

@[simp] theorem State.touch_base (s : State) (a : Agent) : (State.touch s a).base = s.base := by
  unfold State.touch
  repeat' (first | (simp only [State.base_mk, State.base_eta, State.base_ite, ite_self]; done) | split)

@[simp] theorem State.ignored_base (s : State) : (State.ignored s).base = s.base := by
  unfold State.ignored
  simp only [State.base_mk, State.base_eta, State.base_ite, ite_self, State.orBits_base, State.bump_base]

@[simp] theorem State.chanIdle_base (s : State) (c : Nat) : (State.chanIdle s c).base = s.base := by
  unfold State.chanIdle
  simp only [State.base_mk, State.base_eta, State.base_ite, ite_self, State.setChnl_base, State.clrBits_base]

@[simp] theorem State.putReply_base (s : State) (c : Nat) (ws : List Nat) : (State.putReply s c ws).base = s.base := by
  unfold State.putReply
  simp only [State.base_mk, State.base_eta, State.base_ite, ite_self, implies_true, foldl_base, foldlPair_base, State.set_base]

@[simp] theorem State.postChan_base (s : State) (c status : Nat) (ws : List Nat) : (State.postChan s c status ws).base = s.base := by
  unfold State.postChan
  simp only [State.base_mk, State.base_eta, State.base_ite, ite_self, State.setChnl_base, State.putReply_base, State.orBits_base, State.chanIdle_base, State.setField_base, State.clrBits_base, State.emit_base, State.raiseVec_base]

@[simp] theorem State.reply_base (s : State) (r : Req) (status : Nat) (ws : List Nat) : (State.reply s r status ws).base = s.base := by
  unfold State.reply
  repeat' (first | (simp only [State.base_mk, State.base_eta, State.base_ite, ite_self, State.postChan_base]; done) | split)

@[simp] theorem State.answer_base (s : State) (r : Req) (op : Nat) (f : List W32 → State) (hf : ∀ y0, (f y0).base = s.base) : (State.answer s r op f).base = s.base := by
  unfold State.answer
  simp only [State.base_mk, State.base_eta, State.base_ite, ite_self, State.reply_base, *]

@[simp] theorem State.xlateFault_base (s : State) (ctx vid : Nat) : (State.xlateFault s ctx vid).base = s.base := by
  unfold State.xlateFault
  simp only [State.base_mk, State.base_eta, State.base_ite, ite_self, State.record_base, State.orBits_base, State.bump_base]

@[simp] theorem State.syncNow_base (s : State) (i : Nat) (isArm : Bool) (inc : Nat) : (State.syncNow s i isArm inc).base = s.base := by
  unfold State.syncNow
  simp only [State.base_mk, State.base_eta, State.base_ite, ite_self, State.syncApply_base]

@[simp] theorem State.syncAdd_base (s : State) (i eff : Nat) (isArm : Bool) (inc : Nat) : (State.syncAdd s i eff isArm inc).base = s.base := by
  unfold State.syncAdd
  simp only [State.base_mk, State.base_eta, State.base_ite, ite_self, State.syncIn_base]

@[simp] theorem State.syncPart_base (s : State) (i eff p : Nat) (fail : Bool) : (State.syncPart s i eff p fail).base = s.base := by
  unfold State.syncPart
  simp only [State.base_mk, State.base_eta, State.base_ite, ite_self, State.syncIn_base]

@[simp] theorem State.syncErr_base (s : State) (i eff : Nat) : (State.syncErr s i eff).base = s.base := by
  unfold State.syncErr
  simp only [State.base_mk, State.base_eta, State.base_ite, ite_self, State.syncIn_base]

@[simp] theorem State.hangCheck_base (s : State) : (State.hangCheck s).base = s.base := by
  unfold State.hangCheck
  simp only [State.base_mk, State.base_eta, State.base_ite, ite_self, State.clrBits_base]

@[simp] theorem State.hang_base (s : State) (n t cause ctx vid : Nat) (ctr : Option Nat) (count : Nat) : (State.hang s n t cause ctx vid ctr count).base = s.base := by
  unfold State.hang
  simp only [State.base_mk, State.base_eta, State.base_ite, ite_self, State.afterTile_base, State.orBits_base, State.bump_base, State.cause_base, State.setField_base, State.record_base]

@[simp] theorem State.syncIssue_base (s : State) (n t : Nat) (c : Cmd) : (State.syncIssue s n t c).base = s.base := by
  unfold State.syncIssue
  simp only [State.base_mk, State.base_eta, State.base_ite, ite_self, State.tileEvent_base]

@[simp] theorem State.syncLocal_base (s : State) (n t sop : Nat) (f : Cmd → Nat → State → State) (hf : ∀ y0 y1 y2, (f y0 y1 y2).base = y2.base) : (State.syncLocal s n t sop f).base = s.base := by
  unfold State.syncLocal
  repeat' (first | (simp only [State.base_mk, State.base_eta, State.base_ite, ite_self, State.syncIssue_base, State.xlateFault_base, *]; done) | split | simp only [State.base_mk, State.base_eta, State.base_ite, ite_self, State.syncIssue_base, State.xlateFault_base, *])

@[simp] theorem effMvSyncSignal_base (n t : Nat) (s : State) : (effMvSyncSignal n t s).base = s.base := by
  unfold effMvSyncSignal
  simp only [State.base_mk, State.base_eta, State.base_ite, ite_self, implies_true, State.syncLocal_base, State.syncAdd_base]

@[simp] theorem effMvSyncArm_base (n t : Nat) (s : State) : (effMvSyncArm n t s).base = s.base := by
  unfold effMvSyncArm
  simp only [State.base_mk, State.base_eta, State.base_ite, ite_self, implies_true, State.syncLocal_base, State.syncAdd_base]

@[simp] theorem effMvSyncPart_base (n t : Nat) (s : State) : (effMvSyncPart n t s).base = s.base := by
  unfold effMvSyncPart
  simp only [State.base_mk, State.base_eta, State.base_ite, ite_self, implies_true, State.syncLocal_base, State.syncPart_base]

@[simp] theorem effMvSyncWait_base (n t : Nat) (s : State) : (effMvSyncWait n t s).base = s.base := by
  unfold effMvSyncWait
  repeat' (first | (simp only [State.base_mk, State.base_eta, State.base_ite, ite_self, State.tileEvent_base, State.hang_base, State.xlateFault_base, State.syncIssue_base]; done) | split | simp only [State.base_mk, State.base_eta, State.base_ite, ite_self, State.tileEvent_base, State.hang_base, State.xlateFault_base, State.syncIssue_base])

@[simp] theorem State.vigilOver_base (s : State) (n t : Nat) : (State.vigilOver s n t).base = s.base := by
  unfold State.vigilOver
  repeat' (first | (simp only [State.base_mk, State.base_eta, State.base_ite, ite_self, State.hang_base, State.tileSync_base]; done) | split)

@[simp] theorem effVigilExpiry_base (n : Nat) (s : State) : (effVigilExpiry n s).base = s.base := by
  unfold effVigilExpiry
  simp only [State.base_mk, State.base_eta, State.base_ite, ite_self, State.vigilOver_base]

@[simp] theorem effSyDoorbell_base (a : Agent) (f : Nat) (val : W32) (s : State) : (effSyDoorbell a f val s).base = s.base := by
  unfold effSyDoorbell
  repeat' (first | (simp only [State.base_mk, State.base_eta, State.base_ite, ite_self, State.touch_base, State.ignored_base, State.bump_base, State.xlateFault_base, State.syncNow_base]; done) | split | simp only [State.base_mk, State.base_eta, State.base_ite, ite_self, State.touch_base, State.ignored_base, State.bump_base, State.xlateFault_base, State.syncNow_base])

@[simp] theorem State.manualLog_base (s : State) (r : Req) (op i : Nat) : (State.manualLog s r op i).base = s.base := by
  unfold State.manualLog
  simp only [State.base_mk, State.base_eta, State.base_ite, ite_self, State.set_base, State.record_base]

@[simp] theorem State.manual_base (s : State) (r : Req) (op : Nat) : (State.manual s r op).base = s.base := by
  unfold State.manual
  rw [State.answer_base]
  intro ws
  dsimp only
  repeat' (first | (simp only [State.base_mk, State.base_eta, State.base_ite, ite_self, State.bump_base, State.reply_base, State.syncApply_base, State.manualLog_base, State.hangCheck_base]; done) | split)

@[simp] theorem effSySet_base (r : Req) (s : State) : (effSySet r s).base = s.base := by
  unfold effSySet
  simp only [State.base_mk, State.base_eta, State.base_ite, ite_self, State.manual_base]

@[simp] theorem effSyClear_base (r : Req) (s : State) : (effSyClear r s).base = s.base := by
  unfold effSyClear
  simp only [State.base_mk, State.base_eta, State.base_ite, ite_self, State.manual_base]

@[simp] theorem State.hbmClear_base (s : State) (lo n : Nat) : (State.hbmClear s lo n).base = s.base := by
  unfold State.hbmClear
  simp only [State.base_mk, State.base_eta, State.base_ite, ite_self]

@[simp] theorem State.hbmFields_base (s : State) (a : Nat) (fs : List (Nat × Nat × Nat)) : (State.hbmFields s a fs).base = s.base := by
  unfold State.hbmFields
  simp only [State.base_mk, State.base_eta, State.base_ite, ite_self, implies_true, foldl_base, foldlPair_base, State.hbmBytes_base]

@[simp] theorem State.dumpTile_base (s : State) (a n : Nat) : (State.dumpTile s a n).base = s.base := by
  unfold State.dumpTile
  simp only [State.base_mk, State.base_eta, State.base_ite, ite_self, implies_true, foldl_base, foldlPair_base, State.hbmFields_base]

@[simp] theorem State.dumpSram_base (s : State) (hla n : Nat) : (State.dumpSram s hla n).base = s.base := by
  unfold State.dumpSram
  simp only [State.base_mk, State.base_eta, State.base_ite, ite_self, implies_true, foldl_base, foldlPair_base, State.hbmBytes_base, State.hbmWrite_base, *]

@[simp] theorem State.dump_base (s : State) : (State.dump s).base = s.base := by
  unfold State.dump
  simp only [State.base_mk, State.base_eta, State.base_ite, ite_self, implies_true, foldl_base, foldlPair_base, State.hbmClear_base, State.hbmFields_base, State.hbmBytes_base, State.dumpTile_base, State.dumpSram_base]

@[simp] theorem effHangDump_base (s : State) : (effHangDump s).base = s.base := by
  unfold effHangDump
  simp only [State.base_mk, State.base_eta, State.base_ite, ite_self, State.setField_base, State.dump_base, State.orBits_base, State.hangCheck_base]

@[simp] theorem State.setPort_base (s : State) (p : Nat) (q : Port) : (State.setPort s p q).base = s.base := by
  unfold State.setPort
  simp only [State.base_mk, State.base_eta, State.base_ite, ite_self]

@[simp] theorem State.updPort_base (s : State) (p : Nat) (f : Port → Port) : (State.updPort s p f).base = s.base := by
  unfold State.updPort
  simp only [State.base_mk, State.base_eta, State.base_ite, ite_self, State.setPort_base]

@[simp] theorem State.updChan_base (s : State) (p vc : Nat) (f : Chan → Chan) : (State.updChan s p vc f).base = s.base := by
  unfold State.updChan
  simp only [State.base_mk, State.base_eta, State.base_ite, ite_self, State.updPort_base]

@[simp] theorem State.updEntry_base (s : State) (p vc k : Nat) (f : EntryRun → EntryRun) : (State.updEntry s p vc k f).base = s.base := by
  unfold State.updEntry
  simp only [State.base_mk, State.base_eta, State.base_ite, ite_self, State.updPort_base]

@[simp] theorem State.toEgress_base (s : State) (p : Nat) (x : TxPkt) : (State.toEgress s p x).base = s.base := by
  unfold State.toEgress
  simp only [State.base_mk, State.base_eta, State.base_ite, ite_self, State.updChan_base]

@[simp] theorem State.sendOut_base (s : State) (p header : Nat) (lines : List LineBits) (marks : List Nat) (leap : Bool) : (State.sendOut s p header lines marks leap).base = s.base := by
  unfold State.sendOut
  simp only [State.base_mk, State.base_eta, State.base_ite, ite_self, State.toEgress_base]

@[simp] theorem State.lcQueue_base (s : State) (p : Nat) (m : LcMsg) : (State.lcQueue s p m).base = s.base := by
  unfold State.lcQueue
  simp only [State.base_mk, State.base_eta, State.base_ite, ite_self, State.updPort_base]

@[simp] theorem State.abandonOut_base (s : State) (p vc id : Nat) (trailer : Option Nat) : (State.abandonOut s p vc id trailer).base = s.base := by
  unfold State.abandonOut
  repeat' (first | (simp only [State.base_mk, State.base_eta, State.base_ite, ite_self, State.lcQueue_base, State.bump_base, State.updChan_base]; done) | split)

@[simp] theorem State.forwardStart_base (s : State) (p vc k h : Nat) (ls : List LineBits) (marks : List Nat) : (State.forwardStart s p vc k h ls marks).base = s.base := by
  unfold State.forwardStart
  simp only [State.base_mk, State.base_eta, State.base_ite, ite_self, State.updEntry_base, State.bump_base, State.toEgress_base]

@[simp] theorem State.forwardAbandon_base (s : State) (p vc k : Nat) : (State.forwardAbandon s p vc k).base = s.base := by
  unfold State.forwardAbandon
  repeat' (first | (simp only [State.base_mk, State.base_eta, State.base_ite, ite_self, State.forwardStart_base, State.abandonOut_base]; done) | split | simp only [State.base_mk, State.base_eta, State.base_ite, ite_self, State.forwardStart_base, State.abandonOut_base])

@[simp] theorem State.forwardBreak_base (s : State) (p vc k : Nat) : (State.forwardBreak s p vc k).base = s.base := by
  unfold State.forwardBreak
  simp only [State.base_mk, State.base_eta, State.base_ite, ite_self, State.updEntry_base, State.forwardAbandon_base]

@[simp] theorem State.forwardLine_base (s : State) (p vc k j : Nat) (v : LineBits) (poison : Bool) : (State.forwardLine s p vc k j v poison).base = s.base := by
  unfold State.forwardLine
  repeat' (first | (simp only [State.base_mk, State.base_eta, State.base_ite, ite_self, State.forwardStart_base, State.updChan_base]; done) | split | simp only [State.base_mk, State.base_eta, State.base_ite, ite_self, State.forwardStart_base, State.updChan_base])

@[simp] theorem State.forwardClose_base (s : State) (p vc k trailer : Nat) : (State.forwardClose s p vc k trailer).base = s.base := by
  unfold State.forwardClose
  repeat' (first | (simp only [State.base_mk, State.base_eta, State.base_ite, ite_self, State.updChan_base]; done) | split)

@[simp] theorem State.lkCount_base (s : State) (p counter bit : Nat) : (State.lkCount s p counter bit).base = s.base := by
  unfold State.lkCount
  simp only [State.base_mk, State.base_eta, State.base_ite, ite_self, State.orBits_base, State.bump_base]

@[simp] theorem State.setTrain_base (s : State) (p st : Nat) : (State.setTrain s p st).base = s.base := by
  unfold State.setTrain
  simp only [State.base_mk, State.base_eta, State.base_ite, ite_self, State.updPort_base, State.setField_base]

@[simp] theorem State.toSignal_base (s : State) (p : Nat) : (State.toSignal s p).base = s.base := by
  unfold State.toSignal
  simp only [State.base_mk, State.base_eta, State.base_ite, ite_self, State.updPort_base, State.setTrain_base, State.set_base]

@[simp] theorem State.entryFails_base (s : State) (p vc k : Nat) (leap : Bool) : (State.entryFails s p vc k leap).base = s.base := by
  unfold State.entryFails
  simp only [State.base_mk, State.base_eta, State.base_ite, ite_self, State.updEntry_base, State.forwardBreak_base]

@[simp] theorem State.curFails_base (s : State) (p : Nat) : (State.curFails s p).base = s.base := by
  unfold State.curFails
  repeat' (first | (simp only [State.base_mk, State.base_eta, State.base_ite, ite_self, State.updPort_base, State.entryFails_base]; done) | split | simp only [State.base_mk, State.base_eta, State.base_ite, ite_self, State.updPort_base, State.entryFails_base])

@[simp] theorem State.leaveUp_base (s : State) (p : Nat) : (State.leaveUp s p).base = s.base := by
  unfold State.leaveUp
  simp only [State.base_mk, State.base_eta, State.base_ite, ite_self, State.orBits_base, State.curFails_base, State.toSignal_base, State.updPort_base, State.record_base]

@[simp] theorem State.loseFeed_base (s : State) (p : Nat) (second inj : Bool) : (State.loseFeed s p second inj).base = s.base := by
  unfold State.loseFeed
  simp only [State.base_mk, State.base_eta, State.base_ite, ite_self, State.updPort_base, State.orBits_base, State.recordInj_base, State.leaveUp_base]

@[simp] theorem State.setFeed_base (s : State) (p : Nat) (second on : Bool) : (State.setFeed s p second on).base = s.base := by
  unfold State.setFeed
  simp only [State.base_mk, State.base_eta, State.base_ite, ite_self, State.updPort_base]

@[simp] theorem State.eachTile_base (s : State) (f : Nat → State → State) (hf : ∀ y0 y1, (f y0 y1).base = y1.base) : (State.eachTile s f).base = s.base := by
  unfold State.eachTile
  simp only [State.base_mk, State.base_eta, State.base_ite, ite_self, implies_true, foldl_base, foldlPair_base, *]

@[simp] theorem State.masqueDone_base (s : State) (m : Masque) : (State.masqueDone s m).base = s.base := by
  unfold State.masqueDone
  simp only [State.base_mk, State.base_eta, State.base_ite, ite_self, State.orBits_base, State.flRaise_base]

@[simp] theorem State.masqueFire_base (s : State) (m : Masque) : (State.masqueFire s m).base = s.base := by
  unfold State.masqueFire
  simp only [State.base_mk, State.base_eta, State.base_ite, ite_self, State.bump_base, State.masqueDone_base]

@[simp] theorem State.masqueSkip_base (s : State) (m : Masque) (k : Nat) : (State.masqueSkip s m k).base = s.base := by
  unfold State.masqueSkip
  simp only [State.base_mk, State.base_eta, State.base_ite, ite_self, State.bump_base]

@[simp] theorem State.flipSram_base (s : State) (n line w : Nat) (bits : List Nat) : (State.flipSram s n line w bits).base = s.base := by
  unfold State.flipSram
  simp only [State.base_mk, State.base_eta, State.base_ite, ite_self, State.setTile_base]

@[simp] theorem State.feedsLost_base (s : State) (c : Nat) (inj : Bool) : (State.feedsLost s c inj).base = s.base := by
  unfold State.feedsLost
  simp only [State.base_mk, State.base_eta, State.base_ite, ite_self, implies_true, foldl_base, foldlPair_base, State.recordInj_base, State.loseFeed_base]

@[simp] theorem State.setCart_base (s : State) (c : Nat) (v : Cart) : (State.setCart s c v).base = s.base := by
  unfold State.setCart
  simp only [State.base_mk, State.base_eta, State.base_ite, ite_self]

@[simp] theorem State.feeds_base (s : State) (c : Nat) (on : Bool) : (State.feeds s c on).base = s.base := by
  unfold State.feeds
  simp only [State.base_mk, State.base_eta, State.base_ite, ite_self, implies_true, foldl_base, foldlPair_base, State.setFeed_base, State.setCart_base]

@[simp] theorem State.masqueAtTick_base (s : State) (m : Masque) : (State.masqueAtTick s m).base = s.base := by
  unfold State.masqueAtTick
  simp only [State.base_mk, State.base_eta, State.base_ite, ite_self, State.masqueFire_base, State.masqueSkip_base, State.feedsLost_base, State.setCart_base, State.flipSram_base, State.setTile_base]

@[simp] theorem State.masqueTick_base (s : State) : (State.masqueTick s).base = s.base := by
  unfold State.masqueTick
  simp only [State.base_mk, State.base_eta, State.base_ite, ite_self, implies_true, foldl_base, foldlPair_base, State.masqueSkip_base, State.masqueAtTick_base]

@[simp] theorem State.masqueEnd_base (s : State) : (State.masqueEnd s).base = s.base := by
  unfold State.masqueEnd
  simp only [State.base_mk, State.base_eta, State.base_ite, ite_self, implies_true, foldl_base, foldlPair_base, State.masqueSkip_base, State.masqueDone_base]

@[simp] theorem State.feedMasques_base (s : State) : (State.feedMasques s).base = s.base := by
  unfold State.feedMasques
  simp only [State.base_mk, State.base_eta, State.base_ite, ite_self, implies_true, foldl_base, foldlPair_base, State.feeds_base, State.setCart_base]

@[simp] theorem State.exchDrop_base (s : State) (p k : Nat) : (State.exchDrop s p k).base = s.base := by
  unfold State.exchDrop
  simp only [State.base_mk, State.base_eta, State.base_ite, ite_self, State.orBits_base, State.bump_base, State.record_base]

@[simp] theorem State.enter_base (s : State) (st : Nat) : (State.enter s st).base = s.base := by
  unfold State.enter
  simp only [State.base_mk, State.base_eta, State.base_ite, ite_self, State.raiseVec_base, State.setField_base]

@[simp] theorem State.dropActions_base (s : State) : (State.dropActions s).base = s.base := by
  unfold State.dropActions
  simp only [State.base_mk, State.base_eta, State.base_ite, ite_self, State.bump_base]

@[simp] theorem State.dropIcal_base (s : State) : (State.dropIcal s).base = s.base := by
  unfold State.dropIcal
  simp only [State.base_mk, State.base_eta, State.base_ite, ite_self, State.setField_base]

@[simp] theorem State.dropStep_base (s : State) : (State.dropStep s).base = s.base := by
  unfold State.dropStep
  simp only [State.base_mk, State.base_eta, State.base_ite, ite_self, State.setField_base]

@[simp] theorem State.dropMasques_base (s : State) : (State.dropMasques s).base = s.base := by
  unfold State.dropMasques
  simp only [State.base_mk, State.base_eta, State.base_ite, ite_self, State.bump_base]

@[simp] theorem State.dropArms_base (s : State) : (State.dropArms s).base = s.base := by
  unfold State.dropArms
  simp only [State.base_mk, State.base_eta, State.base_ite, ite_self, State.orBits_base, State.bump_base]

@[simp] theorem State.discard_base (s : State) : (State.discard s).base = s.base := by
  unfold State.discard
  simp only [State.base_mk, State.base_eta, State.base_ite, ite_self, implies_true, foldl_base, foldlPair_base, State.dropArms_base, State.dropMasques_base, State.dropStep_base, State.dropIcal_base, State.dropActions_base, State.exchDrop_base]

@[simp] theorem State.stopPlan_base (s : State) (cs : List Nat) : (State.stopPlan s cs).base = s.base := by
  unfold State.stopPlan
  simp only [State.base_mk, State.base_eta, State.base_ite, ite_self, implies_true, State.discard_base, State.eachTile_base, State.setTile_base, State.setField_base, State.enter_base]

@[simp] theorem State.traceToRing_base (s : State) (r : TraceRec) : (State.traceToRing s r).base = s.base := by
  unfold State.traceToRing
  simp only [State.base_mk, State.base_eta, State.base_ite, ite_self, State.ringWrite_base, State.orBits_base, State.bump_base]

@[simp] theorem State.writeTrace_base (s : State) : (State.writeTrace s).base = s.base := by
  unfold State.writeTrace
  simp only [State.base_mk, State.base_eta, State.base_ite, ite_self, implies_true, foldl_base, foldlPair_base, State.traceToRing_base, State.orBits_base, State.bump_base]

@[simp] theorem State.hashToRing_base (s : State) (r : HashRec) : (State.hashToRing s r).base = s.base := by
  unfold State.hashToRing
  simp only [State.base_mk, State.base_eta, State.base_ite, ite_self, State.ringWrite_base, State.bump_base]

@[simp] theorem State.writeHashes_base (s : State) : (State.writeHashes s).base = s.base := by
  unfold State.writeHashes
  simp only [State.base_mk, State.base_eta, State.base_ite, ite_self, implies_true, foldl_base, foldlPair_base, State.hashToRing_base]

@[simp] theorem State.sealManifest_base (s : State) (k : Nat) : (State.sealManifest s k).base = s.base := by
  unfold State.sealManifest
  simp only [State.base_mk, State.base_eta, State.base_ite, ite_self, State.set64_base, State.hbmWrite_base, State.bump_base]

@[simp] theorem State.hazardRecord_base (n : Nat) (s : State) : (State.hazardRecord n s).base = s.base := by
  unfold State.hazardRecord
  simp only [State.base_mk, State.base_eta, State.base_ite, ite_self, State.record_base]

@[simp] theorem State.takeTrace_base (n : Nat) (s : State) : (State.takeTrace n s).base = s.base := by
  unfold State.takeTrace
  simp only [State.base_mk, State.base_eta, State.base_ite, ite_self, State.setTile_base]

@[simp] theorem State.marginWorst_base (s : State) : (State.marginWorst s).base = s.base := by
  unfold State.marginWorst
  rw [foldl_base]
  · simp only [State.base_mk, State.base_eta, State.base_ite, ite_self, implies_true]
  · intro s e
    split <;> simp only [State.setField_base]

@[simp] theorem State.endFrame_base (s : State) : (State.endFrame s).base = s.base := by
  unfold State.endFrame
  simp only [State.base_mk, State.base_eta, State.base_ite, ite_self, implies_true, foldl_base, foldlPair_base, State.masqueEnd_base, State.eachTile_base, State.hazardRecord_base, State.set_base, State.bump_base, State.raiseVec_base, State.writeHashes_base, State.marginWorst_base, State.writeTrace_base, State.takeTrace_base]

@[simp] theorem State.poke_base (s : State) (off : Nat) (v : W32) : (State.poke s off v).base = s.base := by
  unfold State.poke
  simp only [State.base_mk, State.base_eta, State.base_ite, ite_self, State.setTile_base, State.set_base]

@[simp] theorem State.applyAction_base (s : State) (a : Action) : (State.applyAction s a).base = s.base := by
  unfold State.applyAction
  repeat' (first | (simp only [State.base_mk, State.base_eta, State.base_ite, ite_self, State.bump_base, State.poke_base, State.syncApply_base]; done) | split | simp only [State.base_mk, State.base_eta, State.base_ite, ite_self, State.bump_base, State.poke_base, State.syncApply_base])

@[simp] theorem State.portsTick_base (s : State) : (State.portsTick s).base = s.base := by
  unfold State.portsTick
  simp only [State.base_mk, State.base_eta, State.base_ite, ite_self, implies_true, foldl_base, foldlPair_base]

@[simp] theorem State.hbmTick_base (s : State) (ical : Bool) (sh c : Nat) : (State.hbmTick s ical sh c).base = s.base := by
  unfold State.hbmTick
  simp only [State.base_mk, State.base_eta, State.base_ite, ite_self]

@[simp] theorem State.stepNow_base (s : State) (k : Nat) : (State.stepNow s k).base = s.base := by
  unfold State.stepNow
  simp only [State.base_mk, State.base_eta, State.base_ite, ite_self, State.bump_base, State.setField_base]

@[simp] theorem State.stepAsk_base (s : State) (k f : Nat) : (State.stepAsk s k f).base = s.base := by
  unfold State.stepAsk
  simp only [State.base_mk, State.base_eta, State.base_ite, ite_self, State.raiseVec_base, State.set_base]

@[simp] theorem State.firmwareAsk_base (s : State) (dst f : Nat) : (State.firmwareAsk s dst f).base = s.base := by
  unfold State.firmwareAsk
  simp only [State.base_mk, State.base_eta, State.base_ite, ite_self, State.stepAsk_base]

@[simp] theorem State.beginFrame_base (s : State) (k j : Nat) (c : NextFrame) : (State.beginFrame s k j c).base = s.base := by
  unfold State.beginFrame
  repeat' (first | (simp only [State.base_mk, State.base_eta, State.base_ite, ite_self, implies_true, foldl_base, foldlPair_base, State.syncShift_base, State.set64_base, State.poke_base, State.stepNow_base, State.eachTile_base, State.putTile_base, State.portsTick_base, State.hbmTick_base, State.applyAction_base, State.setField_base, State.firmwareAsk_base, State.feedMasques_base, State.masqueTick_base]; done) | split | simp only [State.base_mk, State.base_eta, State.base_ite, ite_self, implies_true, foldl_base, foldlPair_base, State.syncShift_base, State.set64_base, State.poke_base, State.stepNow_base, State.eachTile_base, State.putTile_base, State.portsTick_base, State.hbmTick_base, State.applyAction_base, State.setField_base, State.firmwareAsk_base, State.feedMasques_base, State.masqueTick_base])

@[simp] theorem State.stopActions_base (s : State) (k : Nat) : (State.stopActions s k).base = s.base := by
  unfold State.stopActions
  simp only [State.base_mk, State.base_eta, State.base_ite, ite_self, State.bump_base]

@[simp] theorem effFrameTick_base (s : State) : (effFrameTick s).base = s.base := by
  unfold effFrameTick
  repeat' (first | (simp only [State.base_mk, State.base_eta, State.base_ite, ite_self, State.stopPlan_base, State.set64_base, State.endFrame_base, State.beginFrame_base, State.stopActions_base]; done) | split)

@[simp] theorem State.commitFault_base (s : State) (missing : List Nat) : (State.commitFault s missing).base = s.base := by
  unfold State.commitFault
  simp only [State.base_mk, State.base_eta, State.base_ite, ite_self, implies_true, foldl_base, foldlPair_base, State.cause_base, State.frameBit_base, State.record_base]

@[simp] theorem State.barrierEnd_base (s : State) (v : Nat) : (State.barrierEnd s v).base = s.base := by
  unfold State.barrierEnd
  repeat' (first | (simp only [State.base_mk, State.base_eta, State.base_ite, ite_self, implies_true, foldl_base, foldlPair_base, State.setTile_base]; done) | split)

@[simp] theorem State.splitCheck_base (s : State) : (State.splitCheck s).base = s.base := by
  unfold State.splitCheck
  simp only [State.base_mk, State.base_eta, State.base_ite, ite_self, implies_true, foldl_base, foldlPair_base, State.cause_base, State.orBits_base, State.bump_base, State.recordSub_base]

@[simp] theorem State.watchHeader_base (s : State) (r : WatchRun) : (State.watchHeader s r).base = s.base := by
  unfold State.watchHeader
  repeat' (first | (simp only [State.base_mk, State.base_eta, State.base_ite, ite_self, State.hbmWrite_base, State.set_base, State.orBits_base, State.bump_base]; done) | split)

@[simp] theorem State.fixNext_base (s : State) : (State.fixNext s).base = s.base := by
  unfold State.fixNext
  simp only [State.base_mk, State.base_eta, State.base_ite, ite_self, State.sealManifest_base]

@[simp] theorem effCommitPoint_base (s : State) : (effCommitPoint s).base = s.base := by
  unfold effCommitPoint
  simp only [State.base_mk, State.base_eta, State.base_ite, ite_self, implies_true, foldl_base, foldlPair_base, State.tileSync_base, State.vigilOver_base, State.setTile_base, State.commitFault_base, State.splitCheck_base, State.barrierEnd_base, State.watchHeader_base, State.fixNext_base]

@[simp] theorem effPlanStart_base (s : State) : (effPlanStart s).base = s.base := by
  unfold effPlanStart
  simp only [State.base_mk, State.base_eta, State.base_ite, ite_self, State.stopPlan_base, State.sealManifest_base, State.setField_base, State.enter_base, State.beginFrame_base, State.stopActions_base]

@[simp] theorem effCommitFlagRaise_base (n t : Nat) (s : State) : (effCommitFlagRaise n t s).base = s.base := by
  unfold effCommitFlagRaise
  simp only [State.base_mk, State.base_eta, State.base_ite, ite_self, State.tileEvent_base]

@[simp] theorem effSqNop_base (n t : Nat) (s : State) : (effSqNop n t s).base = s.base := by
  unfold effSqNop
  simp only [State.base_mk, State.base_eta, State.base_ite, ite_self, State.tileEvent_base]

@[simp] theorem effSqEnd_base (n t : Nat) (s : State) : (effSqEnd n t s).base = s.base := by
  unfold effSqEnd
  simp only [State.base_mk, State.base_eta, State.base_ite, ite_self, State.tileEvent_base]

@[simp] theorem effSqLoop_base (n t : Nat) (s : State) : (effSqLoop n t s).base = s.base := by
  unfold effSqLoop
  simp only [State.base_mk, State.base_eta, State.base_ite, ite_self, State.tileEvent_base]

@[simp] theorem effSqCall_base (n t : Nat) (s : State) : (effSqCall n t s).base = s.base := by
  unfold effSqCall
  simp only [State.base_mk, State.base_eta, State.base_ite, ite_self, State.tileEvent_base]

@[simp] theorem effSqCallReturn_base (n t : Nat) (s : State) : (effSqCallReturn n t s).base = s.base := by
  unfold effSqCallReturn
  simp only [State.base_mk, State.base_eta, State.base_ite, ite_self, State.tileEvent_base]

@[simp] theorem effSqHold_base (n t : Nat) (s : State) : (effSqHold n t s).base = s.base := by
  unfold effSqHold
  simp only [State.base_mk, State.base_eta, State.base_ite, ite_self, State.tileEvent_base]

@[simp] theorem effSqHoldRelease_base (n t : Nat) (s : State) : (effSqHoldRelease n t s).base = s.base := by
  unfold effSqHoldRelease
  simp only [State.base_mk, State.base_eta, State.base_ite, ite_self, State.tileEvent_base]

@[simp] theorem effSqSeti_base (n t : Nat) (s : State) : (effSqSeti n t s).base = s.base := by
  unfold effSqSeti
  simp only [State.base_mk, State.base_eta, State.base_ite, ite_self, State.tileEvent_base]

@[simp] theorem effSqSethi_base (n t : Nat) (s : State) : (effSqSethi n t s).base = s.base := by
  unfold effSqSethi
  simp only [State.base_mk, State.base_eta, State.base_ite, ite_self, State.tileEvent_base]

@[simp] theorem effSqAddi_base (n t : Nat) (s : State) : (effSqAddi n t s).base = s.base := by
  unfold effSqAddi
  simp only [State.base_mk, State.base_eta, State.base_ite, ite_self, State.tileEvent_base]

@[simp] theorem State.sqAluRow_base (n t : Nat) (op : AluOp) (s : State) : (State.sqAluRow n t op s).base = s.base := by
  unfold State.sqAluRow
  simp only [State.base_mk, State.base_eta, State.base_ite, ite_self, State.tileEvent_base]

@[simp] theorem effSqAdd_base (n t : Nat) (s : State) : (effSqAdd n t s).base = s.base := by
  unfold effSqAdd
  simp only [State.base_mk, State.base_eta, State.base_ite, ite_self, State.sqAluRow_base]

@[simp] theorem effSqSub_base (n t : Nat) (s : State) : (effSqSub n t s).base = s.base := by
  unfold effSqSub
  simp only [State.base_mk, State.base_eta, State.base_ite, ite_self, State.sqAluRow_base]

@[simp] theorem effSqMul_base (n t : Nat) (s : State) : (effSqMul n t s).base = s.base := by
  unfold effSqMul
  simp only [State.base_mk, State.base_eta, State.base_ite, ite_self, State.sqAluRow_base]

@[simp] theorem effSqAnd_base (n t : Nat) (s : State) : (effSqAnd n t s).base = s.base := by
  unfold effSqAnd
  simp only [State.base_mk, State.base_eta, State.base_ite, ite_self, State.sqAluRow_base]

@[simp] theorem effSqOr_base (n t : Nat) (s : State) : (effSqOr n t s).base = s.base := by
  unfold effSqOr
  simp only [State.base_mk, State.base_eta, State.base_ite, ite_self, State.sqAluRow_base]

@[simp] theorem effSqXor_base (n t : Nat) (s : State) : (effSqXor n t s).base = s.base := by
  unfold effSqXor
  simp only [State.base_mk, State.base_eta, State.base_ite, ite_self, State.sqAluRow_base]

@[simp] theorem effSqShl_base (n t : Nat) (s : State) : (effSqShl n t s).base = s.base := by
  unfold effSqShl
  simp only [State.base_mk, State.base_eta, State.base_ite, ite_self, State.sqAluRow_base]

@[simp] theorem effSqShr_base (n t : Nat) (s : State) : (effSqShr n t s).base = s.base := by
  unfold effSqShr
  simp only [State.base_mk, State.base_eta, State.base_ite, ite_self, State.sqAluRow_base]

@[simp] theorem effSqSra_base (n t : Nat) (s : State) : (effSqSra n t s).base = s.base := by
  unfold effSqSra
  simp only [State.base_mk, State.base_eta, State.base_ite, ite_self, State.sqAluRow_base]

@[simp] theorem effSqPops_base (n t : Nat) (s : State) : (effSqPops n t s).base = s.base := by
  unfold effSqPops
  simp only [State.base_mk, State.base_eta, State.base_ite, ite_self, State.tileEvent_base]

@[simp] theorem effSqEveOpen_base (n t : Nat) (s : State) : (effSqEveOpen n t s).base = s.base := by
  unfold effSqEveOpen
  simp only [State.base_mk, State.base_eta, State.base_ite, ite_self, State.tileEvent_base]

@[simp] theorem effSqEveClose_base (n t : Nat) (s : State) : (effSqEveClose n t s).base = s.base := by
  unfold effSqEveClose
  simp only [State.base_mk, State.base_eta, State.base_ite, ite_self, State.tileEvent_base]

@[simp] theorem effIllegalInstruction_base (n t : Nat) (s : State) : (effIllegalInstruction n t s).base = s.base := by
  unfold effIllegalInstruction
  simp only [State.base_mk, State.base_eta, State.base_ite, ite_self, State.tileEvent_base]

@[simp] theorem effEngineCommandDispatch_base (n t : Nat) (s : State) : (effEngineCommandDispatch n t s).base = s.base := by
  unfold effEngineCommandDispatch
  simp only [State.base_mk, State.base_eta, State.base_ite, ite_self, State.tileEvent_base]

@[simp] theorem State.injectIssue_base (s : State) (n t kind : Nat) (f : Bool → Tile → Tile) : (State.injectIssue s n t kind f).base = s.base := by
  unfold State.injectIssue
  repeat' (first | (simp only [State.base_mk, State.base_eta, State.base_ite, ite_self, State.tileEvent_base, State.masqueFire_base]; done) | split | simp only [State.base_mk, State.base_eta, State.base_ite, ite_self, State.tileEvent_base, State.masqueFire_base])

@[simp] theorem effMxNop_base (n t : Nat) (s : State) : (effMxNop n t s).base = s.base := by
  unfold effMxNop
  simp only [State.base_mk, State.base_eta, State.base_ite, ite_self, State.tileEvent_base]

@[simp] theorem effMxMm_base (n t : Nat) (ups : List MxUpset) (s : State) : (effMxMm n t ups s).base = s.base := by
  unfold effMxMm
  simp only [State.base_mk, State.base_eta, State.base_ite, ite_self, State.tileEvent_base]

@[simp] theorem effMxMmi_base (n t : Nat) (ups : List MxUpset) (s : State) : (effMxMmi n t ups s).base = s.base := by
  unfold effMxMmi
  simp only [State.base_mk, State.base_eta, State.base_ite, ite_self, State.injectIssue_base]

@[simp] theorem effMxMms_base (n t : Nat) (ups : List MxUpset) (s : State) : (effMxMms n t ups s).base = s.base := by
  unfold effMxMms
  simp only [State.base_mk, State.base_eta, State.base_ite, ite_self, State.injectIssue_base]

@[simp] theorem effMxOperationRetire_base (n t i : Nat) (s : State) : (effMxOperationRetire n t i s).base = s.base := by
  unfold effMxOperationRetire
  simp only [State.base_mk, State.base_eta, State.base_ite, ite_self, State.tileEvent_base]

@[simp] theorem effVxNop_base (n t : Nat) (s : State) : (effVxNop n t s).base = s.base := by
  unfold effVxNop
  simp only [State.base_mk, State.base_eta, State.base_ite, ite_self, State.tileEvent_base]

@[simp] theorem State.vxRow_base (n t op : Nat) (ups : List VxUpset) (s : State) : (State.vxRow n t op ups s).base = s.base := by
  unfold State.vxRow
  simp only [State.base_mk, State.base_eta, State.base_ite, ite_self, State.injectIssue_base]

@[simp] theorem effVxEw_base (n t : Nat) (ups : List VxUpset) (s : State) : (effVxEw n t ups s).base = s.base := by
  unfold effVxEw
  simp only [State.base_mk, State.base_eta, State.base_ite, ite_self, State.vxRow_base]

@[simp] theorem effVxCvt_base (n t : Nat) (ups : List VxUpset) (s : State) : (effVxCvt n t ups s).base = s.base := by
  unfold effVxCvt
  simp only [State.base_mk, State.base_eta, State.base_ite, ite_self, State.vxRow_base]

@[simp] theorem effVxRed_base (n t : Nat) (ups : List VxUpset) (s : State) : (effVxRed n t ups s).base = s.base := by
  unfold effVxRed
  simp only [State.base_mk, State.base_eta, State.base_ite, ite_self, State.vxRow_base]

@[simp] theorem effVxFn_base (n t : Nat) (ups : List VxUpset) (s : State) : (effVxFn n t ups s).base = s.base := by
  unfold effVxFn
  simp only [State.base_mk, State.base_eta, State.base_ite, ite_self, State.vxRow_base]

@[simp] theorem effVxStn_base (n t : Nat) (ups : List VxUpset) (s : State) : (effVxStn n t ups s).base = s.base := by
  unfold effVxStn
  simp only [State.base_mk, State.base_eta, State.base_ite, ite_self, State.vxRow_base]

@[simp] theorem effVxRng_base (n t : Nat) (ups : List VxUpset) (s : State) : (effVxRng n t ups s).base = s.base := by
  unfold effVxRng
  simp only [State.base_mk, State.base_eta, State.base_ite, ite_self, State.vxRow_base]

@[simp] theorem effVxOperationRetire_base (n t i : Nat) (s : State) : (effVxOperationRetire n t i s).base = s.base := by
  unfold effVxOperationRetire
  simp only [State.base_mk, State.base_eta, State.base_ite, ite_self, State.tileEvent_base]

@[simp] theorem effAnchorMiss_base (n t : Nat) (eng : Engine) (s : State) : (effAnchorMiss n t eng s).base = s.base := by
  unfold effAnchorMiss
  simp only [State.base_mk, State.base_eta, State.base_ite, ite_self, State.tileEvent_base]

@[simp] theorem State.inject_base (s : State) (from_ : PktFrom) (src route dvt : Nat) (dest : PktDest) (len : Nat) (lines : List Line) (t0 : Nat) : (State.inject s from_ src route dvt dest len lines t0).base = s.base := by
  unfold State.inject
  simp only [State.base_mk, State.base_eta, State.base_ite, ite_self]

@[simp] theorem State.setPkt_base (s : State) (k : Packet) : (State.setPkt s k).base = s.base := by
  unfold State.setPkt
  simp only [State.base_mk, State.base_eta, State.base_ite, ite_self]

@[simp] theorem State.drop_base (s : State) (id i : Nat) : (State.drop s id i).base = s.base := by
  unfold State.drop
  repeat' (first | (simp only [State.base_mk, State.base_eta, State.base_ite, ite_self, State.setPkt_base]; done) | split)

@[simp] theorem State.setRouter_base (s : State) (n : Nat) (r : Router) : (State.setRouter s n r).base = s.base := by
  unfold State.setRouter
  simp only [State.base_mk, State.base_eta, State.base_ite, ite_self]

@[simp] theorem State.meshFault_base (s : State) (n kind inp slot : Nat) : (State.meshFault s n kind inp slot).base = s.base := by
  unfold State.meshFault
  simp only [State.base_mk, State.base_eta, State.base_ite, ite_self, State.putTile_base]

@[simp] theorem State.takeBack_base (s : State) (n id t : Nat) : (State.takeBack s n id t).base = s.base := by
  unfold State.takeBack
  repeat' (first | (simp only [State.base_mk, State.base_eta, State.base_ite, ite_self, State.setRouter_base]; done) | split | simp only [State.base_mk, State.base_eta, State.base_ite, ite_self, State.setRouter_base])

@[simp] theorem State.contest_base (s : State) (n t out : Nat) (k : Packet) (inp : Nat) : (State.contest s n t out k inp).1.base = s.base := by
  unfold State.contest
  repeat' (first | (simp only [State.base_mk, State.base_eta, State.base_ite, ite_self, State.setRouter_base, State.takeBack_base, State.meshFault_base, State.drop_base]; done) | split | simp only [State.base_mk, State.base_eta, State.base_ite, ite_self, State.setRouter_base, State.takeBack_base, State.meshFault_base, State.drop_base])

@[simp] theorem State.cross_base (k : Packet) (b : HopAt) (t lead : Nat) (s : State) (j : Nat) : (State.cross k b t lead s j).base = s.base := by
  unfold State.cross
  repeat' (first | (simp only [State.base_mk, State.base_eta, State.base_ite, ite_self, State.setRouter_base, State.meshFault_base, State.drop_base]; done) | split)

@[simp] theorem State.leave_base (s : State) (k : Packet) (b : HopAt) (t : Nat) : (State.leave s k b t).base = s.base := by
  unfold State.leave
  repeat' (first | (simp only [State.base_mk, State.base_eta, State.base_ite, ite_self, implies_true, foldl_base, foldlPair_base, State.cross_base]; done) | split)

@[simp] theorem effMeshHeadArrival_base (n t id inp : Nat) (s : State) : (effMeshHeadArrival n t id inp s).base = s.base := by
  unfold effMeshHeadArrival
  repeat' (first | (simp only [State.base_mk, State.base_eta, State.base_ite, ite_self, State.seen_base, State.contest_base, State.setTile_base, State.leave_base, State.setPkt_base]; done) | split | simp only [State.base_mk, State.base_eta, State.base_ite, ite_self, State.seen_base, State.contest_base, State.setTile_base, State.leave_base, State.setPkt_base])

@[simp] theorem State.eject_base (s : State) (n t : Nat) (k : Packet) (i : Nat) (v : Line) : (State.eject s n t k i v).base = s.base := by
  unfold State.eject
  repeat' (first | (simp only [State.base_mk, State.base_eta, State.base_ite, ite_self, State.setPkt_base, State.arrivalEvent_base, State.forwardLine_base, State.sendOut_base]; done) | split | simp only [State.base_mk, State.base_eta, State.base_ite, ite_self, State.setPkt_base, State.arrivalEvent_base, State.forwardLine_base, State.sendOut_base])

@[simp] theorem State.readFor_base (s : State) (k : Packet) (i t : Nat) : (State.readFor s k i t).base = s.base := by
  unfold State.readFor
  repeat' (first | (simp only [State.base_mk, State.base_eta, State.base_ite, ite_self, State.tileSync_base, State.seen_base]; done) | split)

@[simp] theorem effMeshLineArrival_base (n t id i : Nat) (s : State) : (effMeshLineArrival n t id i s).base = s.base := by
  unfold effMeshLineArrival
  repeat' (first | (simp only [State.base_mk, State.base_eta, State.base_ite, ite_self, State.readFor_base, State.eject_base, State.meshFault_base, State.drop_base]; done) | split | simp only [State.base_mk, State.base_eta, State.base_ite, ite_self, State.readFor_base, State.eject_base, State.meshFault_base, State.drop_base])

@[simp] theorem effCrossingRelease_base (n t inp : Nat) (s : State) : (effCrossingRelease n t inp s).base = s.base := by
  unfold effCrossingRelease
  repeat' (first | (simp only [State.base_mk, State.base_eta, State.base_ite, ite_self, State.setRouter_base, State.seen_base, State.meshFault_base, State.drop_base]; done) | split)

@[simp] theorem effMvNop_base (n t : Nat) (s : State) : (effMvNop n t s).base = s.base := by
  unfold effMvNop
  simp only [State.base_mk, State.base_eta, State.base_ite, ite_self, State.tileEvent_base]

@[simp] theorem State.mvSendTo_base (s : State) (n t : Nat) (tl : Tile) (c : Cmd) (route dvt : Nat) (dest : PktDest) : (State.mvSendTo s n t tl c route dvt dest).base = s.base := by
  unfold State.mvSendTo
  simp only [State.base_mk, State.base_eta, State.base_ite, ite_self, State.inject_base, State.tileEvent_base]

@[simp] theorem effMvSend_base (n t : Nat) (s : State) : (effMvSend n t s).base = s.base := by
  unfold effMvSend
  repeat' (first | (simp only [State.base_mk, State.base_eta, State.base_ite, ite_self, State.mvSendTo_base]; done) | split)

@[simp] theorem effMvOsend_base (n t : Nat) (s : State) : (effMvOsend n t s).base = s.base := by
  unfold effMvOsend
  repeat' (first | (simp only [State.base_mk, State.base_eta, State.base_ite, ite_self, State.mvSendTo_base, State.setTile_base]; done) | split | simp only [State.base_mk, State.base_eta, State.base_ite, ite_self, State.mvSendTo_base, State.setTile_base])

@[simp] theorem State.request_base (s : State) (n t handed len op : Nat) (lines : List Line) (f : ReqFlit) : (State.request s n t handed len op lines f).base = s.base := by
  unfold State.request
  repeat' (first | (simp only [State.base_mk, State.base_eta, State.base_ite, ite_self, State.inject_base]; done) | split)

@[simp] theorem State.mvReserve_base (s : State) (n t : Nat) (tl : Tile) (c : Cmd) (f : ReqFlit) : (State.mvReserve s n t tl c f).base = s.base := by
  unfold State.mvReserve
  simp only [State.base_mk, State.base_eta, State.base_ite, ite_self, State.tileEvent_base, State.request_base]

@[simp] theorem effMvGet_base (n t : Nat) (s : State) : (effMvGet n t s).base = s.base := by
  unfold effMvGet
  repeat' (first | (simp only [State.base_mk, State.base_eta, State.base_ite, ite_self, State.mvReserve_base]; done) | split | simp only [State.base_mk, State.base_eta, State.base_ite, ite_self, State.mvReserve_base])

@[simp] theorem effMvGather_base (n t : Nat) (s : State) : (effMvGather n t s).base = s.base := by
  unfold effMvGather
  repeat' (first | (simp only [State.base_mk, State.base_eta, State.base_ite, ite_self, State.mvReserve_base]; done) | split)

@[simp] theorem State.hashPut_base (s : State) (n t hla : Nat) (c : Cmd) (ls : List Line) : (State.hashPut s n t hla c ls).base = s.base := by
  unfold State.hashPut
  simp only [State.base_mk, State.base_eta, State.base_ite, ite_self, State.setTile_base, State.bump_base]

@[simp] theorem State.digestPut_base (s : State) (n : Nat) (c : Cmd) (ls : List Line) : (State.digestPut s n c ls).base = s.base := by
  unfold State.digestPut
  simp only [State.base_mk, State.base_eta, State.base_ite, ite_self, implies_true, foldl_base, foldlPair_base, State.orBits_base, State.bump_base, State.setTile_base]

@[simp] theorem State.putRecords_base (s : State) (n : Nat) (o : Op) : (State.putRecords s n o).base = s.base := by
  unfold State.putRecords
  simp only [State.base_mk, State.base_eta, State.base_ite, ite_self, State.hashPut_base, State.digestPut_base]

@[simp] theorem effMvPut_base (n t : Nat) (s : State) : (effMvPut n t s).base = s.base := by
  unfold effMvPut
  repeat' (first | (simp only [State.base_mk, State.base_eta, State.base_ite, ite_self, State.request_base, State.tileEvent_base]; done) | split)

@[simp] theorem effMvWait_base (n t : Nat) (s : State) : (effMvWait n t s).base = s.base := by
  unfold effMvWait
  simp only [State.base_mk, State.base_eta, State.base_ite, ite_self, State.tileEvent_base]

@[simp] theorem State.syncRemote_base (s : State) (n t sop : Nat) (pay : Cmd → LineBits) : (State.syncRemote s n t sop pay).base = s.base := by
  unfold State.syncRemote
  repeat' (first | (simp only [implies_true, dite_eq_ite, State.base_mk, State.base_eta, State.base_ite, ite_self, State.syncIssue_base, State.inject_base, *]; done) | split | simp only [implies_true, dite_eq_ite, State.base_mk, State.base_eta, State.base_ite, ite_self, State.syncIssue_base, State.inject_base, *])

@[simp] theorem effMvSyncRsignal_base (n t : Nat) (s : State) : (effMvSyncRsignal n t s).base = s.base := by
  unfold effMvSyncRsignal
  simp only [State.base_mk, State.base_eta, State.base_ite, ite_self, State.syncRemote_base]

@[simp] theorem effMvSyncRpart_base (n t : Nat) (s : State) : (effMvSyncRpart n t s).base = s.base := by
  unfold effMvSyncRpart
  simp only [State.base_mk, State.base_eta, State.base_ite, ite_self, State.syncRemote_base]

@[simp] theorem effMvOperationRetire_base (n t : Nat) (s : State) : (effMvOperationRetire n t s).base = s.base := by
  unfold effMvOperationRetire
  repeat' (first | (simp only [State.base_mk, State.base_eta, State.base_ite, ite_self, State.tileEvent_base, State.putRecords_base]; done) | split | simp only [State.base_mk, State.base_eta, State.base_ite, ite_self, State.tileEvent_base, State.putRecords_base])

@[simp] theorem State.setCtl_base (s : State) (c : Nat) (k : HbmCtl) : (State.setCtl s c k).base = s.base := by
  unfold State.setCtl
  simp only [State.base_mk, State.base_eta, State.base_ite, ite_self]

@[simp] theorem State.setXfer_base (s : State) (c x : Nat) (r : XferRun) : (State.setXfer s c x r).base = s.base := by
  unfold State.setXfer
  simp only [State.base_mk, State.base_eta, State.base_ite, ite_self, State.setCtl_base]

@[simp] theorem State.refuse_base (s : State) (c x : Nat) (p : Xfer) (r : XferRun) (f : Option ReqFlit) : (State.refuse s c x p r f).base = s.base := by
  unfold State.refuse
  simp only [State.base_mk, State.base_eta, State.base_ite, ite_self, State.setXfer_base, State.hbLast_base, State.orBits_base, State.bump_base, State.record_base]

@[simp] theorem effRequestFlitArrival_base (c x : Nat) (s : State) : (effRequestFlitArrival c x s).base = s.base := by
  unfold effRequestFlitArrival
  repeat' (first | (simp only [State.base_mk, State.base_eta, State.base_ite, ite_self, State.seen_base, State.refuse_base, State.setXfer_base]; done) | split | simp only [State.base_mk, State.base_eta, State.base_ite, ite_self, State.seen_base, State.refuse_base, State.setXfer_base])

@[simp] theorem State.windowFault_base (s : State) (c hla k : Nat) (r : XferRun) : (State.windowFault s c hla k r).1.base = s.base := by
  unfold State.windowFault
  simp only [State.base_mk, State.base_eta, State.base_ite, ite_self, State.hbLast_base, State.orBits_base, State.bump_base]

@[simp] theorem State.windowRecord_base (s : State) (c : Nat) (p : Xfer) (r : XferRun) : (State.windowRecord s c p r).base = s.base := by
  unfold State.windowRecord
  simp only [State.base_mk, State.base_eta, State.base_ite, ite_self, State.record_base]

@[simp] theorem State.cmdRead_base (s : State) (c x i : Nat) (p : Xfer) (r : XferRun) : (State.cmdRead s c x i p r).base = s.base := by
  unfold State.cmdRead
  repeat' (first | (simp only [State.base_mk, State.base_eta, State.base_ite, ite_self, State.setXfer_base, State.windowFault_base]; done) | split)

@[simp] theorem State.cmdWrite_base (s : State) (c x i t : Nat) (p : Xfer) (r : XferRun) : (State.cmdWrite s c x i t p r).base = s.base := by
  unfold State.cmdWrite
  repeat' (first | (simp only [State.base_mk, State.base_eta, State.base_ite, ite_self, State.hbmWrite_base, State.windowFault_base, State.windowRecord_base, State.setXfer_base]; done) | split | simp only [State.base_mk, State.base_eta, State.base_ite, ite_self, State.hbmWrite_base, State.windowFault_base, State.windowRecord_base, State.setXfer_base])

@[simp] theorem State.cmdIndex_base (s : State) (c x i : Nat) (p : Xfer) (r : XferRun) : (State.cmdIndex s c x i p r).base = s.base := by
  unfold State.cmdIndex
  split
  · rfl
  · dsimp only
    rw [State.setXfer_base, foldlPair_base]
    · dsimp only
      repeat' (first | (simp only [State.record_base, State.hbLast_base, State.orBits_base, State.bump_base]; done) | split)
    · intro q k
      generalize Prod.snd (α := State) _ = v
      split
      · rw [State.windowFault_base]
      · split
        · rfl
        · rw [State.windowFault_base]

@[simp] theorem State.onXfer_base (s : State) (c x : Nat) (f : Xfer → XferRun → State) (hf : ∀ y0 y1, (f y0 y1).base = s.base) : (State.onXfer s c x f).base = s.base := by
  unfold State.onXfer
  repeat' (first | (simp only [State.base_mk, State.base_eta, State.base_ite, ite_self, *]; done) | split)

@[simp] theorem effHbmCommand_base (c t : Nat) (op : HbmOp) (s : State) : (effHbmCommand c t op s).base = s.base := by
  unfold effHbmCommand
  repeat' (first | (simp only [State.base_mk, State.base_eta, State.base_ite, ite_self, implies_true, State.seen_base, State.onXfer_base, State.cmdRead_base, State.cmdWrite_base, State.cmdIndex_base]; done) | split | simp only [State.base_mk, State.base_eta, State.base_ite, ite_self, implies_true, State.seen_base, State.onXfer_base, State.cmdRead_base, State.cmdWrite_base, State.cmdIndex_base])

@[simp] theorem State.readUe_base (s : State) (c hla : Nat) (retried : Bool) : (State.readUe s c hla retried).base = s.base := by
  unfold State.readUe
  simp only [State.base_mk, State.base_eta, State.base_ite, ite_self, State.hbLast_base, State.orBits_base, State.bump_base, State.recordInj_base]

@[simp] theorem State.assignRetry_base (s : State) (c x i hla : Nat) (r : XferRun) : (State.assignRetry s c x i hla r).base = s.base := by
  unfold State.assignRetry
  simp only [State.base_mk, State.base_eta, State.base_ite, ite_self, State.setXfer_base, State.setCtl_base]

@[simp] theorem State.setReady_base (s : State) (c x i : Nat) (r : XferRun) (v : Line) : (State.setReady s c x i r v).base = s.base := by
  unfold State.setReady
  simp only [State.base_mk, State.base_eta, State.base_ite, ite_self, State.setXfer_base]

@[simp] theorem effReadLineReady_base (c x i : Nat) (errs : List (Nat × Nat)) (s : State) : (effReadLineReady c x i errs s).base = s.base := by
  unfold effReadLineReady
  rw [State.onXfer_base]
  intro p r
  split
  · split
    · rfl
    · dsimp only
      repeat' (first | (simp only [State.base_ite, ite_self, State.masqueFire_base, State.setReady_base, State.bump_base, State.assignRetry_base, State.readUe_base]; done) | split)
  · rfl

@[simp] theorem State.send_base (s : State) (c x i t : Nat) (p : Xfer) (r : XferRun) (v : Line) (late : Bool) : (State.send s c x i t p r v late).base = s.base := by
  unfold State.send
  simp only [State.base_mk, State.base_eta, State.base_ite, ite_self, State.inject_base, State.windowRecord_base, State.setXfer_base]

@[simp] theorem State.lateOvf_base (s : State) (c x i t : Nat) (p : Xfer) (r : XferRun) : (State.lateOvf s c x i t p r).base = s.base := by
  unfold State.lateOvf
  simp only [State.base_mk, State.base_eta, State.base_ite, ite_self, State.hbLast_base, State.orBits_base, State.bump_base, State.send_base, State.record_base]

@[simp] theorem effHbmDeliverySlot_base (c x i t : Nat) (s : State) : (effHbmDeliverySlot c x i t s).base = s.base := by
  unfold effHbmDeliverySlot
  repeat' (first | (simp only [State.base_mk, State.base_eta, State.base_ite, ite_self, State.seen_base, State.send_base, State.bump_base, State.setXfer_base, State.lateOvf_base]; done) | split)

@[simp] theorem effLateSlot_base (c x t : Nat) (s : State) : (effLateSlot c x t s).base = s.base := by
  unfold effLateSlot
  rw [State.onXfer_base]
  intro p r
  dsimp only
  repeat' (first | (simp only [State.setXfer_base, State.seen_base, State.send_base]; done) | split)

@[simp] theorem effLineArrival_base (n t c x i : Nat) (s : State) : (effLineArrival n t c x i s).base = s.base := by
  unfold effLineArrival
  repeat' (first | (simp only [State.base_mk, State.base_eta, State.base_ite, ite_self, State.arrivalEvent_base]; done) | split)

@[simp] theorem State.retryLine_base (s : State) (c : Nat) (xi : Nat × Nat × Nat) : (State.retryLine s c xi).base = s.base := by
  unfold State.retryLine
  repeat' (first | (simp only [State.base_mk, State.base_eta, State.base_ite, ite_self, State.bump_base, State.setReady_base, State.readUe_base]; done) | split | simp only [State.base_mk, State.base_eta, State.base_ite, ite_self, State.bump_base, State.setReady_base, State.readUe_base])

@[simp] theorem State.masqueHbm_base (s : State) (c : Nat) : (State.masqueHbm s c).base = s.base := by
  unfold State.masqueHbm
  repeat' (first | (simp only [State.base_mk, State.base_eta, State.base_ite, ite_self, State.masqueFire_base]; done) | split)

@[simp] theorem State.scrubLine_base (sw : State × Nat) (c : Nat) (hla : Nat) : (State.scrubLine sw c hla).1.base = sw.1.base := by
  unfold State.scrubLine
  repeat' (first | (simp only [State.base_mk, State.base_eta, State.base_ite, ite_self, implies_true, dite_eq_ite, State.orBits_base, State.bump_base, State.recordInj_base, State.hbmWrite_base, State.hbLast_base, *]; done) | split | simp only [State.base_mk, State.base_eta, State.base_ite, ite_self, implies_true, dite_eq_ite, State.orBits_base, State.bump_base, State.recordInj_base, State.hbmWrite_base, State.hbLast_base, *])

@[simp] theorem State.scrubSegs_base (c p k : Nat) (sw : State × Nat) : (State.scrubSegs c p k sw).1.base = sw.1.base := by
  induction k generalizing sw with
  | zero => rfl
  | succ k ih =>
    obtain ⟨s, w⟩ := sw
    rw [State.scrubSegs, ih]
    dsimp only
    have hf := foldlPair_base (fun sw l => State.scrubLine sw c (c * 2 ^ 30 + 1024 * s.get (rScrubPtr c p) + 16 * p + l))
      (fun q l => State.scrubLine_base q c _) (List.range 16) (s, w)
    simp only [State.base_ite, State.bump_base, State.set_base, ite_self]
    exact hf

@[simp] theorem effMaintenanceSlot_base (c p : Nat) (s : State) : (effMaintenanceSlot c p s).base = s.base := by
  unfold effMaintenanceSlot
  split
  · rfl
  · dsimp only
    split
    · simp only [State.bump_base, State.masqueHbm_base]
    · rw [State.scrubSegs_base]
      simp only [foldl_base, State.retryLine_base, State.setCtl_base, State.masqueHbm_base, implies_true]

@[simp] theorem effKeepAlive_base (_c : Nat) (s : State) : (effKeepAlive _c s).base = s.base := by
  unfold effKeepAlive
  simp only [State.base_mk, State.base_eta, State.base_ite, ite_self]

@[simp] theorem effHbmTempSample_base (c temp : Nat) (s : State) : (effHbmTempSample c temp s).base = s.base := by
  unfold effHbmTempSample
  simp only [State.base_mk, State.base_eta, State.base_ite, ite_self, State.set_base, State.setCtl_base, State.orBits_base, State.record_base]

@[simp] theorem effHeatModeExit_base (c : Nat) (s : State) : (effHeatModeExit c s).base = s.base := by
  unfold effHeatModeExit
  repeat' (first | (simp only [State.base_mk, State.base_eta, State.base_ite, ite_self, State.clrBits_base]; done) | split)

@[simp] theorem effHeatRefresh_base (c _p : Nat) (s : State) : (effHeatRefresh c _p s).base = s.base := by
  unfold effHeatRefresh
  simp only [State.base_mk, State.base_eta, State.base_ite, ite_self, State.bump_base]

@[simp] theorem effAdaptiveRfmRequest_base (c _p : Nat) (s : State) : (effAdaptiveRfmRequest c _p s).base = s.base := by
  unfold effAdaptiveRfmRequest
  simp only [State.base_mk, State.base_eta, State.base_ite, ite_self, State.bump_base]

@[simp] theorem effCaParityError_base (c p : Nat) (s : State) : (effCaParityError c p s).base = s.base := by
  unfold effCaParityError
  simp only [State.base_mk, State.base_eta, State.base_ite, ite_self, State.record_base, State.orBits_base]

@[simp] theorem State.laneStop_base (s : State) (p fibre : Nat) : (State.laneStop s p fibre).base = s.base := by
  unfold State.laneStop
  simp only [State.base_mk, State.base_eta, State.base_ite, ite_self, State.cause_base, State.flRaise_base]

@[simp] theorem State.laneMap_base (s : State) (p mask gen : Nat) : (State.laneMap s p mask gen).base = s.base := by
  unfold State.laneMap
  simp only [State.base_mk, State.base_eta, State.base_ite, ite_self, implies_true, foldl_base, foldlPair_base, State.set_base, State.setField_base]

@[simp] theorem State.rxMap_base (s : State) (p mask gen : Nat) : (State.rxMap s p mask gen).base = s.base := by
  unfold State.rxMap
  simp only [State.base_mk, State.base_eta, State.base_ite, ite_self, State.laneMap_base, State.laneStop_base]

@[simp] theorem State.trainFail_base (s : State) (p : Nat) : (State.trainFail s p).base = s.base := by
  unfold State.trainFail
  simp only [State.base_mk, State.base_eta, State.base_ite, ite_self, State.toSignal_base, State.updPort_base, State.record_base]

@[simp] theorem State.enterUp_base (s : State) (p : Nat) : (State.enterUp s p).base = s.base := by
  unfold State.enterUp
  simp only [State.base_mk, State.base_eta, State.base_ite, ite_self, State.updPort_base, State.setTrain_base]

@[simp] theorem State.enterAlign_base (s : State) (p : Nat) : (State.enterAlign s p).base = s.base := by
  unfold State.enterAlign
  simp only [State.base_mk, State.base_eta, State.base_ite, ite_self, State.updPort_base, State.set_base, State.laneMap_base, State.setTrain_base]

@[simp] theorem State.tryIdent_base (s : State) (p : Nat) : (State.tryIdent s p).base = s.base := by
  unfold State.tryIdent
  simp only [State.base_mk, State.base_eta, State.base_ite, ite_self, State.updPort_base, State.setTrain_base]

@[simp] theorem State.askMap_base (s : State) (p : Nat) : (State.askMap s p).base = s.base := by
  unfold State.askMap
  simp only [State.base_mk, State.base_eta, State.base_ite, ite_self, State.updPort_base]

@[simp] theorem State.eraseFibre_base (s : State) (p f : Nat) : (State.eraseFibre s p f).base = s.base := by
  unfold State.eraseFibre
  simp only [State.base_mk, State.base_eta, State.base_ite, ite_self, State.setPort_base, State.lkCount_base, State.setField_base, State.lcQueue_base, State.record_base, State.leaveUp_base]

@[simp] theorem State.closePeriod_base (s : State) (p : Nat) : (State.closePeriod s p).base = s.base := by
  unfold State.closePeriod
  repeat' (first | (simp only [State.base_mk, State.base_eta, State.base_ite, ite_self, implies_true, foldl_base, foldlPair_base, State.emit_base, State.updPort_base, State.laneStop_base]; done) | split | simp only [State.base_mk, State.base_eta, State.base_ite, ite_self, implies_true, foldl_base, foldlPair_base, State.emit_base, State.updPort_base, State.laneStop_base])

@[simp] theorem State.sendCodeword_base (s : State) (p : Nat) (bad : Bool) (fs : List Flit) : (State.sendCodeword s p bad fs).base = s.base := by
  have hd : ∀ (v : W64) (t : State), (if bad = true then s.draw else ((0 : W64), s)) = (v, t) → t.base = s.base := by
    intro v t h
    split at h
    · rw [← State.draw_base s, h]
    · cases h; rfl
  unfold State.sendCodeword
  dsimp only
  generalize hg : (if bad = true then s.draw else ((0 : W64), s)) = vs
  obtain ⟨v, t⟩ := vs
  simp only [State.base_mk, State.base_eta, State.base_ite, ite_self, implies_true, State.closePeriod_base, State.updPort_base, State.emit_base, hd v t hg]

@[simp] theorem State.lcNext_base (s : State) (p : Nat) : (State.lcNext s p).1.base = s.base := by
  unfold State.lcNext
  simp only [State.base_mk, State.base_eta, State.base_ite, ite_self, State.askMap_base, State.updPort_base, State.bump_base]

@[simp] theorem State.flow_base (s : State) (p vc : Nat) : (State.flow s p vc).base = s.base := by
  unfold State.flow
  simp only [State.base_mk, State.base_eta, State.base_ite, ite_self, State.updPort_base, State.lkCount_base, State.setField_base]

@[simp] theorem State.nakAll_base (s : State) (p vc : Nat) (ns : List Nat) : (State.nakAll s p vc ns).base = s.base := by
  unfold State.nakAll
  simp only [State.base_mk, State.base_eta, State.base_ite, ite_self, implies_true, foldl_base, foldlPair_base, State.updChan_base, State.lcQueue_base]

@[simp] theorem State.portCtrl_base (s : State) (p : Nat) (on : Bool) : (State.portCtrl s p on).base = s.base := by
  unfold State.portCtrl
  simp only [State.base_mk, State.base_eta, State.base_ite, ite_self, State.setField_base, State.toSignal_base, State.orBits_base, State.curFails_base, State.setTrain_base, State.updPort_base]

@[simp] theorem effPortEnable_base (p : Nat) (a : Agent) (on : Bool) (s : State) : (effPortEnable p a on s).base = s.base := by
  unfold effPortEnable
  simp only [State.base_mk, State.base_eta, State.base_ite, ite_self, State.touch_base, State.ignored_base, State.portCtrl_base]

@[simp] theorem effFibreClockLock_base (p mask : Nat) (s : State) : (effFibreClockLock p mask s).base = s.base := by
  unfold effFibreClockLock
  simp only [State.base_mk, State.base_eta, State.base_ite, ite_self, State.updPort_base, State.enterAlign_base]

@[simp] theorem effSignalTimeout_base (p : Nat) (s : State) : (effSignalTimeout p s).base = s.base := by
  unfold effSignalTimeout
  simp only [State.base_mk, State.base_eta, State.base_ite, ite_self, State.trainFail_base]

@[simp] theorem effAlignTimeout_base (p : Nat) (s : State) : (effAlignTimeout p s).base = s.base := by
  unfold effAlignTimeout
  simp only [State.base_mk, State.base_eta, State.base_ite, ite_self, State.trainFail_base]

@[simp] theorem State.idRefused_base (s : State) (p reason : Nat) : (State.idRefused s p reason).base = s.base := by
  unfold State.idRefused
  simp only [State.base_mk, State.base_eta, State.base_ite, ite_self, State.record_base, State.setField_base, State.orBits_base]

@[simp] theorem effIdentTimeout_base (p : Nat) (s : State) : (effIdentTimeout p s).base = s.base := by
  unfold effIdentTimeout
  simp only [State.base_mk, State.base_eta, State.base_ite, ite_self, State.trainFail_base, State.setTrain_base, State.idRefused_base]

@[simp] theorem State.setFibre_base (s : State) (p f : Nat) (x : Fibre) : (State.setFibre s p f x).base = s.base := by
  unfold State.setFibre
  simp only [State.base_mk, State.base_eta, State.base_ite, ite_self, State.updPort_base]

@[simp] theorem State.maskChanged_base (s : State) (p : Nat) : (State.maskChanged s p).base = s.base := by
  unfold State.maskChanged
  repeat' (first | (simp only [State.base_mk, State.base_eta, State.base_ite, ite_self, State.askMap_base, State.lcQueue_base]; done) | split | simp only [State.base_mk, State.base_eta, State.base_ite, ite_self, State.askMap_base, State.lcQueue_base])

@[simp] theorem State.takeMap_base (s : State) (p mask gen : Nat) : (State.takeMap s p mask gen).base = s.base := by
  unfold State.takeMap
  simp only [State.base_mk, State.base_eta, State.base_ite, ite_self, State.rxMap_base, State.updPort_base, State.maskChanged_base]

@[simp] theorem State.huntMarker_base (s : State) (p f pos : Nat) (x : Fibre) : (State.huntMarker s p f pos x).base = s.base := by
  unfold State.huntMarker
  simp only [State.base_mk, State.base_eta, State.base_ite, ite_self, State.setFibre_base, State.updPort_base, State.setField_base, State.tryIdent_base, State.maskChanged_base]

@[simp] theorem State.goodMarker_base (s : State) (p f pos gen : Nat) (x : Fibre) : (State.goodMarker s p f pos gen x).base = s.base := by
  unfold State.goodMarker
  repeat' (first | (simp only [State.base_mk, State.base_eta, State.base_ite, ite_self, State.updPort_base, State.setFibre_base, State.takeMap_base]; done) | split | simp only [State.base_mk, State.base_eta, State.base_ite, ite_self, State.updPort_base, State.setFibre_base, State.takeMap_base])

@[simp] theorem State.badMarker_base (s : State) (p f : Nat) (x : Fibre) : (State.badMarker s p f x).base = s.base := by
  unfold State.badMarker
  simp only [State.base_mk, State.base_eta, State.base_ite, ite_self, State.setFibre_base, State.eraseFibre_base, State.setField_base]

@[simp] theorem effAlignmentMarker_base (p f pos : Nat) (syms : List Nat) (s : State) : (effAlignmentMarker p f pos syms s).base = s.base := by
  unfold effAlignmentMarker
  repeat' (first | (simp only [State.base_mk, State.base_eta, State.base_ite, ite_self, State.huntMarker_base, State.badMarker_base, State.goodMarker_base]; done) | split)

@[simp] theorem effLossOfSignal_base (p f : Nat) (s : State) : (effLossOfSignal p f s).base = s.base := by
  unfold effLossOfSignal
  simp only [State.base_mk, State.base_eta, State.base_ite, ite_self, State.eraseFibre_base, State.setFibre_base, State.setField_base]

@[simp] theorem effFeedLoss_base (p : Nat) (second : Bool) (s : State) : (effFeedLoss p second s).base = s.base := by
  unfold effFeedLoss
  simp only [State.base_mk, State.base_eta, State.base_ite, ite_self, State.loseFeed_base]

@[simp] theorem State.overflow_base (s : State) (p : Nat) : (State.overflow s p).base = s.base := by
  unfold State.overflow
  repeat' (first | (simp only [State.base_mk, State.base_eta, State.base_ite, ite_self, State.updPort_base, State.record_base, State.lkCount_base, State.entryFails_base]; done) | split)

@[simp] theorem State.absorb_base (s : State) (p : Nat) : (State.absorb s p).base = s.base := by
  unfold State.absorb
  simp only [State.base_mk, State.base_eta, State.base_ite, ite_self, State.setPort_base, State.orBits_base, State.flow_base, State.overflow_base]

@[simp] theorem State.takeFlit_base (p : Nat) (s : State) (f : Flit) : (State.takeFlit p s f).base = s.base := by
  unfold State.takeFlit
  simp only [State.base_mk, State.base_eta, State.base_ite, ite_self, State.updPort_base, State.orBits_base, State.bump_base, State.lkCount_base]

@[simp] theorem State.ber_base (s : State) (p errs : Nat) : (State.ber s p errs).base = s.base := by
  unfold State.ber
  simp only [State.base_mk, State.base_eta, State.base_ite, ite_self, implies_true, foldl_base, foldlPair_base, State.setPort_base, State.set_base]

@[simp] theorem State.tryMap_base (s : State) (p : Nat) (cols : List (List Nat)) : (State.tryMap s p cols).base = s.base := by
  unfold State.tryMap
  repeat' (first | (simp only [State.base_mk, State.base_eta, State.base_ite, ite_self, State.setField_base, State.takeMap_base]; done) | split)

@[simp] theorem State.decoded_base (s : State) (p : Nat) (good : List Nat) (errs : Nat) : (State.decoded s p good errs).base = s.base := by
  unfold State.decoded
  simp only [State.base_mk, State.base_eta, State.base_ite, ite_self, implies_true, foldl_base, foldlPair_base, State.updPort_base, State.ber_base, State.bump_base, State.absorb_base, State.tryIdent_base, State.takeFlit_base]

@[simp] theorem State.uncorrectable_base (s : State) (p : Nat) (syms : List Nat) : (State.uncorrectable s p syms).base = s.base := by
  unfold State.uncorrectable
  simp only [State.base_mk, State.base_eta, State.base_ite, ite_self, State.updPort_base, State.lkCount_base, State.absorb_base]

@[simp] theorem effCodeword_base (p : Nat) (cols : List (List Nat)) (s : State) : (effCodeword p cols s).base = s.base := by
  unfold effCodeword
  repeat' (first | (simp only [State.base_mk, State.base_eta, State.base_ite, ite_self, State.tryMap_base, State.updPort_base, State.bump64_base, State.uncorrectable_base, State.decoded_base]; done) | split | simp only [State.base_mk, State.base_eta, State.base_ite, ite_self, State.tryMap_base, State.updPort_base, State.bump64_base, State.uncorrectable_base, State.decoded_base])

@[simp] theorem State.lcPop_base (s : State) (p : Nat) : (State.lcPop s p).base = s.base := by
  unfold State.lcPop
  simp only [State.base_mk, State.base_eta, State.base_ite, ite_self, State.updPort_base]

@[simp] theorem State.ackViol_base (s : State) (p : Nat) : (State.ackViol s p).base = s.base := by
  unfold State.ackViol
  simp only [State.base_mk, State.base_eta, State.base_ite, ite_self, State.orBits_base, State.bump_base]

@[simp] theorem State.acked_base (s : State) (p vc a : Nat) : (State.acked s p vc a).base = s.base := by
  unfold State.acked
  simp only [State.base_mk, State.base_eta, State.base_ite, ite_self, State.updChan_base, State.ackViol_base]

@[simp] theorem State.offState_base (s : State) (p vc : Nat) (off : Bool) : (State.offState s p vc off).base = s.base := by
  unfold State.offState
  simp only [State.base_mk, State.base_eta, State.base_ite, ite_self, State.updChan_base, State.lkCount_base, State.setField_base]

@[simp] theorem effStatus_base (p : Nat) (s : State) : (effStatus p s).base = s.base := by
  unfold effStatus
  repeat' (first | (simp only [State.base_mk, State.base_eta, State.base_ite, ite_self, State.lcPop_base, State.enterUp_base, State.acked_base, State.offState_base]; done) | split)

@[simp] theorem State.nakOne_base (p vc : Nat) (s : State) (n : Nat) : (State.nakOne p vc s n).base = s.base := by
  unfold State.nakOne
  repeat' (first | (simp only [State.base_mk, State.base_eta, State.base_ite, ite_self, State.lkCount_base, State.updChan_base, State.lcQueue_base, State.bump_base]; done) | split | simp only [State.base_mk, State.base_eta, State.base_ite, ite_self, State.lkCount_base, State.updChan_base, State.lcQueue_base, State.bump_base])

@[simp] theorem effNak_base (p : Nat) (s : State) : (effNak p s).base = s.base := by
  unfold effNak
  repeat' (first | (simp only [State.base_mk, State.base_eta, State.base_ite, ite_self, implies_true, foldl_base, foldlPair_base, State.lcPop_base, State.nakOne_base]; done) | split)

@[simp] theorem effAbandon_base (p : Nat) (s : State) : (effAbandon p s).base = s.base := by
  unfold effAbandon
  repeat' (first | (simp only [State.base_mk, State.base_eta, State.base_ite, ite_self, State.lcPop_base, State.ackViol_base, State.updChan_base, State.updPort_base, State.orBits_base, State.bump_base, State.entryFails_base]; done) | split)

@[simp] theorem effLane_base (p : Nat) (s : State) : (effLane p s).base = s.base := by
  unfold effLane
  repeat' (first | (simp only [State.base_mk, State.base_eta, State.base_ite, ite_self, State.lcPop_base, State.updPort_base]; done) | split)

@[simp] theorem State.identCheck_base (s : State) (p : Nat) : (State.identCheck s p).base = s.base := by
  unfold State.identCheck
  simp only [State.base_mk, State.base_eta, State.base_ite, ite_self, State.updPort_base, State.setField_base, State.setTrain_base, State.idRefused_base]

@[simp] theorem effIdent0_base (p : Nat) (s : State) : (effIdent0 p s).base = s.base := by
  unfold effIdent0
  repeat' (first | (simp only [State.base_mk, State.base_eta, State.base_ite, ite_self, State.lcPop_base, State.setField_base, State.set_base, State.set64_base, State.identCheck_base, State.updPort_base]; done) | split)

@[simp] theorem effIdent1_base (p : Nat) (s : State) : (effIdent1 p s).base = s.base := by
  unfold effIdent1
  repeat' (first | (simp only [State.base_mk, State.base_eta, State.base_ite, ite_self, State.lcPop_base, State.setField_base, State.set64_base, State.identCheck_base, State.updPort_base]; done) | split)

@[simp] theorem State.takeHeader_base (s : State) (p h : Nat) (marks : List Nat) : (State.takeHeader s p h marks).base = s.base := by
  unfold State.takeHeader
  repeat' (first | (simp only [State.base_mk, State.base_eta, State.base_ite, ite_self, State.updPort_base, State.lkCount_base, State.bump_base, State.updChan_base, State.nakAll_base, State.updEntry_base, State.orBits_base, State.recordSub_base]; done) | split | simp only [State.base_mk, State.base_eta, State.base_ite, ite_self, State.updPort_base, State.lkCount_base, State.bump_base, State.updChan_base, State.nakAll_base, State.updEntry_base, State.orBits_base, State.recordSub_base])

@[simp] theorem effPacketHeader_base (p : Nat) (marks : List Nat) (s : State) : (effPacketHeader p marks s).base = s.base := by
  unfold effPacketHeader
  repeat' (first | (simp only [State.base_mk, State.base_eta, State.base_ite, ite_self, State.setPort_base, State.orBits_base, State.lkCount_base, State.bump_base, State.nakAll_base, State.absorb_base, State.takeHeader_base]; done) | split | simp only [State.base_mk, State.base_eta, State.base_ite, ite_self, State.setPort_base, State.orBits_base, State.lkCount_base, State.bump_base, State.nakAll_base, State.absorb_base, State.takeHeader_base])

@[simp] theorem State.entryConfirmed_base (s : State) (p vc i : Nat) (k : RxPkt) : (State.entryConfirmed s p vc i k).base = s.base := by
  unfold State.entryConfirmed
  simp only [State.base_mk, State.base_eta, State.base_ite, ite_self, State.updEntry_base, State.forwardClose_base]

@[simp] theorem effPacketTrailer_base (p : Nat) (s : State) : (effPacketTrailer p s).base = s.base := by
  unfold effPacketTrailer
  repeat' (first | (simp only [State.base_mk, State.base_eta, State.base_ite, ite_self, State.updPort_base, State.updChan_base, State.entryConfirmed_base, State.nakAll_base, State.entryFails_base, State.updEntry_base, State.flow_base]; done) | split)

@[simp] theorem State.calNext_base (s : State) (p : Nat) : (State.calNext s p).1.base = s.base := by
  unfold State.calNext
  simp only [State.base_mk, State.base_eta, State.base_ite, ite_self, State.updPort_base]

@[simp] theorem State.framedAll_base (s : State) (p : Nat) (f : Framing) : (State.framedAll s p f).base = s.base := by
  unfold State.framedAll
  simp only [State.base_mk, State.base_eta, State.base_ite, ite_self, State.updChan_base, State.updPort_base]

@[simp] theorem State.fill_base (p n room : Nat) (s : State) (acc : List Byte) (bad : Bool) : (State.fill p n room s acc bad).1.base = s.base := by
  induction n generalizing room s acc bad with
  | zero => rfl
  | succ n ih =>
    unfold State.fill
    dsimp only
    repeat' (first | rfl | (rw [ih]; first | exact State.updPort_base _ _ _ | exact State.framedAll_base _ _ _) | exact State.updPort_base _ _ _ | split)

@[simp] theorem State.nextFlit_base (s : State) (p : Nat) : (State.nextFlit s p).1.base = s.base := by
  have hf := State.fill_base p (4 + (s.port p).fram.length) 64 s [] false
  unfold State.nextFlit
  split
  · exact State.lcNext_base s p
  · generalize State.fill p (4 + (s.port p).fram.length) 64 s [] false = r at hf
    obtain ⟨t, bs, bad⟩ := r
    dsimp only at hf ⊢
    repeat' (first | exact hf | exact (State.lcNext_base t p).trans hf | exact (State.calNext_base t p).trans hf | split)

@[simp] theorem State.nextFlits_base (p k : Nat) (s : State) : (State.nextFlits p k s).1.base = s.base := by
  induction k generalizing s with
  | zero => rfl
  | succ k ih => exact (ih _).trans (State.nextFlit_base s p)

@[simp] theorem State.codewordSlot_base (s : State) (p : Nat) : (State.codewordSlot s p).base = s.base := by
  unfold State.codewordSlot
  split
  · rw [State.closePeriod_base]
  · exact (State.sendCodeword_base _ _ _ _).trans (State.nextFlits_base p 5 s)

@[simp] theorem State.frameSlot_base (s : State) (p : Nat) : (State.frameSlot s p).base = s.base := by
  unfold State.frameSlot
  simp only [State.base_mk, State.base_eta, State.base_ite, ite_self, State.codewordSlot_base]

@[simp] theorem effLinkControlSend_base (p : Nat) (s : State) : (effLinkControlSend p s).base = s.base := by
  unfold effLinkControlSend
  simp only [State.base_mk, State.base_eta, State.base_ite, ite_self, State.updPort_base]

@[simp] theorem State.leapSend_base (s : State) (p : Nat) (f : State → State) (hf : ∀ y0, (f y0).base = y0.base) : (State.leapSend s p f).base = s.base := by
  unfold State.leapSend
  simp only [State.base_mk, State.base_eta, State.base_ite, ite_self, State.frameBit_base, State.updPort_base, *]

@[simp] theorem State.fireOpt_base (s : State) (m : Option Masque) : (State.fireOpt s m).base = s.base := by
  unfold State.fireOpt
  repeat' (first | (simp only [State.base_mk, State.base_eta, State.base_ite, ite_self, State.masqueFire_base]; done) | split)

@[simp] theorem State.toFramer_base (s : State) (p vc : Nat) (x : TxPkt) (badCrc badCw : Bool) : (State.toFramer s p vc x badCrc badCw).base = s.base := by
  unfold State.toFramer
  simp only [State.base_mk, State.base_eta, State.base_ite, ite_self, State.updPort_base, State.emit_base]

@[simp] theorem State.transmit_base (s : State) (p vc : Nat) (x : TxPkt) : (State.transmit s p vc x).base = s.base := by
  unfold State.transmit
  simp only [State.base_mk, State.base_eta, State.base_ite, ite_self, State.updChan_base, State.toFramer_base, State.updPort_base, State.fireOpt_base, State.lcQueue_base, State.bump_base]

@[simp] theorem effPacketTransmit_base (p vc : Nat) (s : State) : (effPacketTransmit p vc s).base = s.base := by
  unfold effPacketTransmit
  repeat' (first | (simp only [State.base_mk, State.base_eta, State.base_ite, ite_self, implies_true, State.updChan_base, State.lkCount_base, State.leapSend_base, State.transmit_base]; done) | split | simp only [State.base_mk, State.base_eta, State.base_ite, ite_self, implies_true, State.updChan_base, State.lkCount_base, State.leapSend_base, State.transmit_base])

@[simp] theorem effReplayTimeout_base (p vc : Nat) (s : State) : (effReplayTimeout p vc s).base = s.base := by
  unfold effReplayTimeout
  repeat' (first | (simp only [State.base_mk, State.base_eta, State.base_ite, ite_self, State.updChan_base, State.lcQueue_base, State.bump_base]; done) | split)

@[simp] theorem State.resend_base (s : State) (p vc : Nat) (x : TxPkt) : (State.resend s p vc x).base = s.base := by
  unfold State.resend
  simp only [State.base_mk, State.base_eta, State.base_ite, ite_self, State.lkCount_base, State.bump_base, State.updChan_base, State.toFramer_base]

@[simp] theorem effPacketReplay_base (p : Nat) (s : State) : (effPacketReplay p s).base = s.base := by
  unfold effPacketReplay
  repeat' (first | (simp only [State.base_mk, State.base_eta, State.base_ite, ite_self, implies_true, State.leapSend_base, State.resend_base]; done) | split | simp only [State.base_mk, State.base_eta, State.base_ite, ite_self, implies_true, State.leapSend_base, State.resend_base])

@[simp] theorem effPeerVigil_base (p vc : Nat) (s : State) : (effPeerVigil p vc s).base = s.base := by
  unfold effPeerVigil
  repeat' (first | (simp only [State.base_mk, State.base_eta, State.base_ite, ite_self, State.record_base, State.orBits_base, State.updChan_base]; done) | split | simp only [State.base_mk, State.base_eta, State.base_ite, ite_self, State.record_base, State.orBits_base, State.updChan_base])

@[simp] theorem State.takeLine_base (s : State) (p vc k : Nat) : (State.takeLine s p vc k).base = s.base := by
  unfold State.takeLine
  simp only [State.base_mk, State.base_eta, State.base_ite, ite_self, State.updPort_base, State.flow_base, State.updChan_base]

@[simp] theorem State.release_base (s : State) (p vc k : Nat) (failed : Bool) : (State.release s p vc k failed).base = s.base := by
  unfold State.release
  simp only [State.base_mk, State.base_eta, State.base_ite, ite_self, State.flow_base, State.updChan_base]

@[simp] theorem State.portInject_base (s : State) (p : Nat) (a : ArrEntry) (e : Nat) (dest : PktDest) (t : Nat) (ls : List Line) : (State.portInject s p a e dest t ls).base = s.base := by
  unfold State.portInject
  simp only [State.base_mk, State.base_eta, State.base_ite, ite_self, State.inject_base]

@[simp] theorem effRegularDelivery_base (p vc k j : Nat) (s : State) : (effRegularDelivery p vc k j s).base = s.base := by
  unfold effRegularDelivery
  repeat' (first | (simp only [State.base_mk, State.base_eta, State.base_ite, ite_self, implies_true, foldl_base, foldlPair_base, State.updEntry_base, State.portInject_base, State.takeLine_base]; done) | split)

@[simp] theorem State.tellTile_base (s : State) (p : Nat) (a : ArrEntry) (e code t : Nat) : (State.tellTile s p a e code t).base = s.base := by
  unfold State.tellTile
  simp only [State.base_mk, State.base_eta, State.base_ite, ite_self, State.portInject_base]

@[simp] theorem State.syncLost_base (s : State) (ctx eff : Nat) (a : ArrEntry) : (State.syncLost s ctx eff a).base = s.base := by
  unfold State.syncLost
  repeat' (first | (simp only [State.base_mk, State.base_eta, State.base_ite, ite_self, State.xlateFault_base, State.syncPart_base, State.syncErr_base]; done) | split)

@[simp] theorem State.syncPacket_base (s : State) (a : ArrEntry) (d eff : Nat) : (State.syncPacket s a d eff).base = s.base := by
  unfold State.syncPacket
  repeat' (first | (simp only [State.base_mk, State.base_eta, State.base_ite, ite_self, State.xlateFault_base, State.syncAdd_base, State.syncPart_base, State.syncLost_base, State.bump_base]; done) | split | simp only [State.base_mk, State.base_eta, State.base_ite, ite_self, State.xlateFault_base, State.syncAdd_base, State.syncPart_base, State.syncLost_base, State.bump_base])

@[simp] theorem State.exchPush_base (s : State) (p : Nat) (r : FRec) : (State.exchPush s p r).base = s.base := by
  unfold State.exchPush
  simp only [State.base_mk, State.base_eta, State.base_ite, ite_self, State.exchDrop_base]

@[simp] theorem State.exchRecord_base (s : State) (r : FRec) : (State.exchRecord s r).base = s.base := by
  unfold State.exchRecord
  simp only [State.base_mk, State.base_eta, State.base_ite, ite_self, State.flRaise_base, State.exchPush_base]

@[simp] theorem State.exchTake_base (s : State) (p : Nat) (lines : List LineBits) : (State.exchTake s p lines).base = s.base := by
  unfold State.exchTake
  simp only [State.base_mk, State.base_eta, State.base_ite, ite_self, implies_true, foldl_base, foldlPair_base, State.bump_base, State.exchRecord_base]

@[simp] theorem State.settle_base (s : State) (p vc k : Nat) (a : ArrEntry) (t : Nat) : (State.settle s p vc k a t).base = s.base := by
  unfold State.settle
  repeat' (first | (simp only [State.base_mk, State.base_eta, State.base_ite, ite_self, State.release_base, State.syncPacket_base, State.exchTake_base]; done) | split)

@[simp] theorem effNoticeConfirm_base (p vc k : Nat) (s : State) : (effNoticeConfirm p vc k s).base = s.base := by
  unfold effNoticeConfirm
  repeat' (first | (simp only [implies_true, dite_eq_ite, State.base_mk, State.base_eta, State.base_ite, ite_self, State.updEntry_base, State.release_base, State.tellTile_base, State.settle_base, *]; done) | split | simp only [implies_true, dite_eq_ite, State.base_mk, State.base_eta, State.base_ite, ite_self, State.updEntry_base, State.release_base, State.tellTile_base, State.settle_base, *])

@[simp] theorem effNoticeFail_base (p vc k : Nat) (s : State) : (effNoticeFail p vc k s).base = s.base := by
  unfold effNoticeFail
  repeat' (first | (simp only [State.base_mk, State.base_eta, State.base_ite, ite_self, State.release_base, State.tellTile_base, State.updEntry_base]; done) | split)

@[simp] theorem effNoticeLeap_base (p vc k : Nat) (s : State) : (effNoticeLeap p vc k s).base = s.base := by
  unfold effNoticeLeap
  repeat' (first | (simp only [State.base_mk, State.base_eta, State.base_ite, ite_self, State.updEntry_base, State.tellTile_base, State.settle_base]; done) | split | simp only [State.base_mk, State.base_eta, State.base_ite, ite_self, State.updEntry_base, State.tellTile_base, State.settle_base])

@[simp] theorem effNoticeDead_base (p vc k : Nat) (s : State) : (effNoticeDead p vc k s).base = s.base := by
  unfold effNoticeDead
  repeat' (first | (simp only [State.base_mk, State.base_eta, State.base_ite, ite_self, State.updEntry_base, State.tellTile_base, State.syncLost_base]; done) | split)

@[simp] theorem effLeapDelivery_base (p vc k : Nat) (s : State) : (effLeapDelivery p vc k s).base = s.base := by
  unfold effLeapDelivery
  repeat' (first | (simp only [State.base_mk, State.base_eta, State.base_ite, ite_self, State.updEntry_base, State.frameBit_base, State.release_base, State.portInject_base]; done) | split)

@[simp] theorem effRangeResolve_base (n t e : Nat) (s : State) : (effRangeResolve n t e s).base = s.base := by
  unfold effRangeResolve
  simp only [State.base_mk, State.base_eta, State.base_ite, ite_self, State.tileEvent_base]

@[simp] theorem effReexecution_base (n t : Nat) (s : State) : (effReexecution n t s).base = s.base := by
  unfold effReexecution
  simp only [State.base_mk, State.base_eta, State.base_ite, ite_self, State.tileEvent_base]

@[simp] theorem effForwardLine_base (p vc k j : Nat) (s : State) : (effForwardLine p vc k j s).base = s.base := by
  unfold effForwardLine
  repeat' (first | (simp only [State.base_mk, State.base_eta, State.base_ite, ite_self, State.updEntry_base, State.takeLine_base, State.portInject_base, State.forwardAbandon_base, State.release_base]; done) | split | simp only [State.base_mk, State.base_eta, State.base_ite, ite_self, State.updEntry_base, State.takeLine_base, State.portInject_base, State.forwardAbandon_base, State.release_base])

@[simp] theorem effStoreAndForward_base (p vc k : Nat) (s : State) : (effStoreAndForward p vc k s).base = s.base := by
  unfold effStoreAndForward
  repeat' (first | (simp only [State.base_mk, State.base_eta, State.base_ite, ite_self, State.updEntry_base, State.frameBit_base, State.bump_base, State.release_base, State.portInject_base]; done) | split)

@[simp] theorem State.deadlineFault_base (s : State) (p : Nat) (a : ArrEntry) (r : EntryRun) (frame ctx : Nat) : (State.deadlineFault s p a r frame ctx).base = s.base := by
  unfold State.deadlineFault
  simp only [State.base_mk, State.base_eta, State.base_ite, ite_self, State.frameBit_base, State.orBits_base, State.bump_base, State.exchPush_base, State.flRaise_base, State.syncLost_base]

@[simp] theorem State.deadlineNow_base (s : State) (p vc k : Nat) : (State.deadlineNow s p vc k).base = s.base := by
  unfold State.deadlineNow
  repeat' (first | (simp only [State.base_mk, State.base_eta, State.base_ite, ite_self, State.deadlineFault_base, State.updEntry_base]; done) | split)

@[simp] theorem effDeadlineFault_base (p vc k : Nat) (s : State) : (effDeadlineFault p vc k s).base = s.base := by
  unfold effDeadlineFault
  repeat' (first | (simp only [State.base_mk, State.base_eta, State.base_ite, ite_self, State.deadlineFault_base, State.updPort_base, State.deadlineNow_base]; done) | split)

@[simp] theorem State.wallValid_base (s : State) : (State.wallValid s).base = s.base := by
  unfold State.wallValid
  simp only [State.base_mk, State.base_eta, State.base_ite, ite_self, State.setField_base]

@[simp] theorem State.setCounterState_base (s : State) (k : Nat) : (State.setCounterState s k).base = s.base := by
  unfold State.setCounterState
  simp only [State.base_mk, State.base_eta, State.base_ite, ite_self, implies_true, foldl_base, foldlPair_base, State.wallValid_base, State.setField_base]

@[simp] theorem effStepRequest_base (a : Agent) (val : W32) (s : State) : (effStepRequest a val s).base = s.base := by
  unfold effStepRequest
  simp only [State.base_mk, State.base_eta, State.base_ite, ite_self, State.touch_base, State.ignored_base, State.stepAsk_base]

@[simp] theorem effStepChange_base (s : State) : (effStepChange s).base = s.base := by
  unfold effStepChange
  repeat' (first | (simp only [State.base_mk, State.base_eta, State.base_ite, ite_self, State.stepNow_base]; done) | split)

@[simp] theorem State.marginRead_base (s : State) (r m : Nat) : (State.marginRead s r m).base = s.base := by
  unfold State.marginRead
  simp only [State.base_mk, State.base_eta, State.base_ite, ite_self, implies_true, foldl_base, foldlPair_base, State.set_base]

@[simp] theorem State.firmwareLower_base (s : State) (dst : Nat) : (State.firmwareLower s dst).base = s.base := by
  unfold State.firmwareLower
  simp only [State.base_mk, State.base_eta, State.base_ite, ite_self, State.firmwareAsk_base, State.stepAsk_base]

@[simp] theorem effMarginWarning_base (r m : Nat) (s : State) : (effMarginWarning r m s).base = s.base := by
  unfold effMarginWarning
  simp only [State.base_mk, State.base_eta, State.base_ite, ite_self, State.marginRead_base, State.orBits_base, State.bump_base, State.raiseVec_base, State.record_base, State.firmwareLower_base]

@[simp] theorem effMarginWarnEpisodeEnd_base (s : State) : (effMarginWarnEpisodeEnd s).base = s.base := by
  unfold effMarginWarnEpisodeEnd
  repeat' (first | (simp only [State.base_mk, State.base_eta, State.base_ite, ite_self]; done) | split | simp only [State.base_mk, State.base_eta, State.base_ite, ite_self])

@[simp] theorem effMarginCritical_base (r m : Nat) (s : State) : (effMarginCritical r m s).base = s.base := by
  unfold effMarginCritical
  simp only [State.base_mk, State.base_eta, State.base_ite, ite_self, State.marginRead_base, State.record_base, State.orBits_base, State.setField_base, State.cause_base, State.firmwareLower_base]

@[simp] theorem State.timeFault_base (s : State) (detail : Nat) : (State.timeFault s detail).base = s.base := by
  unfold State.timeFault
  simp only [State.base_mk, State.base_eta, State.base_ite, ite_self, State.recordInj_base, State.bump_base, State.orBits_base, State.setCounterState_base, State.cause_base]

@[simp] theorem effCounterCompare_base (s : State) : (effCounterCompare s).base = s.base := by
  unfold effCounterCompare
  simp only [State.base_mk, State.base_eta, State.base_ite, ite_self, State.timeFault_base]

@[simp] theorem effReferenceLoss_base (s : State) : (effReferenceLoss s).base = s.base := by
  unfold effReferenceLoss
  simp only [State.base_mk, State.base_eta, State.base_ite, ite_self, State.record_base, State.orBits_base, State.setField_base]

@[simp] theorem effHoldoverLimit_base (s : State) : (effHoldoverLimit s).base = s.base := by
  unfold effHoldoverLimit
  repeat' (first | (simp only [State.base_mk, State.base_eta, State.base_ite, ite_self, State.timeFault_base]; done) | split)

@[simp] theorem State.onPrimary_base (s : State) : (State.onPrimary s).base = s.base := by
  unfold State.onPrimary
  simp only [State.base_mk, State.base_eta, State.base_ite, ite_self, State.setField_base]

@[simp] theorem State.setRef_base (s : State) (v : Nat) : (State.setRef s v).base = s.base := by
  unfold State.setRef
  simp only [State.base_mk, State.base_eta, State.base_ite, ite_self, State.setField_base, State.set_base]

@[simp] theorem effReferenceRecovery_base (s : State) : (effReferenceRecovery s).base = s.base := by
  unfold effReferenceRecovery
  simp only [State.base_mk, State.base_eta, State.base_ite, ite_self, State.onPrimary_base]

@[simp] theorem effTimePllLock_base (s : State) : (effTimePllLock s).base = s.base := by
  unfold effTimePllLock
  simp only [State.base_mk, State.base_eta, State.base_ite, ite_self, State.onPrimary_base]

@[simp] theorem State.loadCounter_base (s : State) (v phase : Nat) : (State.loadCounter s v phase).base = s.base := by
  unfold State.loadCounter
  simp only [State.base_mk, State.base_eta, State.base_ite, ite_self]

@[simp] theorem State.eqxStatus_base (s : State) (status st : Nat) : (State.eqxStatus s status st).base = s.base := by
  unfold State.eqxStatus
  simp only [State.base_mk, State.base_eta, State.base_ite, ite_self, State.raiseVec_base, State.setField_base]

@[simp] theorem State.eqxSet_base (s : State) : (State.eqxSet s).base = s.base := by
  unfold State.eqxSet
  simp only [State.base_mk, State.base_eta, State.base_ite, ite_self, State.eqxStatus_base, State.setCounterState_base, State.loadCounter_base]

@[simp] theorem State.dropExchanges_base (s : State) : (State.dropExchanges s).base = s.base := by
  unfold State.dropExchanges
  simp only [State.base_mk, State.base_eta, State.base_ite, ite_self, implies_true, foldl_base, foldlPair_base, State.set_base, State.updPort_base]

@[simp] theorem effEquinoxStart_base (a : Agent) (val : W32) (s : State) : (effEquinoxStart a val s).base = s.base := by
  unfold effEquinoxStart
  simp only [State.base_mk, State.base_eta, State.base_ite, ite_self, State.touch_base, State.ignored_base, State.raiseVec_base, State.setField_base, State.dropExchanges_base, State.eqxStatus_base, State.eqxSet_base, State.setCounterState_base, State.loadCounter_base]

@[simp] theorem effPpsEdge_base (s : State) : (effPpsEdge s).base = s.base := by
  unfold effPpsEdge
  simp only [State.base_mk, State.base_eta, State.base_ite, ite_self, State.orBits_base, State.set64_base, State.eqxSet_base]

@[simp] theorem State.eqxFail_base (s : State) (detail : Nat) : (State.eqxFail s detail).base = s.base := by
  unfold State.eqxFail
  simp only [State.base_mk, State.base_eta, State.base_ite, ite_self, State.setCounterState_base, State.record_base, State.eqxStatus_base, State.orBits_base]

@[simp] theorem effEquinoxPpsTimeout_base (s : State) : (effEquinoxPpsTimeout s).base = s.base := by
  unfold effEquinoxPpsTimeout
  simp only [State.base_mk, State.base_eta, State.base_ite, ite_self, State.eqxFail_base]

@[simp] theorem effEquinoxTrialTimeout_base (s : State) : (effEquinoxTrialTimeout s).base = s.base := by
  unfold effEquinoxTrialTimeout
  simp only [State.base_mk, State.base_eta, State.base_ite, ite_self, State.eqxFail_base]

@[simp] theorem effEquinoxCorrection_base (s : State) : (effEquinoxCorrection s).base = s.base := by
  unfold effEquinoxCorrection
  simp only [State.base_mk, State.base_eta, State.base_ite, ite_self, State.loadCounter_base, State.eqxStatus_base, State.setCounterState_base, State.set64_base, State.dropExchanges_base]

@[simp] theorem effCalendsMarkerSend_base (p : Nat) (s : State) : (effCalendsMarkerSend p s).base = s.base := by
  unfold effCalendsMarkerSend
  simp only [State.base_mk, State.base_eta, State.base_ite, ite_self, State.updPort_base]

@[simp] theorem State.setReplayTimeout_base (s : State) (p : Nat) : (State.setReplayTimeout s p).base = s.base := by
  unfold State.setReplayTimeout
  simp only [State.base_mk, State.base_eta, State.base_ite, ite_self, State.setField_base]

@[simp] theorem State.portMeans_base (s : State) (p : Nat) (valid : Bool) : (State.portMeans s p valid).base = s.base := by
  unfold State.portMeans
  simp only [State.base_mk, State.base_eta, State.base_ite, ite_self, implies_true, foldl_base, foldlPair_base, State.set_base]

@[simp] theorem State.neighbour_base (s : State) (p : Nat) : (State.neighbour s p).base = s.base := by
  unfold State.neighbour
  simp only [State.base_mk, State.base_eta, State.base_ite, ite_self, State.record_base, State.orBits_base, State.updPort_base]

@[simp] theorem State.exchange_base (s : State) (p t1 t2 t3 t4 : Nat) : (State.exchange s p t1 t2 t3 t4).base = s.base := by
  unfold State.exchange
  simp only [State.base_mk, State.base_eta, State.base_ite, ite_self, State.updPort_base, State.setField_base]

@[simp] theorem effCalendsMarker_base (p : Nat) (s : State) : (effCalendsMarker p s).base = s.base := by
  unfold effCalendsMarker
  repeat' (first | (simp only [State.base_mk, State.base_eta, State.base_ite, ite_self, State.updPort_base, State.lkCount_base, State.setField_base, State.exchange_base, State.setReplayTimeout_base, State.neighbour_base, State.portMeans_base]; done) | split | simp only [State.base_mk, State.base_eta, State.base_ite, ite_self, State.updPort_base, State.lkCount_base, State.setField_base, State.exchange_base, State.setReplayTimeout_base, State.neighbour_base, State.portMeans_base])

@[simp] theorem effPtpSync_base (off : W64) (s : State) : (effPtpSync off s).base = s.base := by
  unfold effPtpSync
  simp only [State.base_mk, State.base_eta, State.base_ite, ite_self, State.wallValid_base, State.set64_base]

@[simp] theorem State.hbmLines_base (s : State) (hla k : Nat) : (State.hbmLines s hla k).1.base = s.base := by
  induction k with
  | zero => rfl
  | succ k ih =>
    show (State.hbmHostRead (State.hbmLines s hla k).1 (hla + k) false).1.base = s.base
    rw [State.hbmHostRead_base, ih]

@[simp] theorem State.loaderReply_base (s : State) (r : Req) (op status reason locus : Nat) : (State.loaderReply s r op status reason locus).base = s.base := by
  unfold State.loaderReply
  simp only [State.base_mk, State.base_eta, State.base_ite, ite_self, State.set_base, State.reply_base, State.raiseVec_base]

@[simp] theorem State.loaderDo_base (s : State) (r : Req) (op : Nat) (f : List W32 → State) (hf : ∀ y0, (f y0).base = s.base) : (State.loaderDo s r op f).base = s.base := by
  unfold State.loaderDo
  simp only [State.base_mk, State.base_eta, State.base_ite, ite_self, State.loaderReply_base, *]

@[simp] theorem State.checkImage_base (s : State) (hla len : Nat) (reuse : Bool) : (State.checkImage s hla len reuse).1.base = s.base := by
  unfold State.checkImage
  repeat' (first | (simp only [State.base_mk, State.base_eta, State.base_ite, ite_self, State.hbmLines_base, *]; done) | split | simp only [State.base_mk, State.base_eta, State.base_ite, ite_self, State.hbmLines_base, *])

@[simp] theorem State.loadStep3_base (s : State) (p : Plan) : (State.loadStep3 s p).base = s.base := by
  unfold State.loadStep3
  simp only [State.base_mk, State.base_eta, State.base_ite, ite_self, implies_true, foldl_base, foldlPair_base, State.portCtrl_base, State.set_base, State.set64_base]

@[simp] theorem State.loadStep4_base (s : State) (p : Plan) (debug : Bool) : (State.loadStep4 s p debug).base = s.base := by
  unfold State.loadStep4
  simp only [State.set_base]
  rw [foldl_base]
  · simp only [foldl_base, State.setTile_base, implies_true]
  · intro s v
    split <;> simp only [State.setTile_base]

@[simp] theorem State.loadStep5_base (s : State) (p : Plan) : (State.loadStep5 s p).base = s.base := by
  unfold State.loadStep5
  simp only [State.base_mk, State.base_eta, State.base_ite, ite_self, implies_true, foldl_base, foldlPair_base, State.setTile_base, State.hbmWrite_base]

@[simp] theorem State.loadWindows_base (s : State) (p : Plan) (c x : Nat) : (State.loadWindows s p c x).base = s.base := by
  unfold State.loadWindows
  simp only [State.base_mk, State.base_eta, State.base_ite, ite_self, implies_true, foldl_base, foldlPair_base, State.set_base]

@[simp] theorem State.loadStep6_base (s : State) (p : Plan) : (State.loadStep6 s p).base = s.base := by
  unfold State.loadStep6
  repeat' (first | (simp only [State.base_mk, State.base_eta, State.base_ite, ite_self, implies_true, foldl_base, foldlPair_base, State.set_base, State.loadWindows_base, State.setCounter_base, State.clrBits_base, State.setRef_base]; done) | split)

@[simp] theorem State.loadStep7_base (s : State) (p : Plan) (l : Loading) : (State.loadStep7 s p l).base = s.base := by
  unfold State.loadStep7
  simp only [State.base_mk, State.base_eta, State.base_ite, ite_self, implies_true, foldl_base, foldlPair_base, State.portCtrl_base, State.setField_base, State.enter_base, State.set_base]

@[simp] theorem State.load_base (s : State) (r : Req) (ws : List W32) (reuse : Bool) : (State.load s r ws reuse).base = s.base := by
  unfold State.load
  split
  · simp only [State.loaderReply_base]
  · split
    · split
      · simp only [State.loaderReply_base]
      · simp only [State.base_mk, State.base_eta]
        split <;> simp only [State.setChnl_base]
    · simp only []
      have hc := State.checkImage_base s (stagingOf ws).1 (stagingOf ws).2 reuse
      split <;> rename_i h <;> rw [h] at hc
      · simp only [State.loaderReply_base]; exact hc
      · simp only [State.base_mk, State.base_eta, State.loadStep6_base, State.loadStep5_base, State.loadStep4_base, State.loadStep3_base, State.enter_base]; exact hc

@[simp] theorem effPlLoad_base (r : Req) (s : State) : (effPlLoad r s).base = s.base := by
  unfold effPlLoad
  simp only [State.base_mk, State.base_eta, State.base_ite, ite_self, implies_true, State.loaderDo_base, State.load_base]

@[simp] theorem effPlLoadReuse_base (r : Req) (s : State) : (effPlLoadReuse r s).base = s.base := by
  unfold effPlLoadReuse
  simp only [State.base_mk, State.base_eta, State.base_ite, ite_self, implies_true, State.loaderDo_base, State.load_base]

@[simp] theorem effHeldLoadBegin_base (s : State) : (effHeldLoadBegin s).base = s.base := by
  unfold effHeldLoadBegin
  repeat' (first | (simp only [State.base_mk, State.base_eta, State.base_ite, ite_self, State.setChnl_base, State.load_base]; done) | split)

@[simp] theorem State.loadFault_base (s : State) (l : Loading) : (State.loadFault s l).base = s.base := by
  unfold State.loadFault
  simp only [State.base_mk, State.base_eta, State.base_ite, ite_self, State.draw_base, State.record_base, State.setRef_base, State.loaderReply_base, State.enter_base, State.set_base]

@[simp] theorem effLoadCompletion_base (fault : Bool) (s : State) : (effLoadCompletion fault s).base = s.base := by
  unfold effLoadCompletion
  repeat' (first | (simp only [State.base_mk, State.base_eta, State.base_ite, ite_self, State.loadFault_base, State.loaderReply_base, State.loadStep7_base]; done) | split)

@[simp] theorem effPlVerify_base (r : Req) (s : State) : (effPlVerify r s).base = s.base := by
  unfold effPlVerify
  rw [State.loaderDo_base]
  intro ws
  split
  · simp only [State.loaderReply_base]
  · have hc := State.checkImage_base s (stagingOf ws).1 (stagingOf ws).2 false
    split <;> rename_i h <;> rw [h] at hc <;> simp only [State.loaderReply_base] <;> exact hc

@[simp] theorem State.storeLibrary_base (s : State) : (State.storeLibrary s).base = s.base := by
  unfold State.storeLibrary
  simp only [State.base_mk, State.base_eta, State.base_ite, ite_self, State.setField_base]

@[simp] theorem State.unload_base (s : State) : (State.unload s).base = s.base := by
  unfold State.unload
  simp only [State.base_mk, State.base_eta, State.base_ite, ite_self, implies_true, foldl_base, foldlPair_base, State.set_base, State.set64_base, State.setTile_base, State.clrBits_base, State.portCtrl_base, State.setRef_base, State.storeLibrary_base, State.enter_base]

@[simp] theorem effPlUnload_base (r : Req) (s : State) : (effPlUnload r s).base = s.base := by
  unfold effPlUnload
  simp only [State.base_mk, State.base_eta, State.base_ite, ite_self, implies_true, State.loaderDo_base, State.loaderReply_base, State.unload_base]

@[simp] theorem State.armNow_base (s : State) (t0 : Nat) (part : Bool) : (State.armNow s t0 part).base = s.base := by
  unfold State.armNow
  simp only [State.base_mk, State.base_eta, State.base_ite, ite_self, State.setField_base, State.stepNow_base, State.set64_base, State.enter_base]

@[simp] theorem effPlArm_base (r : Req) (s : State) : (effPlArm r s).base = s.base := by
  unfold effPlArm
  simp only [State.base_mk, State.base_eta, State.base_ite, ite_self, implies_true, State.loaderDo_base, State.loaderReply_base, State.armNow_base]

@[simp] theorem State.flushShadow_base (s : State) : (State.flushShadow s).base = s.base := by
  unfold State.flushShadow
  simp only [State.base_mk, State.base_eta, State.base_ite, ite_self, implies_true, foldl_base, foldlPair_base, State.poke_base]

@[simp] theorem State.stopBy_base (s : State) (k : Nat) : (State.stopBy s k).base = s.base := by
  unfold State.stopBy
  simp only [State.base_mk, State.base_eta, State.base_ite, ite_self]

@[simp] theorem State.planStop_base (s : State) : (State.planStop s).base = s.base := by
  unfold State.planStop
  simp only [State.base_mk, State.base_eta, State.base_ite, ite_self, State.stopBy_base, State.flushShadow_base, State.enter_base, State.setField_base]

@[simp] theorem effPlStop_base (r : Req) (s : State) : (effPlStop r s).base = s.base := by
  unfold effPlStop
  simp only [State.base_mk, State.base_eta, State.base_ite, ite_self, implies_true, State.loaderDo_base, State.loaderReply_base, State.planStop_base]

@[simp] theorem effPlAction_base (r : Req) (s : State) : (effPlAction r s).base = s.base := by
  unfold effPlAction
  simp only [State.base_mk, State.base_eta, State.base_ite, ite_self, implies_true, State.loaderDo_base, State.loaderReply_base, State.bump_base]

@[simp] theorem effIntercalaryRequest_base (a : Agent) (val : W32) (s : State) : (effIntercalaryRequest a val s).base = s.base := by
  unfold effIntercalaryRequest
  simp only [State.base_mk, State.base_eta, State.base_ite, ite_self, State.touch_base, State.ignored_base, State.setField_base]

@[simp] theorem State.hwinDeny_base (s : State) : (State.hwinDeny s).base = s.base := by
  unfold State.hwinDeny
  simp only [State.base_mk, State.base_eta, State.base_ite, ite_self, State.orBits_base, State.bump_base]

@[simp] theorem State.hostLine_base (q : HostReq) (sq : State × HostReq) (hla : Nat) : (State.hostLine q sq hla).1.base = sq.1.base := by
  unfold State.hostLine
  repeat' (first | (simp only [State.base_mk, State.base_eta, State.base_ite, ite_self, implies_true, dite_eq_ite, State.hbmHostRead_base, State.hwinDeny_base, *]; done) | split | simp only [State.base_mk, State.base_eta, State.base_ite, ite_self, implies_true, dite_eq_ite, State.hbmHostRead_base, State.hwinDeny_base, *])

theorem hostLines_base (q : HostReq) (l : List Nat) (sq : State × HostReq) : (l.foldl (State.hostLine q) sq).1.base = sq.1.base := by
  induction l generalizing sq with
  | nil => rfl
  | cons x l ih => rw [List.foldl_cons, ih, State.hostLine_base]

@[simp] theorem State.serveRead_base (s : State) (q : HostReq) : (State.serveRead s q).1.base = s.base := by
  show (q.lines.foldl (State.hostLine q) (s, { q with data := [], served := true })).1.base = s.base
  rw [hostLines_base]

@[simp] theorem State.writeLine_base (s : State) (hla : Nat) (bs : List (Option Byte)) : (State.writeLine s hla bs).base = s.base := by
  unfold State.writeLine
  simp only [State.base_mk, State.base_eta, State.base_ite, ite_self, State.hbmWrite_base, State.hbmHostRead_base, *]

@[simp] theorem State.serveWrite_base (s : State) (q : HostReq) : (State.serveWrite s q).base = s.base := by
  unfold State.serveWrite
  simp only [State.base_mk, State.base_eta, State.base_ite, ite_self, implies_true, foldl_base, foldlPair_base, State.writeLine_base, State.hwinDeny_base]

@[simp] theorem State.serveHost_base (s : State) : (State.serveHost s).base = s.base := by
  unfold State.serveHost
  simp only [State.base_mk, State.base_eta, State.base_ite, ite_self, implies_true, foldl_base, foldlPair_base, State.serveRead_base, State.serveWrite_base]

@[simp] theorem State.serveNow_base (s : State) : (State.serveNow s).base = s.base := by
  unfold State.serveNow
  simp only [State.base_mk, State.base_eta, State.base_ite, ite_self, State.serveHost_base]

@[simp] theorem State.copyLine_base (s : State) : (State.copyLine s).base = s.base := by
  unfold State.copyLine
  repeat' (first | (simp only [State.base_mk, State.base_eta, State.base_ite, ite_self, State.hbmHostRead_base, State.record_base, State.hbmWrite_base, State.setField_base]; done) | split | simp only [State.base_mk, State.base_eta, State.base_ite, ite_self, State.hbmHostRead_base, State.record_base, State.hbmWrite_base, State.setField_base])

@[simp] theorem State.copyLines_base (s : State) (k : Nat) : (State.copyLines s k).base = s.base := by
  induction k generalizing s with
  | zero => rfl
  | succ k ih => rw [State.copyLines, ih, State.copyLine_base]

@[simp] theorem State.copySome_base (s : State) : (State.copySome s).base = s.base := by
  unfold State.copySome
  simp only [State.base_mk, State.base_eta, State.base_ite, ite_self, State.draw_base, State.copyLines_base]

@[simp] theorem effPlCopy_base (r : Req) (s : State) : (effPlCopy r s).base = s.base := by
  unfold effPlCopy
  rw [State.answer_base]
  intro ws
  dsimp only
  repeat' (first | (simp only [State.base_mk, State.base_eta, State.reply_base, State.setField_base]; done) | split)

@[simp] theorem effCopyComplete_base (s : State) : (effCopyComplete s).base = s.base := by
  unfold effCopyComplete
  repeat' (first | (simp only [State.base_mk, State.base_eta, State.base_ite, ite_self, State.copyLines_base, State.set_base, State.syncNow_base]; done) | split | simp only [State.base_mk, State.base_eta, State.base_ite, ite_self, State.copyLines_base, State.set_base, State.syncNow_base])

@[simp] theorem effQuietInterval_base (s : State) : (effQuietInterval s).base = s.base := by
  unfold effQuietInterval
  simp only [State.base_mk, State.base_eta, State.base_ite, ite_self, State.copySome_base, State.writeHashes_base, State.drainFaults_base, State.serveHost_base]

@[simp] theorem effGateHold_base (a : Agent) (half : Nat) (val : W32) (s : State) : (effGateHold a half val s).base = s.base := by
  unfold effGateHold
  simp only [State.base_mk, State.base_eta, State.base_ite, ite_self, State.touch_base, State.ignored_base, State.orBits_base, *]

@[simp] theorem effManifestCommit_base (a : Agent) (val : W32) (s : State) : (effManifestCommit a val s).base = s.base := by
  unfold effManifestCommit
  simp only [State.base_mk, State.base_eta, State.base_ite, ite_self, State.touch_base, State.ignored_base, State.set_base, State.bump_base]

@[simp] theorem effBar2Read_base (a : Agent) (off len : Nat) (s : State) : (effBar2Read a off len s).base = s.base := by
  unfold effBar2Read
  repeat' (first | (simp only [State.base_mk, State.base_eta, State.base_ite, ite_self, State.touch_base, State.serveNow_base]; done) | split)

@[simp] theorem effBar2ReadCompletion_base (a : Agent) (s : State) : (effBar2ReadCompletion a s).base = s.base := by
  unfold effBar2ReadCompletion
  repeat' (first | (simp only [State.base_mk, State.base_eta, State.base_ite, ite_self, State.serveNow_base, State.emit_base]; done) | split | simp only [State.base_mk, State.base_eta, State.base_ite, ite_self, State.serveNow_base, State.emit_base])

@[simp] theorem effBar2Write_base (a : Agent) (off : Nat) (data : List (Option Byte)) (s : State) : (effBar2Write a off data s).base = s.base := by
  unfold effBar2Write
  repeat' (first | (simp only [State.base_mk, State.base_eta, State.base_ite, ite_self, State.touch_base, State.serveWrite_base, State.bump_base, State.serveNow_base]; done) | split)

@[simp] theorem State.withholdFlags_base (s : State) : (State.withholdFlags s).base = s.base := by
  unfold State.withholdFlags
  simp only [State.base_mk, State.base_eta, State.base_ite, ite_self]

@[simp] theorem effRailExcursion_base (rail : Nat) (above : Bool) (s : State) : (effRailExcursion rail above s).base = s.base := by
  unfold effRailExcursion
  simp only [State.base_mk, State.base_eta, State.base_ite, ite_self, State.withholdFlags_base, State.orBits_base, State.record_base]

@[simp] theorem effExchangePacketSend_base (p : Nat) (s : State) : (effExchangePacketSend p s).base = s.base := by
  unfold effExchangePacketSend
  repeat' (first | (simp only [State.base_mk, State.base_eta, State.base_ite, ite_self, implies_true, foldl_base, foldlPair_base, State.sendOut_base, State.bump_base]; done) | split)

@[simp] theorem effMasqueRequest_base (r : Req) (s : State) : (effMasqueRequest r s).base = s.base := by
  unfold effMasqueRequest
  simp only [State.base_mk, State.base_eta, State.base_ite, ite_self, implies_true, State.answer_base, State.reply_base]

@[simp] theorem effTraceRingWrite_base (s : State) : (effTraceRingWrite s).base = s.base := by
  unfold effTraceRingWrite
  simp only [State.base_mk, State.base_eta, State.base_ite, ite_self, State.writeTrace_base]

@[simp] theorem State.digToRing_base (s : State) (bytes : Nat) : (State.digToRing s bytes).base = s.base := by
  unfold State.digToRing
  simp only [State.base_mk, State.base_eta, State.base_ite, ite_self, State.ringWrite_base, State.orBits_base, State.bump_base]

@[simp] theorem effDigestRingWrite_base (s : State) : (effDigestRingWrite s).base = s.base := by
  unfold effDigestRingWrite
  simp only [State.base_mk, State.base_eta, State.base_ite, ite_self, implies_true, foldl_base, foldlPair_base, State.digToRing_base]

@[simp] theorem effWatchArm_base (a : Agent) (f : Nat) (val : W32) (s : State) : (effWatchArm a f val s).base = s.base := by
  unfold effWatchArm
  simp only [State.base_mk, State.base_eta, State.base_ite, ite_self, State.touch_base, State.ignored_base, State.set_base]

@[simp] theorem State.watchLine_base (s : State) (n slot l hla : Nat) (run : Option WatchRun) : (State.watchLine s n slot l hla run).1.base = s.base := by
  unfold State.watchLine
  simp only [State.base_mk, State.base_eta, State.base_ite, ite_self, State.putTile_base, State.hbmWrite_base]

@[simp] theorem State.watchPoint_base (s : State) (p : Plan) (w : WatchGroup) (g n : Nat) (x : WatchPoint) : (State.watchPoint s p w g n x).base = s.base := by
  have h := fun (q : State × Option WatchRun) (base k : Nat) =>
    (State.watchLine_base (if k % 2 = 0 then q.1.tileSync n (x.slot + k / 2) else q.1) n (x.slot + k / 2) (x.first + k) (base + k) q.2).trans
      (by rw [State.base_ite, State.tileSync_base, ite_self])
  unfold State.watchPoint
  dsimp only
  split
  · simp only [State.base_mk, State.base_eta]
    exact foldlPair_base _ (fun q k => h q _ k) _ _
  · exact foldlPair_base _ (fun q k => h q _ k) _ _

@[simp] theorem effWatchCopy_base (g i : Nat) (s : State) : (effWatchCopy g i s).base = s.base := by
  unfold effWatchCopy
  split
  · split
    · rfl
    · dsimp only
      split
      · rfl
      · simp only [State.watchPoint_base, State.base_mk, State.base_eta]
  · rfl

@[simp] theorem State.read32_base (s : State) (src off : Nat) : (State.read32 s src off).1.base = s.base := by
  unfold State.read32
  repeat' (first | (simp only [State.base_mk, State.base_eta, State.base_ite, ite_self]; done) | split)

@[simp] theorem State.readReg_base (s : State) (src off size : Nat) : (State.readReg s src off size).1.base = s.base := by
  unfold State.readReg
  repeat' (first | (simp only [State.base_mk, State.base_eta, State.base_ite, ite_self, State.read32_base]; done) | split | simp only [State.base_mk, State.base_eta, State.base_ite, ite_self, State.read32_base])

@[simp] theorem effBar0Read_base (a : Agent) (off size : Nat) (s : State) : (effBar0Read a off size s).base = s.base := by
  unfold effBar0Read
  simp only [State.base_mk, State.base_eta, State.base_ite, ite_self, State.touch_base, State.readReg_base, State.emit_base, State.ignored_base]

@[simp] theorem State.mbxDeny_base (s : State) : (State.mbxDeny s).base = s.base := by
  unfold State.mbxDeny
  simp only [State.base_mk, State.base_eta, State.base_ite, ite_self, State.orBits_base, State.bump_base]

@[simp] theorem State.overrun_base (s : State) (c : Nat) : (State.overrun s c).base = s.base := by
  unfold State.overrun
  simp only [State.base_mk, State.base_eta, State.base_ite, ite_self, State.orBits_base, State.bump_base]

@[simp] theorem State.go_base (s : State) (c : Nat) : (State.go s c).base = s.base := by
  unfold State.go
  simp only [State.base_mk, State.base_eta, State.base_ite, ite_self, State.overrun_base, State.setField_base, State.orBits_base]

@[simp] theorem effMailboxGo_base (a : Agent) (c : Nat) (s : State) : (effMailboxGo a c s).base = s.base := by
  unfold effMailboxGo
  simp only [State.base_mk, State.base_eta, State.base_ite, ite_self, State.touch_base, State.mbxDeny_base, State.go_base]

@[simp] theorem State.releaseChan_base (s : State) (c : Nat) : (State.releaseChan s c).base = s.base := by
  unfold State.releaseChan
  simp only [State.base_mk, State.base_eta, State.base_ite, ite_self, State.clrBits_base]

@[simp] theorem effMailboxRelease_base (a : Agent) (c : Nat) (s : State) : (effMailboxRelease a c s).base = s.base := by
  unfold effMailboxRelease
  simp only [State.base_mk, State.base_eta, State.base_ite, ite_self, State.touch_base, State.mbxDeny_base, State.releaseChan_base]

@[simp] theorem State.mbxWrite_base (s : State) (a : Agent) (o v m : Nat) : (State.mbxWrite s a o v m).base = s.base := by
  unfold State.mbxWrite
  simp only [State.base_mk, State.base_eta, State.base_ite, ite_self, State.mbxDeny_base, State.clrBits_base, State.overrun_base, State.go_base, State.set_base]

@[simp] theorem State.pokeNat_base (s : State) (off v : Nat) : (State.pokeNat s off v).base = s.base := by
  unfold State.pokeNat
  simp only [State.base_mk, State.base_eta, State.base_ite, ite_self, State.poke_base]

@[simp] theorem State.regWrite_base (s : State) (off : Nat) (row : RegRow) (v m : Nat) : (State.regWrite s off row v m).base = s.base := by
  unfold State.regWrite
  repeat' (first | (simp only [State.base_mk, State.base_eta, State.base_ite, ite_self, State.pokeNat_base, State.ignored_base]; done) | split)

@[simp] theorem State.msixWrite_base (s : State) (f o v m : Nat) : (State.msixWrite s f o v m).base = s.base := by
  unfold State.msixWrite
  simp only [State.base_mk, State.base_eta, State.base_ite, ite_self, State.emit_base]

@[simp] theorem State.lkCtrlWrite_base (s : State) (a : Agent) (p v m : Nat) : (State.lkCtrlWrite s a p v m).base = s.base := by
  unfold State.lkCtrlWrite
  simp only [State.base_mk, State.base_eta, State.base_ite, ite_self, State.setField_base, effPortEnable_base]

theorem ite_some_base {c : Prop} [Decidable c] {a : State} {r : Option State} {b : Nat × Fuse × Otp × List Instr} (ha : a.base = b)
    (hr : ∀ t, r = some t → t.base = b) : ∀ t, (if c then some a else r) = some t → t.base = b := by
  intro t h
  by_cases hc : c
  · rw [if_pos hc] at h
    injection h with h
    rw [← h, ha]
  · rw [if_neg hc] at h
    exact hr t h

theorem State.rowWrite_base (s : State) (a : Agent) (off v m : Nat) : ∀ t, State.rowWrite s a off v m = some t → t.base = s.base := by
  unfold State.rowWrite
  refine ite_some_base (effStepRequest_base ..) ?_
  refine ite_some_base (effEquinoxStart_base ..) ?_
  refine ite_some_base (effIntercalaryRequest_base ..) ?_
  refine ite_some_base (effManifestCommit_base ..) ?_
  refine ite_some_base (effGateHold_base ..) ?_
  refine ite_some_base (effGateHold_base ..) ?_
  refine ite_some_base (effSyDoorbell_base ..) ?_
  refine ite_some_base (effWatchArm_base ..) ?_
  refine ite_some_base (by simp only [State.base_ite, State.ignored_base, State.set_base, ite_self]) ?_
  refine ite_some_base (State.lkCtrlWrite_base ..) ?_
  refine ite_some_base (State.mbxWrite_base ..) ?_
  refine ite_some_base ?_ (fun t h => by cases h)
  split
  · exact State.msixWrite_base ..
  · rfl

@[simp] theorem State.write32_base (s : State) (a : Agent) (off v m : Nat) : (State.write32 s a off v m).base = s.base := by
  unfold State.write32
  split
  · rfl
  · split
    · rfl
    · split
      · rename_i h; exact State.rowWrite_base _ _ _ _ _ _ h
      · dsimp only
        simp only [State.base_ite, State.regWrite_base, State.ignored_base, ite_self]

@[simp] theorem effBar0Write_base (a : Agent) (off size : Nat) (val : W64) (en : Nat) (s : State) : (effBar0Write a off size val en s).base = s.base := by
  unfold effBar0Write
  simp only [State.base_mk, State.base_eta, State.base_ite, ite_self, State.touch_base, State.ignored_base, State.write32_base]

@[simp] theorem State.counterPut_base (s : State) (off v incr : Nat) : (State.counterPut s off v incr).base = s.base := by
  unfold State.counterPut
  repeat' (first | (simp only [State.base_mk, State.base_eta, State.base_ite, ite_self, State.pokeNat_base]; done) | split)

@[simp] theorem effCounterWrite_base (a : Agent) (off : Nat) (val : W32) (incr : Nat) (s : State) : (effCounterWrite a off val incr s).base = s.base := by
  unfold effCounterWrite
  simp only [State.base_mk, State.base_eta, State.base_ite, ite_self, State.touch_base, State.counterPut_base]

@[simp] theorem State.redescribe_base (s : State) : (State.redescribe s).base = s.base := by
  unfold State.redescribe
  simp only [State.base_mk, State.base_eta, State.base_ite, ite_self]

@[simp] theorem State.bindRecord_base (s : State) : (State.bindRecord s).base = s.base := by
  unfold State.bindRecord
  simp only [State.base_mk, State.base_eta, State.base_ite, ite_self, implies_true, foldl_base, foldlPair_base, State.setField_base, State.set_base]

@[simp] theorem State.ownerReset_base (s : State) (c : Nat) : (State.ownerReset s c).base = s.base := by
  unfold State.ownerReset
  simp only [State.base_mk, State.base_eta, State.base_ite, ite_self, implies_true, foldl_base, foldlPair_base, State.bump_base, State.clrBits_base, State.set_base, State.setChnl_base]

@[simp] theorem State.ownerResets_base (s : State) (p : Nat → Bool) : (State.ownerResets s p).base = s.base := by
  unfold State.ownerResets
  simp only [State.base_mk, State.base_eta, State.base_ite, ite_self, implies_true, foldl_base, foldlPair_base, State.ownerReset_base]

@[simp] theorem State.fnReset_base (s : State) (f : Nat) : (State.fnReset s f).base = s.base := by
  unfold State.fnReset
  simp only [State.base_mk, State.base_eta, State.base_ite, ite_self, State.set_base]

@[simp] theorem State.pcieReset_base (s : State) : (State.pcieReset s).base = s.base := by
  unfold State.pcieReset
  simp only [State.base_mk, State.base_eta, State.base_ite, ite_self, implies_true, foldl_base, foldlPair_base, State.fnReset_base, State.restore_base, State.ownerResets_base]

@[simp] theorem State.blockReset_base (s : State) (ev : Bool) (keep : Tile → Tile) : (State.blockReset s ev keep).base = s.base := by
  unfold State.blockReset
  simp only [State.base_mk, State.base_eta, State.base_ite, ite_self, State.restore_base]

@[simp] theorem State.rewritePlace_base (s : State) : (State.rewritePlace s).base = s.base := by
  unfold State.rewritePlace
  simp only [State.base_mk, State.base_eta, State.base_ite, ite_self, State.set_base]

@[simp] theorem State.dropLoad_base (s : State) : (State.dropLoad s).base = s.base := by
  unfold State.dropLoad
  repeat' (first | (simp only [State.base_mk, State.base_eta, State.base_ite, ite_self, State.reply_base]; done) | split)

@[simp] theorem State.beginTest_base (s : State) : (State.beginTest s).base = s.base := by
  unfold State.beginTest
  simp only [State.base_mk, State.base_eta, State.base_ite, ite_self, State.set_base, State.clrBits_base, State.orBits_base, State.setField_base, State.serveHost_base]

@[simp] theorem State.lightCarts_base (s : State) : (State.lightCarts s).base = s.base := by
  unfold State.lightCarts
  simp only [State.base_mk, State.base_eta, State.base_ite, ite_self, implies_true, foldl_base, foldlPair_base, State.feeds_base, State.setCart_base]

@[simp] theorem State.testWork_base (s : State) (k : Nat) : (State.testWork s k).base = s.base := by
  unfold State.testWork
  simp only [State.base_mk, State.base_eta, State.base_ite, ite_self, State.orBits_base, State.storeLibrary_base, State.restore_base, State.draw_base, State.setField_base, State.lightCarts_base]

@[simp] theorem State.deviceReset_base (s : State) : (State.deviceReset s).base = s.base := by
  unfold State.deviceReset
  simp only [State.base_mk, State.base_eta, State.base_ite, ite_self, State.rewritePlace_base, State.blockReset_base, State.dropLoad_base, State.raiseVec_base, State.beginTest_base]

@[simp] theorem State.railsOff_base (s : State) : (State.railsOff s).base = s.base := by
  unfold State.railsOff
  simp only [State.base_mk, State.base_eta, State.base_ite, ite_self, implies_true, foldl_base, foldlPair_base, State.blockReset_base, State.dropLoad_base, State.setField_base, State.set_base, State.clrBits_base, State.setCart_base]

@[simp] theorem State.railsOn_base (s : State) : (State.railsOn s).base = s.base := by
  unfold State.railsOn
  simp only [State.base_mk, State.base_eta, State.base_ite, ite_self, State.beginTest_base, State.rewritePlace_base, State.orBits_base]

@[simp] theorem State.tripOff_base (s : State) : (State.tripOff s).base = s.base := by
  unfold State.tripOff
  simp only [State.base_mk, State.base_eta, State.base_ite, ite_self, State.orBits_base, State.railsOff_base]

@[simp] theorem State.setBank_base (s : State) (b : Bool) (k : Bank) : (State.setBank s b k).base = s.base := by
  unfold State.setBank
  repeat' (first | (simp only [implies_true, dite_eq_ite, State.base_mk, State.base_eta, State.base_ite, ite_self, *]; done) | split | simp only [implies_true, dite_eq_ite, State.base_mk, State.base_eta, State.base_ite, ite_self, *])

@[simp] theorem State.enterRecovery_base (s : State) : (State.enterRecovery s).base = s.base := by
  unfold State.enterRecovery
  simp only [State.base_mk, State.base_eta, State.base_ite, ite_self, State.orBits_base, State.set_base, State.bindRecord_base]

@[simp] theorem State.receiveWaiting_base (s : State) : (State.receiveWaiting s).base = s.base := by
  unfold State.receiveWaiting
  simp only [State.base_mk, State.base_eta, State.base_ite, ite_self, implies_true, foldl_base, foldlPair_base, State.fwLog_base]

@[simp] theorem State.controllerStops_base (s : State) : (State.controllerStops s).base = s.base := by
  unfold State.controllerStops
  repeat' (first | (simp only [State.base_mk, State.base_eta, State.base_ite, ite_self, implies_true, foldl_base, foldlPair_base, State.loadFault_base, State.clrBits_base, State.postChan_base, State.setChnl_base, State.setField_base, State.set64_base]; done) | split | simp only [State.base_mk, State.base_eta, State.base_ite, ite_self, implies_true, foldl_base, foldlPair_base, State.loadFault_base, State.clrBits_base, State.postChan_base, State.setChnl_base, State.setField_base, State.set64_base])

@[simp] theorem State.stage_base (s : State) (bs : List Byte) : (State.stage s bs).1.base = s.base := by
  unfold State.stage
  simp only [State.base_mk, State.base_eta, State.base_ite, ite_self, State.setBank_base]

@[simp] theorem effMailboxTake_base (c : Nat) (s : State) : (effMailboxTake c s).base = s.base := by
  unfold effMailboxTake
  simp only [State.base_mk, State.base_eta, State.base_ite, ite_self, State.setChnl_base, State.postChan_base]

@[simp] theorem State.mgDo_base (s : State) (r : Req) (op : Nat) (senders named : List Nat) (f : List W32 → State) (hf : ∀ y0, (f y0).base = s.base) : (State.mgDo s r op senders named f).base = s.base := by
  unfold State.mgDo
  simp only [State.base_mk, State.base_eta, State.base_ite, ite_self, implies_true, State.answer_base, State.reply_base, *]

@[simp] theorem effMgInfo_base (r : Req) (s : State) : (effMgInfo r s).base = s.base := by
  unfold effMgInfo
  simp only [State.base_mk, State.base_eta, State.base_ite, ite_self, implies_true, State.mgDo_base, State.reply_base]

@[simp] theorem effMgFaultlog_base (r : Req) (s : State) : (effMgFaultlog r s).base = s.base := by
  unfold effMgFaultlog
  simp only [State.base_mk, State.base_eta, State.base_ite, ite_self, implies_true, State.mgDo_base, State.reply_base]

@[simp] theorem effMgDescribe_base (r : Req) (s : State) : (effMgDescribe r s).base = s.base := by
  unfold effMgDescribe
  simp only [State.base_mk, State.base_eta, State.base_ite, ite_self, implies_true, State.mgDo_base, State.reply_base]

@[simp] theorem effMgSelftest_base (r : Req) (s : State) : (effMgSelftest r s).base = s.base := by
  unfold effMgSelftest
  simp only [State.base_mk, State.base_eta, State.base_ite, ite_self, implies_true, foldl_base, foldlPair_base, State.mgDo_base, State.reply_base, State.unload_base, State.portCtrl_base, State.setField_base, State.setCounterState_base, State.beginTest_base]

@[simp] theorem effSelftestPhaseEnd_base (fault : Bool) (s : State) : (effSelftestPhaseEnd fault s).base = s.base := by
  unfold effSelftestPhaseEnd
  simp only [State.base_mk, State.base_eta, State.base_ite, ite_self, State.testWork_base, State.orBits_base, State.emit_base, State.setField_base, State.clrBits_base, State.redescribe_base]

@[simp] theorem effMgResetDevice_base (r : Req) (s : State) : (effMgResetDevice r s).base = s.base := by
  unfold effMgResetDevice
  simp only [State.base_mk, State.base_eta, State.base_ite, ite_self, implies_true, State.mgDo_base, State.deviceReset_base, State.reply_base]

@[simp] theorem effMgShutdown_base (r : Req) (s : State) : (effMgShutdown r s).base = s.base := by
  unfold effMgShutdown
  simp only [State.base_mk, State.base_eta, State.base_ite, ite_self, implies_true, State.mgDo_base, State.reply_base, State.clrBits_base, State.planStop_base, State.orBits_base]

@[simp] theorem effShutdownComplete_base (s : State) : (effShutdownComplete s).base = s.base := by
  unfold effShutdownComplete
  repeat' (first | (simp only [State.base_mk, State.base_eta, State.base_ite, ite_self, State.clrBits_base, State.railsOff_base, State.postChan_base]; done) | split | simp only [State.base_mk, State.base_eta, State.base_ite, ite_self, State.clrBits_base, State.railsOff_base, State.postChan_base])

@[simp] theorem effMgPowerOn_base (r : Req) (s : State) : (effMgPowerOn r s).base = s.base := by
  unfold effMgPowerOn
  simp only [State.base_mk, State.base_eta, State.base_ite, ite_self, implies_true, State.mgDo_base, State.reply_base, State.orBits_base]

@[simp] theorem State.keyDo_base (s : State) (r : Req) (item : Nat) (named : List Nat) (f : List W32 → State) (hf : ∀ y0, (f y0).base = s.base) : (State.keyDo s r item named f).base = s.base := by
  unfold State.keyDo
  simp only [State.base_mk, State.base_eta, State.base_ite, ite_self, implies_true, State.answer_base, State.mgDo_base, State.reply_base, *]

@[simp] theorem effMgKeyHalfTimeout_base (s : State) : (effMgKeyHalfTimeout s).base = s.base := by
  unfold effMgKeyHalfTimeout
  rw [foldl_base]
  intro s c
  split
  · simp only [State.base_ite, State.setChnl_base, ite_self]
  · rfl

@[simp] theorem effMgPlace_base (r : Req) (s : State) : (effMgPlace r s).base = s.base := by
  unfold effMgPlace
  simp only [State.base_mk, State.base_eta, State.base_ite, ite_self, implies_true, State.mgDo_base, State.reply_base, State.rewritePlace_base]

@[simp] theorem effMgConfig_base (r : Req) (s : State) : (effMgConfig r s).base = s.base := by
  unfold effMgConfig
  simp only [State.base_mk, State.base_eta, State.base_ite, ite_self, implies_true, State.mgDo_base, State.reply_base]

@[simp] theorem State.mctpReply_base (s : State) (typ row arg value : Nat) : (State.mctpReply s typ row arg value).base = s.base := by
  unfold State.mctpReply
  simp only [State.base_mk, State.base_eta, State.base_ite, ite_self, State.emit_base]

@[simp] theorem State.fwReply_base (s : State) (typ row arg value : Nat) : (State.fwReply s typ row arg value).base = s.base := by
  unfold State.fwReply
  simp only [State.base_mk, State.base_eta, State.base_ite, ite_self, State.mctpReply_base]

@[simp] theorem State.pldmReply_base (s : State) (row arg value : Nat) : (State.pldmReply s row arg value).base = s.base := by
  unfold State.pldmReply
  simp only [State.base_mk, State.base_eta, State.base_ite, ite_self, State.mctpReply_base, State.fwReply_base]

@[simp] theorem effSetEndpointId_base (eid : Nat) (s : State) : (effSetEndpointId eid s).base = s.base := by
  unfold effSetEndpointId
  simp only [State.base_mk, State.base_eta, State.base_ite, ite_self, State.ownerResets_base, State.mctpReply_base]

@[simp] theorem effGetEndpointId_base (body : List Byte) (s : State) : (effGetEndpointId body s).base = s.base := by
  unfold effGetEndpointId
  simp only [State.base_mk, State.base_eta, State.base_ite, ite_self, State.mctpReply_base]

@[simp] theorem effGetMctpVersionSupport_base (body : List Byte) (s : State) : (effGetMctpVersionSupport body s).base = s.base := by
  unfold effGetMctpVersionSupport
  simp only [State.base_mk, State.base_eta, State.base_ite, ite_self, State.mctpReply_base]

@[simp] theorem effGetMessageTypeSupport_base (body : List Byte) (s : State) : (effGetMessageTypeSupport body s).base = s.base := by
  unfold effGetMessageTypeSupport
  simp only [State.base_mk, State.base_eta, State.base_ite, ite_self, State.mctpReply_base]

@[simp] theorem effGetVendorDefinedMessageSupport_base (body : List Byte) (s : State) : (effGetVendorDefinedMessageSupport body s).base = s.base := by
  unfold effGetVendorDefinedMessageSupport
  simp only [State.base_mk, State.base_eta, State.base_ite, ite_self, State.mctpReply_base]

@[simp] theorem effPldmBaseDiscovery_base (body : List Byte) (s : State) : (effPldmBaseDiscovery body s).base = s.base := by
  unfold effPldmBaseDiscovery
  simp only [State.base_mk, State.base_eta, State.base_ite, ite_self, State.pldmReply_base]

@[simp] theorem effPldmSensorRead_base (body : List Byte) (s : State) : (effPldmSensorRead body s).base = s.base := by
  unfold effPldmSensorRead
  simp only [State.base_mk, State.base_eta, State.base_ite, ite_self, State.draw_base, State.fwReply_base]

@[simp] theorem effPldmFruData_base (body : List Byte) (s : State) : (effPldmFruData body s).base = s.base := by
  unfold effPldmFruData
  simp only [State.base_mk, State.base_eta, State.base_ite, ite_self, State.pldmReply_base]

@[simp] theorem effGetVersion_base (body : List Byte) (s : State) : (effGetVersion body s).base = s.base := by
  unfold effGetVersion
  simp only [State.base_mk, State.base_eta, State.base_ite, ite_self, State.fwReply_base]

@[simp] theorem effGetCapabilities_base (body : List Byte) (s : State) : (effGetCapabilities body s).base = s.base := by
  unfold effGetCapabilities
  simp only [State.base_mk, State.base_eta, State.base_ite, ite_self, State.fwReply_base]

@[simp] theorem effNegotiateAlgorithms_base (body : List Byte) (s : State) : (effNegotiateAlgorithms body s).base = s.base := by
  unfold effNegotiateAlgorithms
  simp only [State.base_mk, State.base_eta, State.base_ite, ite_self, State.fwReply_base]

@[simp] theorem effGetDigests_base (body : List Byte) (s : State) : (effGetDigests body s).base = s.base := by
  unfold effGetDigests
  simp only [State.base_mk, State.base_eta, State.base_ite, ite_self, State.fwReply_base]

@[simp] theorem effGetCertificate_base (body : List Byte) (s : State) : (effGetCertificate body s).base = s.base := by
  unfold effGetCertificate
  simp only [State.base_mk, State.base_eta, State.base_ite, ite_self, State.fwReply_base]

@[simp] theorem effChallenge_base (body : List Byte) (s : State) : (effChallenge body s).base = s.base := by
  unfold effChallenge
  simp only [State.base_mk, State.base_eta, State.base_ite, ite_self, State.draw_base, State.fwReply_base]

@[simp] theorem effGetMeasurements_base (body : List Byte) (s : State) : (effGetMeasurements body s).base = s.base := by
  unfold effGetMeasurements
  simp only [State.base_mk, State.base_eta, State.base_ite, ite_self, State.fwReply_base]

@[simp] theorem effMailboxTunnel_base (c : Nat) (words : List W32) (s : State) : (effMailboxTunnel c words s).base = s.base := by
  unfold effMailboxTunnel
  simp only [State.base_mk, State.base_eta, State.base_ite, ite_self, implies_true, foldl_base, foldlPair_base, State.mbxDeny_base, State.overrun_base, State.go_base, State.set_base]

@[simp] theorem effRegisterRead_base (size off : Nat) (s : State) : (effRegisterRead size off s).base = s.base := by
  unfold effRegisterRead
  split
  · rfl
  · dsimp only
    rw [State.emit_base]
    repeat' (first | rfl | exact State.readReg_base _ _ _ _ | split)

@[simp] theorem effRegisterWrite_base (size off : Nat) (val : W64) (s : State) : (effRegisterWrite size off val s).base = s.base := by
  unfold effRegisterWrite
  repeat' (first | (simp only [State.base_mk, State.base_eta, State.base_ite, ite_self, State.ignored_base, effCounterWrite_base, State.emit_base]; done) | split | simp only [State.base_mk, State.base_eta, State.base_ite, ite_self, State.ignored_base, effCounterWrite_base, State.emit_base])

@[simp] theorem State.coldStart_base (s : State) : (State.coldStart s).base = s.base := by
  unfold State.coldStart
  simp only [State.base_mk, State.base_eta, State.base_ite, ite_self, implies_true, foldl_base, foldlPair_base]

@[simp] theorem effAuxInputLoss_base (s : State) : (effAuxInputLoss s).base = s.base := by
  unfold effAuxInputLoss
  simp only [State.base_mk, State.base_eta, State.base_ite, ite_self, State.coldStart_base]

@[simp] theorem effMainPowerUp_base (s : State) : (effMainPowerUp s).base = s.base := by
  unfold effMainPowerUp
  simp only [State.base_mk, State.base_eta, State.base_ite, ite_self, State.railsOn_base]

@[simp] theorem effMainInputLoss_base (s : State) : (effMainInputLoss s).base = s.base := by
  unfold effMainInputLoss
  simp only [State.base_mk, State.base_eta, State.base_ite, ite_self, State.tripOff_base]

@[simp] theorem effThermalTrip_base (sensor : Nat) (s : State) : (effThermalTrip sensor s).base = s.base := by
  unfold effThermalTrip
  simp only [State.base_mk, State.base_eta, State.base_ite, ite_self, State.tripOff_base, State.emit_base]

@[simp] theorem effCoolantExcursion_base (outlet : Bool) (temp : Int) (s : State) : (effCoolantExcursion outlet temp s).base = s.base := by
  unfold effCoolantExcursion
  simp only [State.base_mk, State.base_eta, State.base_ite, ite_self, State.emit_base]

@[simp] theorem effPerstAssert_base (s : State) : (effPerstAssert s).base = s.base := by
  unfold effPerstAssert
  simp only [State.base_mk, State.base_eta, State.base_ite, ite_self, State.pcieReset_base, State.deviceReset_base]

@[simp] theorem effPcieHotReset_base (s : State) : (effPcieHotReset s).base = s.base := by
  unfold effPcieHotReset
  simp only [State.base_mk, State.base_eta, State.base_ite, ite_self, State.pcieReset_base]

@[simp] theorem effFlrPf0_base (s : State) : (effFlrPf0 s).base = s.base := by
  unfold effFlrPf0
  simp only [State.base_mk, State.base_eta, State.base_ite, ite_self, State.pcieReset_base]

@[simp] theorem effFlrVf_base (n : Nat) (s : State) : (effFlrVf n s).base = s.base := by
  unfold effFlrVf
  simp only [State.base_mk, State.base_eta, State.base_ite, ite_self, State.ownerResets_base, State.fnReset_base]

@[simp] theorem State.cartDark_base (s : State) (c : Nat) : (State.cartDark s c).base = s.base := by
  unfold State.cartDark
  simp only [State.base_mk, State.base_eta, State.base_ite, ite_self, State.feedsLost_base, State.setCart_base]

@[simp] theorem effCartridgeLatchLift_base (c : Nat) (s : State) : (effCartridgeLatchLift c s).base = s.base := by
  unfold effCartridgeLatchLift
  simp only [State.base_mk, State.base_eta, State.base_ite, ite_self, State.cartDark_base, State.setCart_base]

@[simp] theorem effCartridgeLatchClose_base (c : Nat) (s : State) : (effCartridgeLatchClose c s).base = s.base := by
  unfold effCartridgeLatchClose
  simp only [State.base_mk, State.base_eta, State.base_ite, ite_self, State.setCart_base]

@[simp] theorem effCartridgeStart_base (c : Nat) (s : State) : (effCartridgeStart c s).base = s.base := by
  unfold effCartridgeStart
  repeat' (first | (simp only [State.base_mk, State.base_eta, State.base_ite, ite_self, State.feeds_base, State.setCart_base]; done) | split | simp only [State.base_mk, State.base_eta, State.base_ite, ite_self, State.feeds_base, State.setCart_base])

@[simp] theorem State.clockEdge_base (s : State) : (State.clockEdge s).base = s.base := by
  unfold State.clockEdge
  simp only [State.base_mk, State.base_eta, State.base_ite, ite_self]

@[simp] theorem State.stepTime_base (s : State) : (State.stepTime s).base = s.base := by
  unfold State.stepTime
  simp only [State.base_mk, State.base_eta, State.base_ite, ite_self, State.bump64_base]

@[simp] theorem State.lateIrq_base (s : State) : (State.lateIrq s).base = s.base := by
  unfold State.lateIrq
  simp only [State.base_mk, State.base_eta, State.base_ite, ite_self, State.raiseVec_base]

@[simp] theorem State.frameSlots_base (s : State) : (State.frameSlots s).base = s.base := by
  unfold State.frameSlots
  simp only [State.base_mk, State.base_eta, State.base_ite, ite_self, implies_true, foldl_base, foldlPair_base, State.frameSlot_base]

/-! One-time storage only grows, and no command turns the clock back or touches the queue. -/

theorem bitAt_eq_testBit (n i : Nat) : bitAt n i = n.testBit i := by
  rw [Nat.testBit_eq_decide_div_mod_eq, ← Nat.shiftRight_eq_div_pow]
  unfold bitAt
  by_cases h : n >>> i % 2 = 1 <;> simp [h]

theorem bitAt_or_left (a b i : Nat) (h : bitAt a i = true) : bitAt (a ||| b) i = true := by
  rw [bitAt_eq_testBit] at h ⊢
  simp [h]

theorem Otp.grows_refl (o : Otp) : o.grows o := ⟨rfl, fun _ h => h, Nat.le_refl _, fun _ _ h => h, fun _ h => h, fun h => h⟩

theorem Otp.grows_trans {a b c : Otp} (h : a.grows b) (h' : b.grows c) : a.grows c :=
  ⟨h'.1.trans h.1, fun k x => h'.2.1 k (h.2.1 k x), Nat.le_trans h.2.2.1 h'.2.2.1, fun k key x => h'.2.2.2.1 k key (h.2.2.2.1 k key x),
    fun k x => h'.2.2.2.2.1 k (h.2.2.2.2.1 k x), fun x => h'.2.2.2.2.2 (h.2.2.2.2.2 x)⟩

theorem State.grows_of_base {s u : State} (h : u.base = s.base) : s.grows u := by
  simp only [State.base, Prod.mk.injEq] at h
  exact ⟨h.1, h.2.1, h.2.2.2, h.2.2.1 ▸ Otp.grows_refl _⟩

theorem State.grows_refl (s : State) : s.grows s := State.grows_of_base rfl

theorem State.grows_trans {s u v : State} (h : s.grows u) (h' : u.grows v) : s.grows v :=
  ⟨h'.1.trans h.1, h'.2.1.trans h.2.1, h'.2.2.1.trans h.2.2.1, Otp.grows_trans h.2.2.2 h'.2.2.2⟩

theorem State.grows_then {s u v : State} (h : s.grows u) (h' : v.base = u.base) : s.grows v := State.grows_trans h (State.grows_of_base h')

theorem State.after_grows {s u v : State} (h : u.base = s.base) (h' : u.grows v) : s.grows v := State.grows_trans (State.grows_of_base h) h'

theorem State.burn_grows (s : State) (o : Otp) (h : s.mg.otp.grows o) : s.grows (s.burn o) := ⟨rfl, rfl, rfl, h⟩

theorem State.raiseRollback_grows (s : State) (k : Bank) : s.grows (s.raiseRollback k) := by
  unfold State.raiseRollback
  split
  · rename_i h
    simp only [Bool.and_eq_true, decide_eq_true_eq] at h
    exact ⟨rfl, rfl, rfl, rfl, fun _ h => h, Nat.le_of_lt h.2, fun _ _ h => h, fun _ h => h, fun h => h⟩
  · exact State.grows_refl _

theorem State.startBank_grows (s : State) (b : Bool) : s.grows (s.startBank b) := by
  refine State.grows_then (State.raiseRollback_grows s (s.bank b)) ?_
  unfold State.startBank
  simp only [State.redescribe_base, State.bindRecord_base, State.clrBits_base, State.orBits_base, State.base_ite, State.set_base, State.base_mk, State.base_eta,
    State.setField_base, ite_self]

theorem State.boot_grows (s : State) (pick : Option Bool) : s.grows (s.boot pick) := by
  unfold State.boot
  split
  · exact State.startBank_grows _ _
  · exact State.grows_of_base (State.enterRecovery_base _)

theorem State.mgmtReset_grows (s : State) (pick : Option Bool) : s.grows (s.mgmtReset pick) := by
  have h : s.grows (s.controllerStops.boot pick) := State.after_grows (State.controllerStops_base s) (State.boot_grows _ _)
  unfold State.mgmtReset
  dsimp only
  split
  · exact h
  · refine State.grows_then ?_ (State.receiveWaiting_base _)
    split
    · exact State.grows_then (State.grows_then h (State.storeLibrary_base _)) (State.redescribe_base _)
    · exact h

theorem State.leaveRecovery_grows (s : State) : s.grows s.leaveRecovery := by
  unfold State.leaveRecovery
  dsimp only
  split
  · refine State.grows_then (State.grows_trans ?_ (State.boot_grows _ _)) (State.receiveWaiting_base _)
    exact ⟨rfl, rfl, rfl, Otp.grows_refl _⟩
  · exact State.grows_refl _

/-- A request whose handler only lets one-time storage grow. -/
theorem State.answer_grows (s : State) (r : Req) (op : Nat) (f : List W32 → State) (h : ∀ ws, s.grows (f ws)) : s.grows (s.answer r op f) := by
  unfold State.answer
  repeat' (first | exact State.grows_refl _ | exact h _ | exact State.grows_of_base (State.reply_base _ _ _ _) | split)

theorem State.mgDo_grows (s : State) (r : Req) (op : Nat) (senders named : List Nat) (f : List W32 → State) (h : ∀ ws, s.grows (f ws)) :
    s.grows (s.mgDo r op senders named f) := by
  unfold State.mgDo
  refine State.answer_grows _ _ _ _ (fun ws => ?_)
  split
  · exact h ws
  · exact State.grows_of_base (State.reply_base _ _ _ _)

theorem State.keyDo_grows (s : State) (r : Req) (item : Nat) (named : List Nat) (f : List W32 → State) (h : ∀ ws, s.grows (f ws)) :
    s.grows (s.keyDo r item named f) := by
  unfold State.keyDo
  refine State.answer_grows _ _ _ _ (fun ws => ?_)
  split
  · exact State.grows_refl _
  · refine State.mgDo_grows _ _ _ _ _ _ (fun ws => ?_)
    split
    · exact h ws
    · exact State.grows_of_base (State.reply_base _ _ _ _)

theorem effAuxPowerGood_grows (strap : Nat) (s : State) : s.grows (effAuxPowerGood strap s) := by
  unfold effAuxPowerGood
  split
  · exact State.grows_refl _
  · dsimp only
    refine State.grows_trans ?_ (State.boot_grows _ _)
    exact ⟨rfl, rfl, rfl, Otp.grows_refl _⟩

theorem effMgResetManagement_grows (r : Req) (s : State) : s.grows (effMgResetManagement r s) := by
  unfold effMgResetManagement
  refine State.mgDo_grows _ _ _ _ _ _ (fun ws => ?_)
  split
  · exact State.after_grows (State.reply_base _ _ _ _) (State.mgmtReset_grows _ _)
  · exact State.grows_refl _

theorem effMgmtLockstepMiscompare_grows (sig : W32) (s : State) : s.grows (effMgmtLockstepMiscompare sig s) := by
  unfold effMgmtLockstepMiscompare
  split
  · exact State.grows_refl _
  · dsimp only
    refine State.after_grows ?_ (State.mgmtReset_grows _ _)
    simp only [State.record_base, State.orBits_base, State.clrBits_base]

theorem effMgFwStage_grows (r : Req) (s : State) : s.grows (effMgFwStage r s) := by
  unfold effMgFwStage
  refine State.mgDo_grows _ _ _ _ _ _ (fun ws => ?_)
  dsimp only
  split
  · exact State.grows_of_base (State.reply_base _ _ _ _)
  · split
    · refine State.after_grows ?_ (State.leaveRecovery_grows _)
      simp only [State.reply_base, State.stage_base, State.hbmLines_base]
    · refine State.grows_of_base ?_
      simp only [State.reply_base, State.stage_base, State.hbmLines_base]

theorem effMgFwActivate_grows (r : Req) (s : State) : s.grows (effMgFwActivate r s) := by
  unfold effMgFwActivate
  refine State.mgDo_grows _ _ _ _ _ _ (fun ws => ?_)
  dsimp only
  split
  · exact State.grows_of_base (State.reply_base _ _ _ _)
  · refine State.after_grows ?_ (State.mgmtReset_grows _ _)
    simp only [State.base_mk, State.base_eta, State.reply_base]

theorem effPldmFirmwareUpdate_grows (image : List Byte) (s : State) : s.grows (effPldmFirmwareUpdate image s) := by
  unfold effPldmFirmwareUpdate
  split
  · exact State.grows_refl _
  · split
    · exact State.grows_of_base (State.mctpReply_base _ _ _ _ _)
    · split
      · exact State.grows_of_base (State.mctpReply_base _ _ _ _ _)
      · dsimp only
        split
        · refine State.after_grows ?_ (State.leaveRecovery_grows _)
          simp only [State.mctpReply_base, State.stage_base]
        · refine State.grows_of_base ?_
          simp only [State.mctpReply_base, State.stage_base]

theorem effMgKeyRevokeFirmware_grows (r : Req) (s : State) : s.grows (effMgKeyRevokeFirmware r s) := by
  unfold effMgKeyRevokeFirmware
  refine State.keyDo_grows _ _ _ _ _ (fun ws => ?_)
  dsimp only
  split
  · exact State.grows_of_base (State.reply_base _ _ _ _)
  · refine State.grows_then (State.burn_grows _ _ ?_) (State.reply_base _ _ _ _)
    exact ⟨rfl, fun k h => bitAt_or_left _ _ _ h, Nat.le_refl _, fun _ _ h => h, fun _ h => h, fun h => h⟩

theorem effMgKeyRevokePlan_grows (r : Req) (s : State) : s.grows (effMgKeyRevokePlan r s) := by
  unfold effMgKeyRevokePlan
  refine State.keyDo_grows _ _ _ _ _ (fun ws => ?_)
  dsimp only
  split
  · exact State.grows_of_base (State.reply_base _ _ _ _)
  · refine State.grows_then (State.burn_grows _ _ ?_) (State.reply_base _ _ _ _)
    exact ⟨rfl, fun _ h => h, Nat.le_refl _, fun _ _ h => h, fun k h => bitAt_or_left _ _ _ h, fun h => h⟩

theorem effMgKeySetRequired_grows (r : Req) (s : State) : s.grows (effMgKeySetRequired r s) := by
  unfold effMgKeySetRequired
  refine State.keyDo_grows _ _ _ _ _ (fun ws => ?_)
  refine State.grows_then (State.burn_grows _ _ ?_) (State.reply_base _ _ _ _)
  exact ⟨rfl, fun _ h => h, Nat.le_refl _, fun _ _ h => h, fun _ h => h, fun _ => rfl⟩

theorem effMgKeyWritePlan_grows (r : Req) (s : State) : s.grows (effMgKeyWritePlan r s) := by
  unfold effMgKeyWritePlan
  refine State.keyDo_grows _ _ _ _ _ (fun ws => ?_)
  cases r with
  | firm _ => exact State.grows_refl _
  | chan c =>
    dsimp only
    split
    · exact State.grows_of_base (by simp only [State.reply_base, State.setChnl_base])
    · split
      · exact State.grows_of_base (by simp only [State.reply_base, State.setChnl_base])
      · split
        · exact State.grows_of_base (by simp only [State.reply_base, State.setChnl_base])
        · split
          · exact State.grows_of_base (by simp only [State.reply_base, State.setChnl_base])
          · rename_i hk
            refine State.grows_then ?_ (State.reply_base _ _ _ _)
            refine State.after_grows (State.setChnl_base s c { s.chnl c with half := none }) (State.burn_grows _ _ ?_)
            refine ⟨rfl, fun _ h => h, Nat.le_refl _, fun k key h => ?_, fun _ h => h, fun h => h⟩
            have hn : smapGet (fun _ => none) s.mg.otp.planKeys (keySlot ws) = none := by
              cases hs : smapGet (fun _ => none) s.mg.otp.planKeys (keySlot ws) with
              | none => rfl
              | some x => exact absurd (Or.inr (Or.inr (Or.inl (by rw [hs]; rfl)))) hk
            have hne : k ≠ keySlot ws := by
              intro e
              rw [e] at h
              exact absurd (hn.symm.trans h) (by simp)
            dsimp only
            rw [smapGet_put_other _ _ _ hne]
            exact h

end Sys2Proof.Machine
end

