-- ==== Sys2Proof/Laws/State.lean ====
section
/-! SUPPORT. The updates of the state: every field that an update does not name stays, and what is read after a write of a register, a tile or a scalar
register. -/

namespace Sys2Proof.Machine

/-! The device. -/

@[simp] theorem State.set_now (s : State) (off v : Nat) : (State.set s off v).now = s.now := rfl
@[simp] theorem State.set_shadow (s : State) (off v : Nat) : (State.set s off v).shadow = s.shadow := rfl
@[simp] theorem State.set_latches (s : State) (off v : Nat) : (State.set s off v).latches = s.latches := rfl
@[simp] theorem State.set_fuse (s : State) (off v : Nat) : (State.set s off v).fuse = s.fuse := rfl
@[simp] theorem State.set_frame (s : State) (off v : Nat) : (State.set s off v).frame = s.frame := rfl
@[simp] theorem State.set_loader (s : State) (off v : Nat) : (State.set s off v).loader = s.loader := rfl
@[simp] theorem State.set_tiles (s : State) (off v : Nat) : (State.set s off v).tiles = s.tiles := rfl
@[simp] theorem State.set_routers (s : State) (off v : Nat) : (State.set s off v).routers = s.routers := rfl
@[simp] theorem State.set_pkts (s : State) (off v : Nat) : (State.set s off v).pkts = s.pkts := rfl
@[simp] theorem State.set_pktCtr (s : State) (off v : Nat) : (State.set s off v).pktCtr = s.pktCtr := rfl
@[simp] theorem State.set_hbmCtl (s : State) (off v : Nat) : (State.set s off v).hbmCtl = s.hbmCtl := rfl
@[simp] theorem State.set_hbm (s : State) (off v : Nat) : (State.set s off v).hbm = s.hbm := rfl
@[simp] theorem State.set_ports (s : State) (off v : Nat) : (State.set s off v).ports = s.ports := rfl
@[simp] theorem State.set_sync (s : State) (off v : Nat) : (State.set s off v).sync = s.sync := rfl
@[simp] theorem State.set_time (s : State) (off v : Nat) : (State.set s off v).time = s.time := rfl
@[simp] theorem State.set_fl (s : State) (off v : Nat) : (State.set s off v).fl = s.fl := rfl
@[simp] theorem State.set_ob (s : State) (off v : Nat) : (State.set s off v).ob = s.ob := rfl
@[simp] theorem State.set_serve (s : State) (off v : Nat) : (State.set s off v).serve = s.serve := rfl
@[simp] theorem State.set_host (s : State) (off v : Nat) : (State.set s off v).host = s.host := rfl
@[simp] theorem State.set_mg (s : State) (off v : Nat) : (State.set s off v).mg = s.mg := rfl
@[simp] theorem State.set_power (s : State) (off v : Nat) : (State.set s off v).power = s.power := rfl
@[simp] theorem State.set_library (s : State) (off v : Nat) : (State.set s off v).library = s.library := rfl
@[simp] theorem State.set_freeCtr (s : State) (off v : Nat) : (State.set s off v).freeCtr = s.freeCtr := rfl
@[simp] theorem State.set_out (s : State) (off v : Nat) : (State.set s off v).out = s.out := rfl
@[simp] theorem State.set_pending (s : State) (off v : Nat) : (State.set s off v).pending = s.pending := rfl

@[simp] theorem State.emit_now (s : State) (o : Out) : (State.emit s o).now = s.now := rfl
@[simp] theorem State.emit_regs (s : State) (o : Out) : (State.emit s o).regs = s.regs := rfl
@[simp] theorem State.emit_shadow (s : State) (o : Out) : (State.emit s o).shadow = s.shadow := rfl
@[simp] theorem State.emit_latches (s : State) (o : Out) : (State.emit s o).latches = s.latches := rfl
@[simp] theorem State.emit_fuse (s : State) (o : Out) : (State.emit s o).fuse = s.fuse := rfl
@[simp] theorem State.emit_frame (s : State) (o : Out) : (State.emit s o).frame = s.frame := rfl
@[simp] theorem State.emit_loader (s : State) (o : Out) : (State.emit s o).loader = s.loader := rfl
@[simp] theorem State.emit_tiles (s : State) (o : Out) : (State.emit s o).tiles = s.tiles := rfl
@[simp] theorem State.emit_routers (s : State) (o : Out) : (State.emit s o).routers = s.routers := rfl
@[simp] theorem State.emit_pkts (s : State) (o : Out) : (State.emit s o).pkts = s.pkts := rfl
@[simp] theorem State.emit_pktCtr (s : State) (o : Out) : (State.emit s o).pktCtr = s.pktCtr := rfl
@[simp] theorem State.emit_hbmCtl (s : State) (o : Out) : (State.emit s o).hbmCtl = s.hbmCtl := rfl
@[simp] theorem State.emit_hbm (s : State) (o : Out) : (State.emit s o).hbm = s.hbm := rfl
@[simp] theorem State.emit_ports (s : State) (o : Out) : (State.emit s o).ports = s.ports := rfl
@[simp] theorem State.emit_sync (s : State) (o : Out) : (State.emit s o).sync = s.sync := rfl
@[simp] theorem State.emit_time (s : State) (o : Out) : (State.emit s o).time = s.time := rfl
@[simp] theorem State.emit_fl (s : State) (o : Out) : (State.emit s o).fl = s.fl := rfl
@[simp] theorem State.emit_ob (s : State) (o : Out) : (State.emit s o).ob = s.ob := rfl
@[simp] theorem State.emit_serve (s : State) (o : Out) : (State.emit s o).serve = s.serve := rfl
@[simp] theorem State.emit_host (s : State) (o : Out) : (State.emit s o).host = s.host := rfl
@[simp] theorem State.emit_mg (s : State) (o : Out) : (State.emit s o).mg = s.mg := rfl
@[simp] theorem State.emit_power (s : State) (o : Out) : (State.emit s o).power = s.power := rfl
@[simp] theorem State.emit_library (s : State) (o : Out) : (State.emit s o).library = s.library := rfl
@[simp] theorem State.emit_freeCtr (s : State) (o : Out) : (State.emit s o).freeCtr = s.freeCtr := rfl
@[simp] theorem State.emit_pending (s : State) (o : Out) : (State.emit s o).pending = s.pending := rfl

@[simp] theorem State.setTile_now (s : State) (n : Nat) (tl : Tile) : (State.setTile s n tl).now = s.now := rfl
@[simp] theorem State.setTile_regs (s : State) (n : Nat) (tl : Tile) : (State.setTile s n tl).regs = s.regs := rfl
@[simp] theorem State.setTile_shadow (s : State) (n : Nat) (tl : Tile) : (State.setTile s n tl).shadow = s.shadow := rfl
@[simp] theorem State.setTile_latches (s : State) (n : Nat) (tl : Tile) : (State.setTile s n tl).latches = s.latches := rfl
@[simp] theorem State.setTile_fuse (s : State) (n : Nat) (tl : Tile) : (State.setTile s n tl).fuse = s.fuse := rfl
@[simp] theorem State.setTile_frame (s : State) (n : Nat) (tl : Tile) : (State.setTile s n tl).frame = s.frame := rfl
@[simp] theorem State.setTile_loader (s : State) (n : Nat) (tl : Tile) : (State.setTile s n tl).loader = s.loader := rfl
@[simp] theorem State.setTile_routers (s : State) (n : Nat) (tl : Tile) : (State.setTile s n tl).routers = s.routers := rfl
@[simp] theorem State.setTile_pkts (s : State) (n : Nat) (tl : Tile) : (State.setTile s n tl).pkts = s.pkts := rfl
@[simp] theorem State.setTile_pktCtr (s : State) (n : Nat) (tl : Tile) : (State.setTile s n tl).pktCtr = s.pktCtr := rfl
@[simp] theorem State.setTile_hbmCtl (s : State) (n : Nat) (tl : Tile) : (State.setTile s n tl).hbmCtl = s.hbmCtl := rfl
@[simp] theorem State.setTile_hbm (s : State) (n : Nat) (tl : Tile) : (State.setTile s n tl).hbm = s.hbm := rfl
@[simp] theorem State.setTile_ports (s : State) (n : Nat) (tl : Tile) : (State.setTile s n tl).ports = s.ports := rfl
@[simp] theorem State.setTile_sync (s : State) (n : Nat) (tl : Tile) : (State.setTile s n tl).sync = s.sync := rfl
@[simp] theorem State.setTile_time (s : State) (n : Nat) (tl : Tile) : (State.setTile s n tl).time = s.time := rfl
@[simp] theorem State.setTile_fl (s : State) (n : Nat) (tl : Tile) : (State.setTile s n tl).fl = s.fl := rfl
@[simp] theorem State.setTile_ob (s : State) (n : Nat) (tl : Tile) : (State.setTile s n tl).ob = s.ob := rfl
@[simp] theorem State.setTile_serve (s : State) (n : Nat) (tl : Tile) : (State.setTile s n tl).serve = s.serve := rfl
@[simp] theorem State.setTile_host (s : State) (n : Nat) (tl : Tile) : (State.setTile s n tl).host = s.host := rfl
@[simp] theorem State.setTile_mg (s : State) (n : Nat) (tl : Tile) : (State.setTile s n tl).mg = s.mg := rfl
@[simp] theorem State.setTile_power (s : State) (n : Nat) (tl : Tile) : (State.setTile s n tl).power = s.power := rfl
@[simp] theorem State.setTile_library (s : State) (n : Nat) (tl : Tile) : (State.setTile s n tl).library = s.library := rfl
@[simp] theorem State.setTile_freeCtr (s : State) (n : Nat) (tl : Tile) : (State.setTile s n tl).freeCtr = s.freeCtr := rfl
@[simp] theorem State.setTile_out (s : State) (n : Nat) (tl : Tile) : (State.setTile s n tl).out = s.out := rfl
@[simp] theorem State.setTile_pending (s : State) (n : Nat) (tl : Tile) : (State.setTile s n tl).pending = s.pending := rfl

@[simp] theorem State.setRouter_now (s : State) (n : Nat) (r : Router) : (State.setRouter s n r).now = s.now := rfl
@[simp] theorem State.setRouter_regs (s : State) (n : Nat) (r : Router) : (State.setRouter s n r).regs = s.regs := rfl
@[simp] theorem State.setRouter_shadow (s : State) (n : Nat) (r : Router) : (State.setRouter s n r).shadow = s.shadow := rfl
@[simp] theorem State.setRouter_latches (s : State) (n : Nat) (r : Router) : (State.setRouter s n r).latches = s.latches := rfl
@[simp] theorem State.setRouter_fuse (s : State) (n : Nat) (r : Router) : (State.setRouter s n r).fuse = s.fuse := rfl
@[simp] theorem State.setRouter_frame (s : State) (n : Nat) (r : Router) : (State.setRouter s n r).frame = s.frame := rfl
@[simp] theorem State.setRouter_loader (s : State) (n : Nat) (r : Router) : (State.setRouter s n r).loader = s.loader := rfl
@[simp] theorem State.setRouter_tiles (s : State) (n : Nat) (r : Router) : (State.setRouter s n r).tiles = s.tiles := rfl
@[simp] theorem State.setRouter_pkts (s : State) (n : Nat) (r : Router) : (State.setRouter s n r).pkts = s.pkts := rfl
@[simp] theorem State.setRouter_pktCtr (s : State) (n : Nat) (r : Router) : (State.setRouter s n r).pktCtr = s.pktCtr := rfl
@[simp] theorem State.setRouter_hbmCtl (s : State) (n : Nat) (r : Router) : (State.setRouter s n r).hbmCtl = s.hbmCtl := rfl
@[simp] theorem State.setRouter_hbm (s : State) (n : Nat) (r : Router) : (State.setRouter s n r).hbm = s.hbm := rfl
@[simp] theorem State.setRouter_ports (s : State) (n : Nat) (r : Router) : (State.setRouter s n r).ports = s.ports := rfl
@[simp] theorem State.setRouter_sync (s : State) (n : Nat) (r : Router) : (State.setRouter s n r).sync = s.sync := rfl
@[simp] theorem State.setRouter_time (s : State) (n : Nat) (r : Router) : (State.setRouter s n r).time = s.time := rfl
@[simp] theorem State.setRouter_fl (s : State) (n : Nat) (r : Router) : (State.setRouter s n r).fl = s.fl := rfl
@[simp] theorem State.setRouter_ob (s : State) (n : Nat) (r : Router) : (State.setRouter s n r).ob = s.ob := rfl
@[simp] theorem State.setRouter_serve (s : State) (n : Nat) (r : Router) : (State.setRouter s n r).serve = s.serve := rfl
@[simp] theorem State.setRouter_host (s : State) (n : Nat) (r : Router) : (State.setRouter s n r).host = s.host := rfl
@[simp] theorem State.setRouter_mg (s : State) (n : Nat) (r : Router) : (State.setRouter s n r).mg = s.mg := rfl
@[simp] theorem State.setRouter_power (s : State) (n : Nat) (r : Router) : (State.setRouter s n r).power = s.power := rfl
@[simp] theorem State.setRouter_library (s : State) (n : Nat) (r : Router) : (State.setRouter s n r).library = s.library := rfl
@[simp] theorem State.setRouter_freeCtr (s : State) (n : Nat) (r : Router) : (State.setRouter s n r).freeCtr = s.freeCtr := rfl
@[simp] theorem State.setRouter_out (s : State) (n : Nat) (r : Router) : (State.setRouter s n r).out = s.out := rfl
@[simp] theorem State.setRouter_pending (s : State) (n : Nat) (r : Router) : (State.setRouter s n r).pending = s.pending := rfl

@[simp] theorem State.setPort_now (s : State) (p : Nat) (q : Port) : (State.setPort s p q).now = s.now := rfl
@[simp] theorem State.setPort_regs (s : State) (p : Nat) (q : Port) : (State.setPort s p q).regs = s.regs := rfl
@[simp] theorem State.setPort_shadow (s : State) (p : Nat) (q : Port) : (State.setPort s p q).shadow = s.shadow := rfl
@[simp] theorem State.setPort_latches (s : State) (p : Nat) (q : Port) : (State.setPort s p q).latches = s.latches := rfl
@[simp] theorem State.setPort_fuse (s : State) (p : Nat) (q : Port) : (State.setPort s p q).fuse = s.fuse := rfl
@[simp] theorem State.setPort_frame (s : State) (p : Nat) (q : Port) : (State.setPort s p q).frame = s.frame := rfl
@[simp] theorem State.setPort_loader (s : State) (p : Nat) (q : Port) : (State.setPort s p q).loader = s.loader := rfl
@[simp] theorem State.setPort_tiles (s : State) (p : Nat) (q : Port) : (State.setPort s p q).tiles = s.tiles := rfl
@[simp] theorem State.setPort_routers (s : State) (p : Nat) (q : Port) : (State.setPort s p q).routers = s.routers := rfl
@[simp] theorem State.setPort_pkts (s : State) (p : Nat) (q : Port) : (State.setPort s p q).pkts = s.pkts := rfl
@[simp] theorem State.setPort_pktCtr (s : State) (p : Nat) (q : Port) : (State.setPort s p q).pktCtr = s.pktCtr := rfl
@[simp] theorem State.setPort_hbmCtl (s : State) (p : Nat) (q : Port) : (State.setPort s p q).hbmCtl = s.hbmCtl := rfl
@[simp] theorem State.setPort_hbm (s : State) (p : Nat) (q : Port) : (State.setPort s p q).hbm = s.hbm := rfl
@[simp] theorem State.setPort_sync (s : State) (p : Nat) (q : Port) : (State.setPort s p q).sync = s.sync := rfl
@[simp] theorem State.setPort_time (s : State) (p : Nat) (q : Port) : (State.setPort s p q).time = s.time := rfl
@[simp] theorem State.setPort_fl (s : State) (p : Nat) (q : Port) : (State.setPort s p q).fl = s.fl := rfl
@[simp] theorem State.setPort_ob (s : State) (p : Nat) (q : Port) : (State.setPort s p q).ob = s.ob := rfl
@[simp] theorem State.setPort_serve (s : State) (p : Nat) (q : Port) : (State.setPort s p q).serve = s.serve := rfl
@[simp] theorem State.setPort_host (s : State) (p : Nat) (q : Port) : (State.setPort s p q).host = s.host := rfl
@[simp] theorem State.setPort_mg (s : State) (p : Nat) (q : Port) : (State.setPort s p q).mg = s.mg := rfl
@[simp] theorem State.setPort_power (s : State) (p : Nat) (q : Port) : (State.setPort s p q).power = s.power := rfl
@[simp] theorem State.setPort_library (s : State) (p : Nat) (q : Port) : (State.setPort s p q).library = s.library := rfl
@[simp] theorem State.setPort_freeCtr (s : State) (p : Nat) (q : Port) : (State.setPort s p q).freeCtr = s.freeCtr := rfl
@[simp] theorem State.setPort_out (s : State) (p : Nat) (q : Port) : (State.setPort s p q).out = s.out := rfl
@[simp] theorem State.setPort_pending (s : State) (p : Nat) (q : Port) : (State.setPort s p q).pending = s.pending := rfl

@[simp] theorem State.setChnl_now (s : State) (c : Nat) (v : Chnl) : (State.setChnl s c v).now = s.now := rfl
@[simp] theorem State.setChnl_regs (s : State) (c : Nat) (v : Chnl) : (State.setChnl s c v).regs = s.regs := rfl
@[simp] theorem State.setChnl_shadow (s : State) (c : Nat) (v : Chnl) : (State.setChnl s c v).shadow = s.shadow := rfl
@[simp] theorem State.setChnl_latches (s : State) (c : Nat) (v : Chnl) : (State.setChnl s c v).latches = s.latches := rfl
@[simp] theorem State.setChnl_fuse (s : State) (c : Nat) (v : Chnl) : (State.setChnl s c v).fuse = s.fuse := rfl
@[simp] theorem State.setChnl_frame (s : State) (c : Nat) (v : Chnl) : (State.setChnl s c v).frame = s.frame := rfl
@[simp] theorem State.setChnl_loader (s : State) (c : Nat) (v : Chnl) : (State.setChnl s c v).loader = s.loader := rfl
@[simp] theorem State.setChnl_tiles (s : State) (c : Nat) (v : Chnl) : (State.setChnl s c v).tiles = s.tiles := rfl
@[simp] theorem State.setChnl_routers (s : State) (c : Nat) (v : Chnl) : (State.setChnl s c v).routers = s.routers := rfl
@[simp] theorem State.setChnl_pkts (s : State) (c : Nat) (v : Chnl) : (State.setChnl s c v).pkts = s.pkts := rfl
@[simp] theorem State.setChnl_pktCtr (s : State) (c : Nat) (v : Chnl) : (State.setChnl s c v).pktCtr = s.pktCtr := rfl
@[simp] theorem State.setChnl_hbmCtl (s : State) (c : Nat) (v : Chnl) : (State.setChnl s c v).hbmCtl = s.hbmCtl := rfl
@[simp] theorem State.setChnl_hbm (s : State) (c : Nat) (v : Chnl) : (State.setChnl s c v).hbm = s.hbm := rfl
@[simp] theorem State.setChnl_ports (s : State) (c : Nat) (v : Chnl) : (State.setChnl s c v).ports = s.ports := rfl
@[simp] theorem State.setChnl_sync (s : State) (c : Nat) (v : Chnl) : (State.setChnl s c v).sync = s.sync := rfl
@[simp] theorem State.setChnl_time (s : State) (c : Nat) (v : Chnl) : (State.setChnl s c v).time = s.time := rfl
@[simp] theorem State.setChnl_fl (s : State) (c : Nat) (v : Chnl) : (State.setChnl s c v).fl = s.fl := rfl
@[simp] theorem State.setChnl_ob (s : State) (c : Nat) (v : Chnl) : (State.setChnl s c v).ob = s.ob := rfl
@[simp] theorem State.setChnl_serve (s : State) (c : Nat) (v : Chnl) : (State.setChnl s c v).serve = s.serve := rfl
@[simp] theorem State.setChnl_mg (s : State) (c : Nat) (v : Chnl) : (State.setChnl s c v).mg = s.mg := rfl
@[simp] theorem State.setChnl_power (s : State) (c : Nat) (v : Chnl) : (State.setChnl s c v).power = s.power := rfl
@[simp] theorem State.setChnl_library (s : State) (c : Nat) (v : Chnl) : (State.setChnl s c v).library = s.library := rfl
@[simp] theorem State.setChnl_freeCtr (s : State) (c : Nat) (v : Chnl) : (State.setChnl s c v).freeCtr = s.freeCtr := rfl
@[simp] theorem State.setChnl_out (s : State) (c : Nat) (v : Chnl) : (State.setChnl s c v).out = s.out := rfl
@[simp] theorem State.setChnl_pending (s : State) (c : Nat) (v : Chnl) : (State.setChnl s c v).pending = s.pending := rfl

@[simp] theorem State.setPkt_now (s : State) (k : Packet) : (State.setPkt s k).now = s.now := rfl
@[simp] theorem State.setPkt_regs (s : State) (k : Packet) : (State.setPkt s k).regs = s.regs := rfl
@[simp] theorem State.setPkt_shadow (s : State) (k : Packet) : (State.setPkt s k).shadow = s.shadow := rfl
@[simp] theorem State.setPkt_latches (s : State) (k : Packet) : (State.setPkt s k).latches = s.latches := rfl
@[simp] theorem State.setPkt_fuse (s : State) (k : Packet) : (State.setPkt s k).fuse = s.fuse := rfl
@[simp] theorem State.setPkt_frame (s : State) (k : Packet) : (State.setPkt s k).frame = s.frame := rfl
@[simp] theorem State.setPkt_loader (s : State) (k : Packet) : (State.setPkt s k).loader = s.loader := rfl
@[simp] theorem State.setPkt_tiles (s : State) (k : Packet) : (State.setPkt s k).tiles = s.tiles := rfl
@[simp] theorem State.setPkt_routers (s : State) (k : Packet) : (State.setPkt s k).routers = s.routers := rfl
@[simp] theorem State.setPkt_pktCtr (s : State) (k : Packet) : (State.setPkt s k).pktCtr = s.pktCtr := rfl
@[simp] theorem State.setPkt_hbmCtl (s : State) (k : Packet) : (State.setPkt s k).hbmCtl = s.hbmCtl := rfl
@[simp] theorem State.setPkt_hbm (s : State) (k : Packet) : (State.setPkt s k).hbm = s.hbm := rfl
@[simp] theorem State.setPkt_ports (s : State) (k : Packet) : (State.setPkt s k).ports = s.ports := rfl
@[simp] theorem State.setPkt_sync (s : State) (k : Packet) : (State.setPkt s k).sync = s.sync := rfl
@[simp] theorem State.setPkt_time (s : State) (k : Packet) : (State.setPkt s k).time = s.time := rfl
@[simp] theorem State.setPkt_fl (s : State) (k : Packet) : (State.setPkt s k).fl = s.fl := rfl
@[simp] theorem State.setPkt_ob (s : State) (k : Packet) : (State.setPkt s k).ob = s.ob := rfl
@[simp] theorem State.setPkt_serve (s : State) (k : Packet) : (State.setPkt s k).serve = s.serve := rfl
@[simp] theorem State.setPkt_host (s : State) (k : Packet) : (State.setPkt s k).host = s.host := rfl
@[simp] theorem State.setPkt_mg (s : State) (k : Packet) : (State.setPkt s k).mg = s.mg := rfl
@[simp] theorem State.setPkt_power (s : State) (k : Packet) : (State.setPkt s k).power = s.power := rfl
@[simp] theorem State.setPkt_library (s : State) (k : Packet) : (State.setPkt s k).library = s.library := rfl
@[simp] theorem State.setPkt_freeCtr (s : State) (k : Packet) : (State.setPkt s k).freeCtr = s.freeCtr := rfl
@[simp] theorem State.setPkt_out (s : State) (k : Packet) : (State.setPkt s k).out = s.out := rfl
@[simp] theorem State.setPkt_pending (s : State) (k : Packet) : (State.setPkt s k).pending = s.pending := rfl

@[simp] theorem State.setCtl_now (s : State) (c : Nat) (k : HbmCtl) : (State.setCtl s c k).now = s.now := rfl
@[simp] theorem State.setCtl_regs (s : State) (c : Nat) (k : HbmCtl) : (State.setCtl s c k).regs = s.regs := rfl
@[simp] theorem State.setCtl_shadow (s : State) (c : Nat) (k : HbmCtl) : (State.setCtl s c k).shadow = s.shadow := rfl
@[simp] theorem State.setCtl_latches (s : State) (c : Nat) (k : HbmCtl) : (State.setCtl s c k).latches = s.latches := rfl
@[simp] theorem State.setCtl_fuse (s : State) (c : Nat) (k : HbmCtl) : (State.setCtl s c k).fuse = s.fuse := rfl
@[simp] theorem State.setCtl_frame (s : State) (c : Nat) (k : HbmCtl) : (State.setCtl s c k).frame = s.frame := rfl
@[simp] theorem State.setCtl_loader (s : State) (c : Nat) (k : HbmCtl) : (State.setCtl s c k).loader = s.loader := rfl
@[simp] theorem State.setCtl_tiles (s : State) (c : Nat) (k : HbmCtl) : (State.setCtl s c k).tiles = s.tiles := rfl
@[simp] theorem State.setCtl_routers (s : State) (c : Nat) (k : HbmCtl) : (State.setCtl s c k).routers = s.routers := rfl
@[simp] theorem State.setCtl_pkts (s : State) (c : Nat) (k : HbmCtl) : (State.setCtl s c k).pkts = s.pkts := rfl
@[simp] theorem State.setCtl_pktCtr (s : State) (c : Nat) (k : HbmCtl) : (State.setCtl s c k).pktCtr = s.pktCtr := rfl
@[simp] theorem State.setCtl_hbm (s : State) (c : Nat) (k : HbmCtl) : (State.setCtl s c k).hbm = s.hbm := rfl
@[simp] theorem State.setCtl_ports (s : State) (c : Nat) (k : HbmCtl) : (State.setCtl s c k).ports = s.ports := rfl
@[simp] theorem State.setCtl_sync (s : State) (c : Nat) (k : HbmCtl) : (State.setCtl s c k).sync = s.sync := rfl
@[simp] theorem State.setCtl_time (s : State) (c : Nat) (k : HbmCtl) : (State.setCtl s c k).time = s.time := rfl
@[simp] theorem State.setCtl_fl (s : State) (c : Nat) (k : HbmCtl) : (State.setCtl s c k).fl = s.fl := rfl
@[simp] theorem State.setCtl_ob (s : State) (c : Nat) (k : HbmCtl) : (State.setCtl s c k).ob = s.ob := rfl
@[simp] theorem State.setCtl_serve (s : State) (c : Nat) (k : HbmCtl) : (State.setCtl s c k).serve = s.serve := rfl
@[simp] theorem State.setCtl_host (s : State) (c : Nat) (k : HbmCtl) : (State.setCtl s c k).host = s.host := rfl
@[simp] theorem State.setCtl_mg (s : State) (c : Nat) (k : HbmCtl) : (State.setCtl s c k).mg = s.mg := rfl
@[simp] theorem State.setCtl_power (s : State) (c : Nat) (k : HbmCtl) : (State.setCtl s c k).power = s.power := rfl
@[simp] theorem State.setCtl_library (s : State) (c : Nat) (k : HbmCtl) : (State.setCtl s c k).library = s.library := rfl
@[simp] theorem State.setCtl_freeCtr (s : State) (c : Nat) (k : HbmCtl) : (State.setCtl s c k).freeCtr = s.freeCtr := rfl
@[simp] theorem State.setCtl_out (s : State) (c : Nat) (k : HbmCtl) : (State.setCtl s c k).out = s.out := rfl
@[simp] theorem State.setCtl_pending (s : State) (c : Nat) (k : HbmCtl) : (State.setCtl s c k).pending = s.pending := rfl

@[simp] theorem State.setCart_now (s : State) (c : Nat) (v : Cart) : (State.setCart s c v).now = s.now := rfl
@[simp] theorem State.setCart_regs (s : State) (c : Nat) (v : Cart) : (State.setCart s c v).regs = s.regs := rfl
@[simp] theorem State.setCart_shadow (s : State) (c : Nat) (v : Cart) : (State.setCart s c v).shadow = s.shadow := rfl
@[simp] theorem State.setCart_latches (s : State) (c : Nat) (v : Cart) : (State.setCart s c v).latches = s.latches := rfl
@[simp] theorem State.setCart_fuse (s : State) (c : Nat) (v : Cart) : (State.setCart s c v).fuse = s.fuse := rfl
@[simp] theorem State.setCart_frame (s : State) (c : Nat) (v : Cart) : (State.setCart s c v).frame = s.frame := rfl
@[simp] theorem State.setCart_loader (s : State) (c : Nat) (v : Cart) : (State.setCart s c v).loader = s.loader := rfl
@[simp] theorem State.setCart_tiles (s : State) (c : Nat) (v : Cart) : (State.setCart s c v).tiles = s.tiles := rfl
@[simp] theorem State.setCart_routers (s : State) (c : Nat) (v : Cart) : (State.setCart s c v).routers = s.routers := rfl
@[simp] theorem State.setCart_pkts (s : State) (c : Nat) (v : Cart) : (State.setCart s c v).pkts = s.pkts := rfl
@[simp] theorem State.setCart_pktCtr (s : State) (c : Nat) (v : Cart) : (State.setCart s c v).pktCtr = s.pktCtr := rfl
@[simp] theorem State.setCart_hbmCtl (s : State) (c : Nat) (v : Cart) : (State.setCart s c v).hbmCtl = s.hbmCtl := rfl
@[simp] theorem State.setCart_hbm (s : State) (c : Nat) (v : Cart) : (State.setCart s c v).hbm = s.hbm := rfl
@[simp] theorem State.setCart_ports (s : State) (c : Nat) (v : Cart) : (State.setCart s c v).ports = s.ports := rfl
@[simp] theorem State.setCart_sync (s : State) (c : Nat) (v : Cart) : (State.setCart s c v).sync = s.sync := rfl
@[simp] theorem State.setCart_time (s : State) (c : Nat) (v : Cart) : (State.setCart s c v).time = s.time := rfl
@[simp] theorem State.setCart_fl (s : State) (c : Nat) (v : Cart) : (State.setCart s c v).fl = s.fl := rfl
@[simp] theorem State.setCart_ob (s : State) (c : Nat) (v : Cart) : (State.setCart s c v).ob = s.ob := rfl
@[simp] theorem State.setCart_serve (s : State) (c : Nat) (v : Cart) : (State.setCart s c v).serve = s.serve := rfl
@[simp] theorem State.setCart_host (s : State) (c : Nat) (v : Cart) : (State.setCart s c v).host = s.host := rfl
@[simp] theorem State.setCart_mg (s : State) (c : Nat) (v : Cart) : (State.setCart s c v).mg = s.mg := rfl
@[simp] theorem State.setCart_library (s : State) (c : Nat) (v : Cart) : (State.setCart s c v).library = s.library := rfl
@[simp] theorem State.setCart_freeCtr (s : State) (c : Nat) (v : Cart) : (State.setCart s c v).freeCtr = s.freeCtr := rfl
@[simp] theorem State.setCart_out (s : State) (c : Nat) (v : Cart) : (State.setCart s c v).out = s.out := rfl
@[simp] theorem State.setCart_pending (s : State) (c : Nat) (v : Cart) : (State.setCart s c v).pending = s.pending := rfl

@[simp] theorem State.hbmWrite_now (s : State) (hla : Nat) (v : Line) : (State.hbmWrite s hla v).now = s.now := rfl
@[simp] theorem State.hbmWrite_regs (s : State) (hla : Nat) (v : Line) : (State.hbmWrite s hla v).regs = s.regs := rfl
@[simp] theorem State.hbmWrite_shadow (s : State) (hla : Nat) (v : Line) : (State.hbmWrite s hla v).shadow = s.shadow := rfl
@[simp] theorem State.hbmWrite_latches (s : State) (hla : Nat) (v : Line) : (State.hbmWrite s hla v).latches = s.latches := rfl
@[simp] theorem State.hbmWrite_fuse (s : State) (hla : Nat) (v : Line) : (State.hbmWrite s hla v).fuse = s.fuse := rfl
@[simp] theorem State.hbmWrite_frame (s : State) (hla : Nat) (v : Line) : (State.hbmWrite s hla v).frame = s.frame := rfl
@[simp] theorem State.hbmWrite_loader (s : State) (hla : Nat) (v : Line) : (State.hbmWrite s hla v).loader = s.loader := rfl
@[simp] theorem State.hbmWrite_tiles (s : State) (hla : Nat) (v : Line) : (State.hbmWrite s hla v).tiles = s.tiles := rfl
@[simp] theorem State.hbmWrite_routers (s : State) (hla : Nat) (v : Line) : (State.hbmWrite s hla v).routers = s.routers := rfl
@[simp] theorem State.hbmWrite_pkts (s : State) (hla : Nat) (v : Line) : (State.hbmWrite s hla v).pkts = s.pkts := rfl
@[simp] theorem State.hbmWrite_pktCtr (s : State) (hla : Nat) (v : Line) : (State.hbmWrite s hla v).pktCtr = s.pktCtr := rfl
@[simp] theorem State.hbmWrite_hbmCtl (s : State) (hla : Nat) (v : Line) : (State.hbmWrite s hla v).hbmCtl = s.hbmCtl := rfl
@[simp] theorem State.hbmWrite_ports (s : State) (hla : Nat) (v : Line) : (State.hbmWrite s hla v).ports = s.ports := rfl
@[simp] theorem State.hbmWrite_sync (s : State) (hla : Nat) (v : Line) : (State.hbmWrite s hla v).sync = s.sync := rfl
@[simp] theorem State.hbmWrite_time (s : State) (hla : Nat) (v : Line) : (State.hbmWrite s hla v).time = s.time := rfl
@[simp] theorem State.hbmWrite_fl (s : State) (hla : Nat) (v : Line) : (State.hbmWrite s hla v).fl = s.fl := rfl
@[simp] theorem State.hbmWrite_ob (s : State) (hla : Nat) (v : Line) : (State.hbmWrite s hla v).ob = s.ob := rfl
@[simp] theorem State.hbmWrite_serve (s : State) (hla : Nat) (v : Line) : (State.hbmWrite s hla v).serve = s.serve := rfl
@[simp] theorem State.hbmWrite_host (s : State) (hla : Nat) (v : Line) : (State.hbmWrite s hla v).host = s.host := rfl
@[simp] theorem State.hbmWrite_mg (s : State) (hla : Nat) (v : Line) : (State.hbmWrite s hla v).mg = s.mg := rfl
@[simp] theorem State.hbmWrite_power (s : State) (hla : Nat) (v : Line) : (State.hbmWrite s hla v).power = s.power := rfl
@[simp] theorem State.hbmWrite_library (s : State) (hla : Nat) (v : Line) : (State.hbmWrite s hla v).library = s.library := rfl
@[simp] theorem State.hbmWrite_freeCtr (s : State) (hla : Nat) (v : Line) : (State.hbmWrite s hla v).freeCtr = s.freeCtr := rfl
@[simp] theorem State.hbmWrite_out (s : State) (hla : Nat) (v : Line) : (State.hbmWrite s hla v).out = s.out := rfl
@[simp] theorem State.hbmWrite_pending (s : State) (hla : Nat) (v : Line) : (State.hbmWrite s hla v).pending = s.pending := rfl

@[simp] theorem State.hbmBytes_now (s : State) (a n v : Nat) : (State.hbmBytes s a n v).now = s.now := rfl
@[simp] theorem State.hbmBytes_regs (s : State) (a n v : Nat) : (State.hbmBytes s a n v).regs = s.regs := rfl
@[simp] theorem State.hbmBytes_shadow (s : State) (a n v : Nat) : (State.hbmBytes s a n v).shadow = s.shadow := rfl
@[simp] theorem State.hbmBytes_latches (s : State) (a n v : Nat) : (State.hbmBytes s a n v).latches = s.latches := rfl
@[simp] theorem State.hbmBytes_fuse (s : State) (a n v : Nat) : (State.hbmBytes s a n v).fuse = s.fuse := rfl
@[simp] theorem State.hbmBytes_frame (s : State) (a n v : Nat) : (State.hbmBytes s a n v).frame = s.frame := rfl
@[simp] theorem State.hbmBytes_loader (s : State) (a n v : Nat) : (State.hbmBytes s a n v).loader = s.loader := rfl
@[simp] theorem State.hbmBytes_tiles (s : State) (a n v : Nat) : (State.hbmBytes s a n v).tiles = s.tiles := rfl
@[simp] theorem State.hbmBytes_routers (s : State) (a n v : Nat) : (State.hbmBytes s a n v).routers = s.routers := rfl
@[simp] theorem State.hbmBytes_pkts (s : State) (a n v : Nat) : (State.hbmBytes s a n v).pkts = s.pkts := rfl
@[simp] theorem State.hbmBytes_pktCtr (s : State) (a n v : Nat) : (State.hbmBytes s a n v).pktCtr = s.pktCtr := rfl
@[simp] theorem State.hbmBytes_hbmCtl (s : State) (a n v : Nat) : (State.hbmBytes s a n v).hbmCtl = s.hbmCtl := rfl
@[simp] theorem State.hbmBytes_ports (s : State) (a n v : Nat) : (State.hbmBytes s a n v).ports = s.ports := rfl
@[simp] theorem State.hbmBytes_sync (s : State) (a n v : Nat) : (State.hbmBytes s a n v).sync = s.sync := rfl
@[simp] theorem State.hbmBytes_time (s : State) (a n v : Nat) : (State.hbmBytes s a n v).time = s.time := rfl
@[simp] theorem State.hbmBytes_fl (s : State) (a n v : Nat) : (State.hbmBytes s a n v).fl = s.fl := rfl
@[simp] theorem State.hbmBytes_ob (s : State) (a n v : Nat) : (State.hbmBytes s a n v).ob = s.ob := rfl
@[simp] theorem State.hbmBytes_serve (s : State) (a n v : Nat) : (State.hbmBytes s a n v).serve = s.serve := rfl
@[simp] theorem State.hbmBytes_host (s : State) (a n v : Nat) : (State.hbmBytes s a n v).host = s.host := rfl
@[simp] theorem State.hbmBytes_mg (s : State) (a n v : Nat) : (State.hbmBytes s a n v).mg = s.mg := rfl
@[simp] theorem State.hbmBytes_power (s : State) (a n v : Nat) : (State.hbmBytes s a n v).power = s.power := rfl
@[simp] theorem State.hbmBytes_library (s : State) (a n v : Nat) : (State.hbmBytes s a n v).library = s.library := rfl
@[simp] theorem State.hbmBytes_freeCtr (s : State) (a n v : Nat) : (State.hbmBytes s a n v).freeCtr = s.freeCtr := rfl
@[simp] theorem State.hbmBytes_out (s : State) (a n v : Nat) : (State.hbmBytes s a n v).out = s.out := rfl
@[simp] theorem State.hbmBytes_pending (s : State) (a n v : Nat) : (State.hbmBytes s a n v).pending = s.pending := rfl

@[simp] theorem State.frameBit_now (s : State) (i : Nat) : (State.frameBit s i).now = s.now := rfl
@[simp] theorem State.frameBit_regs (s : State) (i : Nat) : (State.frameBit s i).regs = s.regs := rfl
@[simp] theorem State.frameBit_shadow (s : State) (i : Nat) : (State.frameBit s i).shadow = s.shadow := rfl
@[simp] theorem State.frameBit_latches (s : State) (i : Nat) : (State.frameBit s i).latches = s.latches := rfl
@[simp] theorem State.frameBit_fuse (s : State) (i : Nat) : (State.frameBit s i).fuse = s.fuse := rfl
@[simp] theorem State.frameBit_loader (s : State) (i : Nat) : (State.frameBit s i).loader = s.loader := rfl
@[simp] theorem State.frameBit_tiles (s : State) (i : Nat) : (State.frameBit s i).tiles = s.tiles := rfl
@[simp] theorem State.frameBit_routers (s : State) (i : Nat) : (State.frameBit s i).routers = s.routers := rfl
@[simp] theorem State.frameBit_pkts (s : State) (i : Nat) : (State.frameBit s i).pkts = s.pkts := rfl
@[simp] theorem State.frameBit_pktCtr (s : State) (i : Nat) : (State.frameBit s i).pktCtr = s.pktCtr := rfl
@[simp] theorem State.frameBit_hbmCtl (s : State) (i : Nat) : (State.frameBit s i).hbmCtl = s.hbmCtl := rfl
@[simp] theorem State.frameBit_hbm (s : State) (i : Nat) : (State.frameBit s i).hbm = s.hbm := rfl
@[simp] theorem State.frameBit_ports (s : State) (i : Nat) : (State.frameBit s i).ports = s.ports := rfl
@[simp] theorem State.frameBit_sync (s : State) (i : Nat) : (State.frameBit s i).sync = s.sync := rfl
@[simp] theorem State.frameBit_time (s : State) (i : Nat) : (State.frameBit s i).time = s.time := rfl
@[simp] theorem State.frameBit_fl (s : State) (i : Nat) : (State.frameBit s i).fl = s.fl := rfl
@[simp] theorem State.frameBit_ob (s : State) (i : Nat) : (State.frameBit s i).ob = s.ob := rfl
@[simp] theorem State.frameBit_serve (s : State) (i : Nat) : (State.frameBit s i).serve = s.serve := rfl
@[simp] theorem State.frameBit_host (s : State) (i : Nat) : (State.frameBit s i).host = s.host := rfl
@[simp] theorem State.frameBit_mg (s : State) (i : Nat) : (State.frameBit s i).mg = s.mg := rfl
@[simp] theorem State.frameBit_power (s : State) (i : Nat) : (State.frameBit s i).power = s.power := rfl
@[simp] theorem State.frameBit_library (s : State) (i : Nat) : (State.frameBit s i).library = s.library := rfl
@[simp] theorem State.frameBit_freeCtr (s : State) (i : Nat) : (State.frameBit s i).freeCtr = s.freeCtr := rfl
@[simp] theorem State.frameBit_out (s : State) (i : Nat) : (State.frameBit s i).out = s.out := rfl
@[simp] theorem State.frameBit_pending (s : State) (i : Nat) : (State.frameBit s i).pending = s.pending := rfl

/-! A tile. -/

@[simp] theorem Tile.set_mem (tl : Tile) (off v : Nat) : (Tile.set tl off v).mem = tl.mem := rfl
@[simp] theorem Tile.set_wrong (tl : Tile) (off v : Nat) : (Tile.set tl off v).wrong = tl.wrong := rfl
@[simp] theorem Tile.set_poison (tl : Tile) (off v : Nat) : (Tile.set tl off v).poison = tl.poison := rfl
@[simp] theorem Tile.set_eve (tl : Tile) (off v : Nat) : (Tile.set tl off v).eve = tl.eve := rfl
@[simp] theorem Tile.set_sregs (tl : Tile) (off v : Nat) : (Tile.set tl off v).sregs = tl.sregs := rfl
@[simp] theorem Tile.set_routes (tl : Tile) (off v : Nat) : (Tile.set tl off v).routes = tl.routes := rfl
@[simp] theorem Tile.set_seq (tl : Tile) (off v : Nat) : (Tile.set tl off v).seq = tl.seq := rfl
@[simp] theorem Tile.set_mx (tl : Tile) (off v : Nat) : (Tile.set tl off v).mx = tl.mx := rfl
@[simp] theorem Tile.set_vx (tl : Tile) (off v : Nat) : (Tile.set tl off v).vx = tl.vx := rfl
@[simp] theorem Tile.set_mv (tl : Tile) (off v : Nat) : (Tile.set tl off v).mv = tl.mv := rfl
@[simp] theorem Tile.set_now (tl : Tile) (off v : Nat) : (Tile.set tl off v).now = tl.now := rfl
@[simp] theorem Tile.set_stop (tl : Tile) (off v : Nat) : (Tile.set tl off v).stop = tl.stop := rfl
@[simp] theorem Tile.set_ops (tl : Tile) (off v : Nat) : (Tile.set tl off v).ops = tl.ops := rfl
@[simp] theorem Tile.set_signals (tl : Tile) (off v : Nat) : (Tile.set tl off v).signals = tl.signals := rfl
@[simp] theorem Tile.set_ovf (tl : Tile) (off v : Nat) : (Tile.set tl off v).ovf = tl.ovf := rfl
@[simp] theorem Tile.set_began (tl : Tile) (off v : Nat) : (Tile.set tl off v).began = tl.began := rfl
@[simp] theorem Tile.set_outbox (tl : Tile) (off v : Nat) : (Tile.set tl off v).outbox = tl.outbox := rfl
@[simp] theorem Tile.set_accesses (tl : Tile) (off v : Nat) : (Tile.set tl off v).accesses = tl.accesses := rfl
@[simp] theorem Tile.set_dead (tl : Tile) (off v : Nat) : (Tile.set tl off v).dead = tl.dead := rfl
@[simp] theorem Tile.set_withheld (tl : Tile) (off v : Nat) : (Tile.set tl off v).withheld = tl.withheld := rfl
@[simp] theorem Tile.set_raised (tl : Tile) (off v : Nat) : (Tile.set tl off v).raised = tl.raised := rfl
@[simp] theorem Tile.set_tags (tl : Tile) (off v : Nat) : (Tile.set tl off v).tags = tl.tags := rfl
@[simp] theorem Tile.set_ranges (tl : Tile) (off v : Nat) : (Tile.set tl off v).ranges = tl.ranges := rfl
@[simp] theorem Tile.set_openRange (tl : Tile) (off v : Nat) : (Tile.set tl off v).openRange = tl.openRange := rfl
@[simp] theorem Tile.set_reexec (tl : Tile) (off v : Nat) : (Tile.set tl off v).reexec = tl.reexec := rfl
@[simp] theorem Tile.set_rangeCtr (tl : Tile) (off v : Nat) : (Tile.set tl off v).rangeCtr = tl.rangeCtr := rfl
@[simp] theorem Tile.set_again (tl : Tile) (off v : Nat) : (Tile.set tl off v).again = tl.again := rfl
@[simp] theorem Tile.set_saved (tl : Tile) (off v : Nat) : (Tile.set tl off v).saved = tl.saved := rfl
@[simp] theorem Tile.set_redoFrom (tl : Tile) (off v : Nat) : (Tile.set tl off v).redoFrom = tl.redoFrom := rfl
@[simp] theorem Tile.set_mvHeld (tl : Tile) (off v : Nat) : (Tile.set tl off v).mvHeld = tl.mvHeld := rfl
@[simp] theorem Tile.set_tracker (tl : Tile) (off v : Nat) : (Tile.set tl off v).tracker = tl.tracker := rfl
@[simp] theorem Tile.set_syncWait (tl : Tile) (off v : Nat) : (Tile.set tl off v).syncWait = tl.syncWait := rfl
@[simp] theorem Tile.set_frozen (tl : Tile) (off v : Nat) : (Tile.set tl off v).frozen = tl.frozen := rfl
@[simp] theorem Tile.set_hz (tl : Tile) (off v : Nat) : (Tile.set tl off v).hz = tl.hz := rfl
@[simp] theorem Tile.set_hzFrame (tl : Tile) (off v : Nat) : (Tile.set tl off v).hzFrame = tl.hzFrame := rfl
@[simp] theorem Tile.set_trace (tl : Tile) (off v : Nat) : (Tile.set tl off v).trace = tl.trace := rfl
@[simp] theorem Tile.set_slipFrom (tl : Tile) (off v : Nat) : (Tile.set tl off v).slipFrom = tl.slipFrom := rfl
@[simp] theorem Tile.set_slipCause (tl : Tile) (off v : Nat) : (Tile.set tl off v).slipCause = tl.slipCause := rfl
@[simp] theorem Tile.set_retired (tl : Tile) (off v : Nat) : (Tile.set tl off v).retired = tl.retired := rfl

@[simp] theorem Tile.setS_regs (tl : Tile) (i : Nat) (v : W64) : (Tile.setS tl i v).regs = tl.regs := rfl
@[simp] theorem Tile.setS_mem (tl : Tile) (i : Nat) (v : W64) : (Tile.setS tl i v).mem = tl.mem := rfl
@[simp] theorem Tile.setS_wrong (tl : Tile) (i : Nat) (v : W64) : (Tile.setS tl i v).wrong = tl.wrong := rfl
@[simp] theorem Tile.setS_poison (tl : Tile) (i : Nat) (v : W64) : (Tile.setS tl i v).poison = tl.poison := rfl
@[simp] theorem Tile.setS_eve (tl : Tile) (i : Nat) (v : W64) : (Tile.setS tl i v).eve = tl.eve := rfl
@[simp] theorem Tile.setS_routes (tl : Tile) (i : Nat) (v : W64) : (Tile.setS tl i v).routes = tl.routes := rfl
@[simp] theorem Tile.setS_seq (tl : Tile) (i : Nat) (v : W64) : (Tile.setS tl i v).seq = tl.seq := rfl
@[simp] theorem Tile.setS_mx (tl : Tile) (i : Nat) (v : W64) : (Tile.setS tl i v).mx = tl.mx := rfl
@[simp] theorem Tile.setS_vx (tl : Tile) (i : Nat) (v : W64) : (Tile.setS tl i v).vx = tl.vx := rfl
@[simp] theorem Tile.setS_mv (tl : Tile) (i : Nat) (v : W64) : (Tile.setS tl i v).mv = tl.mv := rfl
@[simp] theorem Tile.setS_now (tl : Tile) (i : Nat) (v : W64) : (Tile.setS tl i v).now = tl.now := rfl
@[simp] theorem Tile.setS_stop (tl : Tile) (i : Nat) (v : W64) : (Tile.setS tl i v).stop = tl.stop := rfl
@[simp] theorem Tile.setS_ops (tl : Tile) (i : Nat) (v : W64) : (Tile.setS tl i v).ops = tl.ops := rfl
@[simp] theorem Tile.setS_signals (tl : Tile) (i : Nat) (v : W64) : (Tile.setS tl i v).signals = tl.signals := rfl
@[simp] theorem Tile.setS_ovf (tl : Tile) (i : Nat) (v : W64) : (Tile.setS tl i v).ovf = tl.ovf := rfl
@[simp] theorem Tile.setS_began (tl : Tile) (i : Nat) (v : W64) : (Tile.setS tl i v).began = tl.began := rfl
@[simp] theorem Tile.setS_outbox (tl : Tile) (i : Nat) (v : W64) : (Tile.setS tl i v).outbox = tl.outbox := rfl
@[simp] theorem Tile.setS_accesses (tl : Tile) (i : Nat) (v : W64) : (Tile.setS tl i v).accesses = tl.accesses := rfl
@[simp] theorem Tile.setS_dead (tl : Tile) (i : Nat) (v : W64) : (Tile.setS tl i v).dead = tl.dead := rfl
@[simp] theorem Tile.setS_withheld (tl : Tile) (i : Nat) (v : W64) : (Tile.setS tl i v).withheld = tl.withheld := rfl
@[simp] theorem Tile.setS_raised (tl : Tile) (i : Nat) (v : W64) : (Tile.setS tl i v).raised = tl.raised := rfl
@[simp] theorem Tile.setS_tags (tl : Tile) (i : Nat) (v : W64) : (Tile.setS tl i v).tags = tl.tags := rfl
@[simp] theorem Tile.setS_ranges (tl : Tile) (i : Nat) (v : W64) : (Tile.setS tl i v).ranges = tl.ranges := rfl
@[simp] theorem Tile.setS_openRange (tl : Tile) (i : Nat) (v : W64) : (Tile.setS tl i v).openRange = tl.openRange := rfl
@[simp] theorem Tile.setS_reexec (tl : Tile) (i : Nat) (v : W64) : (Tile.setS tl i v).reexec = tl.reexec := rfl
@[simp] theorem Tile.setS_rangeCtr (tl : Tile) (i : Nat) (v : W64) : (Tile.setS tl i v).rangeCtr = tl.rangeCtr := rfl
@[simp] theorem Tile.setS_again (tl : Tile) (i : Nat) (v : W64) : (Tile.setS tl i v).again = tl.again := rfl
@[simp] theorem Tile.setS_saved (tl : Tile) (i : Nat) (v : W64) : (Tile.setS tl i v).saved = tl.saved := rfl
@[simp] theorem Tile.setS_redoFrom (tl : Tile) (i : Nat) (v : W64) : (Tile.setS tl i v).redoFrom = tl.redoFrom := rfl
@[simp] theorem Tile.setS_mvHeld (tl : Tile) (i : Nat) (v : W64) : (Tile.setS tl i v).mvHeld = tl.mvHeld := rfl
@[simp] theorem Tile.setS_tracker (tl : Tile) (i : Nat) (v : W64) : (Tile.setS tl i v).tracker = tl.tracker := rfl
@[simp] theorem Tile.setS_syncWait (tl : Tile) (i : Nat) (v : W64) : (Tile.setS tl i v).syncWait = tl.syncWait := rfl
@[simp] theorem Tile.setS_frozen (tl : Tile) (i : Nat) (v : W64) : (Tile.setS tl i v).frozen = tl.frozen := rfl
@[simp] theorem Tile.setS_hz (tl : Tile) (i : Nat) (v : W64) : (Tile.setS tl i v).hz = tl.hz := rfl
@[simp] theorem Tile.setS_hzFrame (tl : Tile) (i : Nat) (v : W64) : (Tile.setS tl i v).hzFrame = tl.hzFrame := rfl
@[simp] theorem Tile.setS_trace (tl : Tile) (i : Nat) (v : W64) : (Tile.setS tl i v).trace = tl.trace := rfl
@[simp] theorem Tile.setS_slipFrom (tl : Tile) (i : Nat) (v : W64) : (Tile.setS tl i v).slipFrom = tl.slipFrom := rfl
@[simp] theorem Tile.setS_slipCause (tl : Tile) (i : Nat) (v : W64) : (Tile.setS tl i v).slipCause = tl.slipCause := rfl
@[simp] theorem Tile.setS_retired (tl : Tile) (i : Nat) (v : W64) : (Tile.setS tl i v).retired = tl.retired := rfl

@[simp] theorem Tile.setEve_regs (tl : Tile) (l : Nat) (b : Bool) : (Tile.setEve tl l b).regs = tl.regs := rfl
@[simp] theorem Tile.setEve_mem (tl : Tile) (l : Nat) (b : Bool) : (Tile.setEve tl l b).mem = tl.mem := rfl
@[simp] theorem Tile.setEve_wrong (tl : Tile) (l : Nat) (b : Bool) : (Tile.setEve tl l b).wrong = tl.wrong := rfl
@[simp] theorem Tile.setEve_poison (tl : Tile) (l : Nat) (b : Bool) : (Tile.setEve tl l b).poison = tl.poison := rfl
@[simp] theorem Tile.setEve_sregs (tl : Tile) (l : Nat) (b : Bool) : (Tile.setEve tl l b).sregs = tl.sregs := rfl
@[simp] theorem Tile.setEve_routes (tl : Tile) (l : Nat) (b : Bool) : (Tile.setEve tl l b).routes = tl.routes := rfl
@[simp] theorem Tile.setEve_seq (tl : Tile) (l : Nat) (b : Bool) : (Tile.setEve tl l b).seq = tl.seq := rfl
@[simp] theorem Tile.setEve_mx (tl : Tile) (l : Nat) (b : Bool) : (Tile.setEve tl l b).mx = tl.mx := rfl
@[simp] theorem Tile.setEve_vx (tl : Tile) (l : Nat) (b : Bool) : (Tile.setEve tl l b).vx = tl.vx := rfl
@[simp] theorem Tile.setEve_mv (tl : Tile) (l : Nat) (b : Bool) : (Tile.setEve tl l b).mv = tl.mv := rfl
@[simp] theorem Tile.setEve_now (tl : Tile) (l : Nat) (b : Bool) : (Tile.setEve tl l b).now = tl.now := rfl
@[simp] theorem Tile.setEve_stop (tl : Tile) (l : Nat) (b : Bool) : (Tile.setEve tl l b).stop = tl.stop := rfl
@[simp] theorem Tile.setEve_ops (tl : Tile) (l : Nat) (b : Bool) : (Tile.setEve tl l b).ops = tl.ops := rfl
@[simp] theorem Tile.setEve_signals (tl : Tile) (l : Nat) (b : Bool) : (Tile.setEve tl l b).signals = tl.signals := rfl
@[simp] theorem Tile.setEve_ovf (tl : Tile) (l : Nat) (b : Bool) : (Tile.setEve tl l b).ovf = tl.ovf := rfl
@[simp] theorem Tile.setEve_began (tl : Tile) (l : Nat) (b : Bool) : (Tile.setEve tl l b).began = tl.began := rfl
@[simp] theorem Tile.setEve_outbox (tl : Tile) (l : Nat) (b : Bool) : (Tile.setEve tl l b).outbox = tl.outbox := rfl
@[simp] theorem Tile.setEve_accesses (tl : Tile) (l : Nat) (b : Bool) : (Tile.setEve tl l b).accesses = tl.accesses := rfl
@[simp] theorem Tile.setEve_dead (tl : Tile) (l : Nat) (b : Bool) : (Tile.setEve tl l b).dead = tl.dead := rfl
@[simp] theorem Tile.setEve_withheld (tl : Tile) (l : Nat) (b : Bool) : (Tile.setEve tl l b).withheld = tl.withheld := rfl
@[simp] theorem Tile.setEve_raised (tl : Tile) (l : Nat) (b : Bool) : (Tile.setEve tl l b).raised = tl.raised := rfl
@[simp] theorem Tile.setEve_tags (tl : Tile) (l : Nat) (b : Bool) : (Tile.setEve tl l b).tags = tl.tags := rfl
@[simp] theorem Tile.setEve_ranges (tl : Tile) (l : Nat) (b : Bool) : (Tile.setEve tl l b).ranges = tl.ranges := rfl
@[simp] theorem Tile.setEve_openRange (tl : Tile) (l : Nat) (b : Bool) : (Tile.setEve tl l b).openRange = tl.openRange := rfl
@[simp] theorem Tile.setEve_reexec (tl : Tile) (l : Nat) (b : Bool) : (Tile.setEve tl l b).reexec = tl.reexec := rfl
@[simp] theorem Tile.setEve_rangeCtr (tl : Tile) (l : Nat) (b : Bool) : (Tile.setEve tl l b).rangeCtr = tl.rangeCtr := rfl
@[simp] theorem Tile.setEve_again (tl : Tile) (l : Nat) (b : Bool) : (Tile.setEve tl l b).again = tl.again := rfl
@[simp] theorem Tile.setEve_saved (tl : Tile) (l : Nat) (b : Bool) : (Tile.setEve tl l b).saved = tl.saved := rfl
@[simp] theorem Tile.setEve_redoFrom (tl : Tile) (l : Nat) (b : Bool) : (Tile.setEve tl l b).redoFrom = tl.redoFrom := rfl
@[simp] theorem Tile.setEve_mvHeld (tl : Tile) (l : Nat) (b : Bool) : (Tile.setEve tl l b).mvHeld = tl.mvHeld := rfl
@[simp] theorem Tile.setEve_tracker (tl : Tile) (l : Nat) (b : Bool) : (Tile.setEve tl l b).tracker = tl.tracker := rfl
@[simp] theorem Tile.setEve_syncWait (tl : Tile) (l : Nat) (b : Bool) : (Tile.setEve tl l b).syncWait = tl.syncWait := rfl
@[simp] theorem Tile.setEve_frozen (tl : Tile) (l : Nat) (b : Bool) : (Tile.setEve tl l b).frozen = tl.frozen := rfl
@[simp] theorem Tile.setEve_hz (tl : Tile) (l : Nat) (b : Bool) : (Tile.setEve tl l b).hz = tl.hz := rfl
@[simp] theorem Tile.setEve_hzFrame (tl : Tile) (l : Nat) (b : Bool) : (Tile.setEve tl l b).hzFrame = tl.hzFrame := rfl
@[simp] theorem Tile.setEve_trace (tl : Tile) (l : Nat) (b : Bool) : (Tile.setEve tl l b).trace = tl.trace := rfl
@[simp] theorem Tile.setEve_slipFrom (tl : Tile) (l : Nat) (b : Bool) : (Tile.setEve tl l b).slipFrom = tl.slipFrom := rfl
@[simp] theorem Tile.setEve_slipCause (tl : Tile) (l : Nat) (b : Bool) : (Tile.setEve tl l b).slipCause = tl.slipCause := rfl
@[simp] theorem Tile.setEve_retired (tl : Tile) (l : Nat) (b : Bool) : (Tile.setEve tl l b).retired = tl.retired := rfl

@[simp] theorem Tile.setRange_regs (tl : Tile) (e : Nat) (r : Option Range) : (Tile.setRange tl e r).regs = tl.regs := rfl
@[simp] theorem Tile.setRange_mem (tl : Tile) (e : Nat) (r : Option Range) : (Tile.setRange tl e r).mem = tl.mem := rfl
@[simp] theorem Tile.setRange_wrong (tl : Tile) (e : Nat) (r : Option Range) : (Tile.setRange tl e r).wrong = tl.wrong := rfl
@[simp] theorem Tile.setRange_poison (tl : Tile) (e : Nat) (r : Option Range) : (Tile.setRange tl e r).poison = tl.poison := rfl
@[simp] theorem Tile.setRange_eve (tl : Tile) (e : Nat) (r : Option Range) : (Tile.setRange tl e r).eve = tl.eve := rfl
@[simp] theorem Tile.setRange_sregs (tl : Tile) (e : Nat) (r : Option Range) : (Tile.setRange tl e r).sregs = tl.sregs := rfl
@[simp] theorem Tile.setRange_routes (tl : Tile) (e : Nat) (r : Option Range) : (Tile.setRange tl e r).routes = tl.routes := rfl
@[simp] theorem Tile.setRange_seq (tl : Tile) (e : Nat) (r : Option Range) : (Tile.setRange tl e r).seq = tl.seq := rfl
@[simp] theorem Tile.setRange_mx (tl : Tile) (e : Nat) (r : Option Range) : (Tile.setRange tl e r).mx = tl.mx := rfl
@[simp] theorem Tile.setRange_vx (tl : Tile) (e : Nat) (r : Option Range) : (Tile.setRange tl e r).vx = tl.vx := rfl
@[simp] theorem Tile.setRange_mv (tl : Tile) (e : Nat) (r : Option Range) : (Tile.setRange tl e r).mv = tl.mv := rfl
@[simp] theorem Tile.setRange_now (tl : Tile) (e : Nat) (r : Option Range) : (Tile.setRange tl e r).now = tl.now := rfl
@[simp] theorem Tile.setRange_stop (tl : Tile) (e : Nat) (r : Option Range) : (Tile.setRange tl e r).stop = tl.stop := rfl
@[simp] theorem Tile.setRange_ops (tl : Tile) (e : Nat) (r : Option Range) : (Tile.setRange tl e r).ops = tl.ops := rfl
@[simp] theorem Tile.setRange_signals (tl : Tile) (e : Nat) (r : Option Range) : (Tile.setRange tl e r).signals = tl.signals := rfl
@[simp] theorem Tile.setRange_ovf (tl : Tile) (e : Nat) (r : Option Range) : (Tile.setRange tl e r).ovf = tl.ovf := rfl
@[simp] theorem Tile.setRange_began (tl : Tile) (e : Nat) (r : Option Range) : (Tile.setRange tl e r).began = tl.began := rfl
@[simp] theorem Tile.setRange_outbox (tl : Tile) (e : Nat) (r : Option Range) : (Tile.setRange tl e r).outbox = tl.outbox := rfl
@[simp] theorem Tile.setRange_accesses (tl : Tile) (e : Nat) (r : Option Range) : (Tile.setRange tl e r).accesses = tl.accesses := rfl
@[simp] theorem Tile.setRange_dead (tl : Tile) (e : Nat) (r : Option Range) : (Tile.setRange tl e r).dead = tl.dead := rfl
@[simp] theorem Tile.setRange_withheld (tl : Tile) (e : Nat) (r : Option Range) : (Tile.setRange tl e r).withheld = tl.withheld := rfl
@[simp] theorem Tile.setRange_raised (tl : Tile) (e : Nat) (r : Option Range) : (Tile.setRange tl e r).raised = tl.raised := rfl
@[simp] theorem Tile.setRange_tags (tl : Tile) (e : Nat) (r : Option Range) : (Tile.setRange tl e r).tags = tl.tags := rfl
@[simp] theorem Tile.setRange_openRange (tl : Tile) (e : Nat) (r : Option Range) : (Tile.setRange tl e r).openRange = tl.openRange := rfl
@[simp] theorem Tile.setRange_reexec (tl : Tile) (e : Nat) (r : Option Range) : (Tile.setRange tl e r).reexec = tl.reexec := rfl
@[simp] theorem Tile.setRange_rangeCtr (tl : Tile) (e : Nat) (r : Option Range) : (Tile.setRange tl e r).rangeCtr = tl.rangeCtr := rfl
@[simp] theorem Tile.setRange_again (tl : Tile) (e : Nat) (r : Option Range) : (Tile.setRange tl e r).again = tl.again := rfl
@[simp] theorem Tile.setRange_saved (tl : Tile) (e : Nat) (r : Option Range) : (Tile.setRange tl e r).saved = tl.saved := rfl
@[simp] theorem Tile.setRange_redoFrom (tl : Tile) (e : Nat) (r : Option Range) : (Tile.setRange tl e r).redoFrom = tl.redoFrom := rfl
@[simp] theorem Tile.setRange_mvHeld (tl : Tile) (e : Nat) (r : Option Range) : (Tile.setRange tl e r).mvHeld = tl.mvHeld := rfl
@[simp] theorem Tile.setRange_tracker (tl : Tile) (e : Nat) (r : Option Range) : (Tile.setRange tl e r).tracker = tl.tracker := rfl
@[simp] theorem Tile.setRange_syncWait (tl : Tile) (e : Nat) (r : Option Range) : (Tile.setRange tl e r).syncWait = tl.syncWait := rfl
@[simp] theorem Tile.setRange_frozen (tl : Tile) (e : Nat) (r : Option Range) : (Tile.setRange tl e r).frozen = tl.frozen := rfl
@[simp] theorem Tile.setRange_hz (tl : Tile) (e : Nat) (r : Option Range) : (Tile.setRange tl e r).hz = tl.hz := rfl
@[simp] theorem Tile.setRange_hzFrame (tl : Tile) (e : Nat) (r : Option Range) : (Tile.setRange tl e r).hzFrame = tl.hzFrame := rfl
@[simp] theorem Tile.setRange_trace (tl : Tile) (e : Nat) (r : Option Range) : (Tile.setRange tl e r).trace = tl.trace := rfl
@[simp] theorem Tile.setRange_slipFrom (tl : Tile) (e : Nat) (r : Option Range) : (Tile.setRange tl e r).slipFrom = tl.slipFrom := rfl
@[simp] theorem Tile.setRange_slipCause (tl : Tile) (e : Nat) (r : Option Range) : (Tile.setRange tl e r).slipCause = tl.slipCause := rfl
@[simp] theorem Tile.setRange_retired (tl : Tile) (e : Nat) (r : Option Range) : (Tile.setRange tl e r).retired = tl.retired := rfl

@[simp] theorem Tile.setTag_regs (tl : Tile) (g : Nat) (v : Tag) : (Tile.setTag tl g v).regs = tl.regs := rfl
@[simp] theorem Tile.setTag_mem (tl : Tile) (g : Nat) (v : Tag) : (Tile.setTag tl g v).mem = tl.mem := rfl
@[simp] theorem Tile.setTag_wrong (tl : Tile) (g : Nat) (v : Tag) : (Tile.setTag tl g v).wrong = tl.wrong := rfl
@[simp] theorem Tile.setTag_poison (tl : Tile) (g : Nat) (v : Tag) : (Tile.setTag tl g v).poison = tl.poison := rfl
@[simp] theorem Tile.setTag_eve (tl : Tile) (g : Nat) (v : Tag) : (Tile.setTag tl g v).eve = tl.eve := rfl
@[simp] theorem Tile.setTag_sregs (tl : Tile) (g : Nat) (v : Tag) : (Tile.setTag tl g v).sregs = tl.sregs := rfl
@[simp] theorem Tile.setTag_routes (tl : Tile) (g : Nat) (v : Tag) : (Tile.setTag tl g v).routes = tl.routes := rfl
@[simp] theorem Tile.setTag_seq (tl : Tile) (g : Nat) (v : Tag) : (Tile.setTag tl g v).seq = tl.seq := rfl
@[simp] theorem Tile.setTag_mx (tl : Tile) (g : Nat) (v : Tag) : (Tile.setTag tl g v).mx = tl.mx := rfl
@[simp] theorem Tile.setTag_vx (tl : Tile) (g : Nat) (v : Tag) : (Tile.setTag tl g v).vx = tl.vx := rfl
@[simp] theorem Tile.setTag_mv (tl : Tile) (g : Nat) (v : Tag) : (Tile.setTag tl g v).mv = tl.mv := rfl
@[simp] theorem Tile.setTag_now (tl : Tile) (g : Nat) (v : Tag) : (Tile.setTag tl g v).now = tl.now := rfl
@[simp] theorem Tile.setTag_stop (tl : Tile) (g : Nat) (v : Tag) : (Tile.setTag tl g v).stop = tl.stop := rfl
@[simp] theorem Tile.setTag_ops (tl : Tile) (g : Nat) (v : Tag) : (Tile.setTag tl g v).ops = tl.ops := rfl
@[simp] theorem Tile.setTag_signals (tl : Tile) (g : Nat) (v : Tag) : (Tile.setTag tl g v).signals = tl.signals := rfl
@[simp] theorem Tile.setTag_ovf (tl : Tile) (g : Nat) (v : Tag) : (Tile.setTag tl g v).ovf = tl.ovf := rfl
@[simp] theorem Tile.setTag_began (tl : Tile) (g : Nat) (v : Tag) : (Tile.setTag tl g v).began = tl.began := rfl
@[simp] theorem Tile.setTag_outbox (tl : Tile) (g : Nat) (v : Tag) : (Tile.setTag tl g v).outbox = tl.outbox := rfl
@[simp] theorem Tile.setTag_accesses (tl : Tile) (g : Nat) (v : Tag) : (Tile.setTag tl g v).accesses = tl.accesses := rfl
@[simp] theorem Tile.setTag_dead (tl : Tile) (g : Nat) (v : Tag) : (Tile.setTag tl g v).dead = tl.dead := rfl
@[simp] theorem Tile.setTag_withheld (tl : Tile) (g : Nat) (v : Tag) : (Tile.setTag tl g v).withheld = tl.withheld := rfl
@[simp] theorem Tile.setTag_raised (tl : Tile) (g : Nat) (v : Tag) : (Tile.setTag tl g v).raised = tl.raised := rfl
@[simp] theorem Tile.setTag_ranges (tl : Tile) (g : Nat) (v : Tag) : (Tile.setTag tl g v).ranges = tl.ranges := rfl
@[simp] theorem Tile.setTag_openRange (tl : Tile) (g : Nat) (v : Tag) : (Tile.setTag tl g v).openRange = tl.openRange := rfl
@[simp] theorem Tile.setTag_reexec (tl : Tile) (g : Nat) (v : Tag) : (Tile.setTag tl g v).reexec = tl.reexec := rfl
@[simp] theorem Tile.setTag_rangeCtr (tl : Tile) (g : Nat) (v : Tag) : (Tile.setTag tl g v).rangeCtr = tl.rangeCtr := rfl
@[simp] theorem Tile.setTag_again (tl : Tile) (g : Nat) (v : Tag) : (Tile.setTag tl g v).again = tl.again := rfl
@[simp] theorem Tile.setTag_saved (tl : Tile) (g : Nat) (v : Tag) : (Tile.setTag tl g v).saved = tl.saved := rfl
@[simp] theorem Tile.setTag_redoFrom (tl : Tile) (g : Nat) (v : Tag) : (Tile.setTag tl g v).redoFrom = tl.redoFrom := rfl
@[simp] theorem Tile.setTag_mvHeld (tl : Tile) (g : Nat) (v : Tag) : (Tile.setTag tl g v).mvHeld = tl.mvHeld := rfl
@[simp] theorem Tile.setTag_tracker (tl : Tile) (g : Nat) (v : Tag) : (Tile.setTag tl g v).tracker = tl.tracker := rfl
@[simp] theorem Tile.setTag_syncWait (tl : Tile) (g : Nat) (v : Tag) : (Tile.setTag tl g v).syncWait = tl.syncWait := rfl
@[simp] theorem Tile.setTag_frozen (tl : Tile) (g : Nat) (v : Tag) : (Tile.setTag tl g v).frozen = tl.frozen := rfl
@[simp] theorem Tile.setTag_hz (tl : Tile) (g : Nat) (v : Tag) : (Tile.setTag tl g v).hz = tl.hz := rfl
@[simp] theorem Tile.setTag_hzFrame (tl : Tile) (g : Nat) (v : Tag) : (Tile.setTag tl g v).hzFrame = tl.hzFrame := rfl
@[simp] theorem Tile.setTag_trace (tl : Tile) (g : Nat) (v : Tag) : (Tile.setTag tl g v).trace = tl.trace := rfl
@[simp] theorem Tile.setTag_slipFrom (tl : Tile) (g : Nat) (v : Tag) : (Tile.setTag tl g v).slipFrom = tl.slipFrom := rfl
@[simp] theorem Tile.setTag_slipCause (tl : Tile) (g : Nat) (v : Tag) : (Tile.setTag tl g v).slipCause = tl.slipCause := rfl
@[simp] theorem Tile.setTag_retired (tl : Tile) (g : Nat) (v : Tag) : (Tile.setTag tl g v).retired = tl.retired := rfl

@[simp] theorem Tile.clearSpans_regs (tl : Tile) (spans : List (Nat × Nat)) : (Tile.clearSpans tl spans).regs = tl.regs := rfl
@[simp] theorem Tile.clearSpans_mem (tl : Tile) (spans : List (Nat × Nat)) : (Tile.clearSpans tl spans).mem = tl.mem := rfl
@[simp] theorem Tile.clearSpans_wrong (tl : Tile) (spans : List (Nat × Nat)) : (Tile.clearSpans tl spans).wrong = tl.wrong := rfl
@[simp] theorem Tile.clearSpans_poison (tl : Tile) (spans : List (Nat × Nat)) : (Tile.clearSpans tl spans).poison = tl.poison := rfl
@[simp] theorem Tile.clearSpans_sregs (tl : Tile) (spans : List (Nat × Nat)) : (Tile.clearSpans tl spans).sregs = tl.sregs := rfl
@[simp] theorem Tile.clearSpans_routes (tl : Tile) (spans : List (Nat × Nat)) : (Tile.clearSpans tl spans).routes = tl.routes := rfl
@[simp] theorem Tile.clearSpans_seq (tl : Tile) (spans : List (Nat × Nat)) : (Tile.clearSpans tl spans).seq = tl.seq := rfl
@[simp] theorem Tile.clearSpans_mx (tl : Tile) (spans : List (Nat × Nat)) : (Tile.clearSpans tl spans).mx = tl.mx := rfl
@[simp] theorem Tile.clearSpans_vx (tl : Tile) (spans : List (Nat × Nat)) : (Tile.clearSpans tl spans).vx = tl.vx := rfl
@[simp] theorem Tile.clearSpans_mv (tl : Tile) (spans : List (Nat × Nat)) : (Tile.clearSpans tl spans).mv = tl.mv := rfl
@[simp] theorem Tile.clearSpans_now (tl : Tile) (spans : List (Nat × Nat)) : (Tile.clearSpans tl spans).now = tl.now := rfl
@[simp] theorem Tile.clearSpans_stop (tl : Tile) (spans : List (Nat × Nat)) : (Tile.clearSpans tl spans).stop = tl.stop := rfl
@[simp] theorem Tile.clearSpans_ops (tl : Tile) (spans : List (Nat × Nat)) : (Tile.clearSpans tl spans).ops = tl.ops := rfl
@[simp] theorem Tile.clearSpans_signals (tl : Tile) (spans : List (Nat × Nat)) : (Tile.clearSpans tl spans).signals = tl.signals := rfl
@[simp] theorem Tile.clearSpans_ovf (tl : Tile) (spans : List (Nat × Nat)) : (Tile.clearSpans tl spans).ovf = tl.ovf := rfl
@[simp] theorem Tile.clearSpans_began (tl : Tile) (spans : List (Nat × Nat)) : (Tile.clearSpans tl spans).began = tl.began := rfl
@[simp] theorem Tile.clearSpans_outbox (tl : Tile) (spans : List (Nat × Nat)) : (Tile.clearSpans tl spans).outbox = tl.outbox := rfl
@[simp] theorem Tile.clearSpans_accesses (tl : Tile) (spans : List (Nat × Nat)) : (Tile.clearSpans tl spans).accesses = tl.accesses := rfl
@[simp] theorem Tile.clearSpans_dead (tl : Tile) (spans : List (Nat × Nat)) : (Tile.clearSpans tl spans).dead = tl.dead := rfl
@[simp] theorem Tile.clearSpans_withheld (tl : Tile) (spans : List (Nat × Nat)) : (Tile.clearSpans tl spans).withheld = tl.withheld := rfl
@[simp] theorem Tile.clearSpans_raised (tl : Tile) (spans : List (Nat × Nat)) : (Tile.clearSpans tl spans).raised = tl.raised := rfl
@[simp] theorem Tile.clearSpans_tags (tl : Tile) (spans : List (Nat × Nat)) : (Tile.clearSpans tl spans).tags = tl.tags := rfl
@[simp] theorem Tile.clearSpans_ranges (tl : Tile) (spans : List (Nat × Nat)) : (Tile.clearSpans tl spans).ranges = tl.ranges := rfl
@[simp] theorem Tile.clearSpans_openRange (tl : Tile) (spans : List (Nat × Nat)) : (Tile.clearSpans tl spans).openRange = tl.openRange := rfl
@[simp] theorem Tile.clearSpans_reexec (tl : Tile) (spans : List (Nat × Nat)) : (Tile.clearSpans tl spans).reexec = tl.reexec := rfl
@[simp] theorem Tile.clearSpans_rangeCtr (tl : Tile) (spans : List (Nat × Nat)) : (Tile.clearSpans tl spans).rangeCtr = tl.rangeCtr := rfl
@[simp] theorem Tile.clearSpans_again (tl : Tile) (spans : List (Nat × Nat)) : (Tile.clearSpans tl spans).again = tl.again := rfl
@[simp] theorem Tile.clearSpans_saved (tl : Tile) (spans : List (Nat × Nat)) : (Tile.clearSpans tl spans).saved = tl.saved := rfl
@[simp] theorem Tile.clearSpans_redoFrom (tl : Tile) (spans : List (Nat × Nat)) : (Tile.clearSpans tl spans).redoFrom = tl.redoFrom := rfl
@[simp] theorem Tile.clearSpans_mvHeld (tl : Tile) (spans : List (Nat × Nat)) : (Tile.clearSpans tl spans).mvHeld = tl.mvHeld := rfl
@[simp] theorem Tile.clearSpans_tracker (tl : Tile) (spans : List (Nat × Nat)) : (Tile.clearSpans tl spans).tracker = tl.tracker := rfl
@[simp] theorem Tile.clearSpans_syncWait (tl : Tile) (spans : List (Nat × Nat)) : (Tile.clearSpans tl spans).syncWait = tl.syncWait := rfl
@[simp] theorem Tile.clearSpans_frozen (tl : Tile) (spans : List (Nat × Nat)) : (Tile.clearSpans tl spans).frozen = tl.frozen := rfl
@[simp] theorem Tile.clearSpans_hz (tl : Tile) (spans : List (Nat × Nat)) : (Tile.clearSpans tl spans).hz = tl.hz := rfl
@[simp] theorem Tile.clearSpans_hzFrame (tl : Tile) (spans : List (Nat × Nat)) : (Tile.clearSpans tl spans).hzFrame = tl.hzFrame := rfl
@[simp] theorem Tile.clearSpans_trace (tl : Tile) (spans : List (Nat × Nat)) : (Tile.clearSpans tl spans).trace = tl.trace := rfl
@[simp] theorem Tile.clearSpans_slipFrom (tl : Tile) (spans : List (Nat × Nat)) : (Tile.clearSpans tl spans).slipFrom = tl.slipFrom := rfl
@[simp] theorem Tile.clearSpans_slipCause (tl : Tile) (spans : List (Nat × Nat)) : (Tile.clearSpans tl spans).slipCause = tl.slipCause := rfl
@[simp] theorem Tile.clearSpans_retired (tl : Tile) (spans : List (Nat × Nat)) : (Tile.clearSpans tl spans).retired = tl.retired := rfl

@[simp] theorem Tile.raiseInj_regs (tl : Tile) (cls slot detail : Nat) (inj : Bool) : (Tile.raiseInj tl cls slot detail inj).regs = tl.regs := rfl
@[simp] theorem Tile.raiseInj_mem (tl : Tile) (cls slot detail : Nat) (inj : Bool) : (Tile.raiseInj tl cls slot detail inj).mem = tl.mem := rfl
@[simp] theorem Tile.raiseInj_wrong (tl : Tile) (cls slot detail : Nat) (inj : Bool) : (Tile.raiseInj tl cls slot detail inj).wrong = tl.wrong := rfl
@[simp] theorem Tile.raiseInj_poison (tl : Tile) (cls slot detail : Nat) (inj : Bool) : (Tile.raiseInj tl cls slot detail inj).poison = tl.poison := rfl
@[simp] theorem Tile.raiseInj_eve (tl : Tile) (cls slot detail : Nat) (inj : Bool) : (Tile.raiseInj tl cls slot detail inj).eve = tl.eve := rfl
@[simp] theorem Tile.raiseInj_sregs (tl : Tile) (cls slot detail : Nat) (inj : Bool) : (Tile.raiseInj tl cls slot detail inj).sregs = tl.sregs := rfl
@[simp] theorem Tile.raiseInj_routes (tl : Tile) (cls slot detail : Nat) (inj : Bool) : (Tile.raiseInj tl cls slot detail inj).routes = tl.routes := rfl
@[simp] theorem Tile.raiseInj_seq (tl : Tile) (cls slot detail : Nat) (inj : Bool) : (Tile.raiseInj tl cls slot detail inj).seq = tl.seq := rfl
@[simp] theorem Tile.raiseInj_mx (tl : Tile) (cls slot detail : Nat) (inj : Bool) : (Tile.raiseInj tl cls slot detail inj).mx = tl.mx := rfl
@[simp] theorem Tile.raiseInj_vx (tl : Tile) (cls slot detail : Nat) (inj : Bool) : (Tile.raiseInj tl cls slot detail inj).vx = tl.vx := rfl
@[simp] theorem Tile.raiseInj_mv (tl : Tile) (cls slot detail : Nat) (inj : Bool) : (Tile.raiseInj tl cls slot detail inj).mv = tl.mv := rfl
@[simp] theorem Tile.raiseInj_now (tl : Tile) (cls slot detail : Nat) (inj : Bool) : (Tile.raiseInj tl cls slot detail inj).now = tl.now := rfl
@[simp] theorem Tile.raiseInj_stop (tl : Tile) (cls slot detail : Nat) (inj : Bool) : (Tile.raiseInj tl cls slot detail inj).stop = tl.stop := rfl
@[simp] theorem Tile.raiseInj_ops (tl : Tile) (cls slot detail : Nat) (inj : Bool) : (Tile.raiseInj tl cls slot detail inj).ops = tl.ops := rfl
@[simp] theorem Tile.raiseInj_signals (tl : Tile) (cls slot detail : Nat) (inj : Bool) : (Tile.raiseInj tl cls slot detail inj).signals = tl.signals := rfl
@[simp] theorem Tile.raiseInj_ovf (tl : Tile) (cls slot detail : Nat) (inj : Bool) : (Tile.raiseInj tl cls slot detail inj).ovf = tl.ovf := rfl
@[simp] theorem Tile.raiseInj_began (tl : Tile) (cls slot detail : Nat) (inj : Bool) : (Tile.raiseInj tl cls slot detail inj).began = tl.began := rfl
@[simp] theorem Tile.raiseInj_outbox (tl : Tile) (cls slot detail : Nat) (inj : Bool) : (Tile.raiseInj tl cls slot detail inj).outbox = tl.outbox := rfl
@[simp] theorem Tile.raiseInj_accesses (tl : Tile) (cls slot detail : Nat) (inj : Bool) : (Tile.raiseInj tl cls slot detail inj).accesses = tl.accesses := rfl
@[simp] theorem Tile.raiseInj_dead (tl : Tile) (cls slot detail : Nat) (inj : Bool) : (Tile.raiseInj tl cls slot detail inj).dead = tl.dead := rfl
@[simp] theorem Tile.raiseInj_withheld (tl : Tile) (cls slot detail : Nat) (inj : Bool) : (Tile.raiseInj tl cls slot detail inj).withheld = tl.withheld := rfl
@[simp] theorem Tile.raiseInj_tags (tl : Tile) (cls slot detail : Nat) (inj : Bool) : (Tile.raiseInj tl cls slot detail inj).tags = tl.tags := rfl
@[simp] theorem Tile.raiseInj_ranges (tl : Tile) (cls slot detail : Nat) (inj : Bool) : (Tile.raiseInj tl cls slot detail inj).ranges = tl.ranges := rfl
@[simp] theorem Tile.raiseInj_openRange (tl : Tile) (cls slot detail : Nat) (inj : Bool) : (Tile.raiseInj tl cls slot detail inj).openRange = tl.openRange := rfl
@[simp] theorem Tile.raiseInj_reexec (tl : Tile) (cls slot detail : Nat) (inj : Bool) : (Tile.raiseInj tl cls slot detail inj).reexec = tl.reexec := rfl
@[simp] theorem Tile.raiseInj_rangeCtr (tl : Tile) (cls slot detail : Nat) (inj : Bool) : (Tile.raiseInj tl cls slot detail inj).rangeCtr = tl.rangeCtr := rfl
@[simp] theorem Tile.raiseInj_again (tl : Tile) (cls slot detail : Nat) (inj : Bool) : (Tile.raiseInj tl cls slot detail inj).again = tl.again := rfl
@[simp] theorem Tile.raiseInj_saved (tl : Tile) (cls slot detail : Nat) (inj : Bool) : (Tile.raiseInj tl cls slot detail inj).saved = tl.saved := rfl
@[simp] theorem Tile.raiseInj_redoFrom (tl : Tile) (cls slot detail : Nat) (inj : Bool) : (Tile.raiseInj tl cls slot detail inj).redoFrom = tl.redoFrom := rfl
@[simp] theorem Tile.raiseInj_mvHeld (tl : Tile) (cls slot detail : Nat) (inj : Bool) : (Tile.raiseInj tl cls slot detail inj).mvHeld = tl.mvHeld := rfl
@[simp] theorem Tile.raiseInj_tracker (tl : Tile) (cls slot detail : Nat) (inj : Bool) : (Tile.raiseInj tl cls slot detail inj).tracker = tl.tracker := rfl
@[simp] theorem Tile.raiseInj_syncWait (tl : Tile) (cls slot detail : Nat) (inj : Bool) : (Tile.raiseInj tl cls slot detail inj).syncWait = tl.syncWait := rfl
@[simp] theorem Tile.raiseInj_frozen (tl : Tile) (cls slot detail : Nat) (inj : Bool) : (Tile.raiseInj tl cls slot detail inj).frozen = tl.frozen := rfl
@[simp] theorem Tile.raiseInj_hz (tl : Tile) (cls slot detail : Nat) (inj : Bool) : (Tile.raiseInj tl cls slot detail inj).hz = tl.hz := rfl
@[simp] theorem Tile.raiseInj_hzFrame (tl : Tile) (cls slot detail : Nat) (inj : Bool) : (Tile.raiseInj tl cls slot detail inj).hzFrame = tl.hzFrame := rfl
@[simp] theorem Tile.raiseInj_trace (tl : Tile) (cls slot detail : Nat) (inj : Bool) : (Tile.raiseInj tl cls slot detail inj).trace = tl.trace := rfl
@[simp] theorem Tile.raiseInj_slipFrom (tl : Tile) (cls slot detail : Nat) (inj : Bool) : (Tile.raiseInj tl cls slot detail inj).slipFrom = tl.slipFrom := rfl
@[simp] theorem Tile.raiseInj_slipCause (tl : Tile) (cls slot detail : Nat) (inj : Bool) : (Tile.raiseInj tl cls slot detail inj).slipCause = tl.slipCause := rfl
@[simp] theorem Tile.raiseInj_retired (tl : Tile) (cls slot detail : Nat) (inj : Bool) : (Tile.raiseInj tl cls slot detail inj).retired = tl.retired := rfl

@[simp] theorem Tile.seqGo_regs (tl : Tile) (at_ next : Nat) : (Tile.seqGo tl at_ next).regs = tl.regs := rfl
@[simp] theorem Tile.seqGo_mem (tl : Tile) (at_ next : Nat) : (Tile.seqGo tl at_ next).mem = tl.mem := rfl
@[simp] theorem Tile.seqGo_wrong (tl : Tile) (at_ next : Nat) : (Tile.seqGo tl at_ next).wrong = tl.wrong := rfl
@[simp] theorem Tile.seqGo_poison (tl : Tile) (at_ next : Nat) : (Tile.seqGo tl at_ next).poison = tl.poison := rfl
@[simp] theorem Tile.seqGo_eve (tl : Tile) (at_ next : Nat) : (Tile.seqGo tl at_ next).eve = tl.eve := rfl
@[simp] theorem Tile.seqGo_sregs (tl : Tile) (at_ next : Nat) : (Tile.seqGo tl at_ next).sregs = tl.sregs := rfl
@[simp] theorem Tile.seqGo_routes (tl : Tile) (at_ next : Nat) : (Tile.seqGo tl at_ next).routes = tl.routes := rfl
@[simp] theorem Tile.seqGo_mx (tl : Tile) (at_ next : Nat) : (Tile.seqGo tl at_ next).mx = tl.mx := rfl
@[simp] theorem Tile.seqGo_vx (tl : Tile) (at_ next : Nat) : (Tile.seqGo tl at_ next).vx = tl.vx := rfl
@[simp] theorem Tile.seqGo_mv (tl : Tile) (at_ next : Nat) : (Tile.seqGo tl at_ next).mv = tl.mv := rfl
@[simp] theorem Tile.seqGo_now (tl : Tile) (at_ next : Nat) : (Tile.seqGo tl at_ next).now = tl.now := rfl
@[simp] theorem Tile.seqGo_stop (tl : Tile) (at_ next : Nat) : (Tile.seqGo tl at_ next).stop = tl.stop := rfl
@[simp] theorem Tile.seqGo_ops (tl : Tile) (at_ next : Nat) : (Tile.seqGo tl at_ next).ops = tl.ops := rfl
@[simp] theorem Tile.seqGo_signals (tl : Tile) (at_ next : Nat) : (Tile.seqGo tl at_ next).signals = tl.signals := rfl
@[simp] theorem Tile.seqGo_ovf (tl : Tile) (at_ next : Nat) : (Tile.seqGo tl at_ next).ovf = tl.ovf := rfl
@[simp] theorem Tile.seqGo_began (tl : Tile) (at_ next : Nat) : (Tile.seqGo tl at_ next).began = tl.began := rfl
@[simp] theorem Tile.seqGo_outbox (tl : Tile) (at_ next : Nat) : (Tile.seqGo tl at_ next).outbox = tl.outbox := rfl
@[simp] theorem Tile.seqGo_accesses (tl : Tile) (at_ next : Nat) : (Tile.seqGo tl at_ next).accesses = tl.accesses := rfl
@[simp] theorem Tile.seqGo_dead (tl : Tile) (at_ next : Nat) : (Tile.seqGo tl at_ next).dead = tl.dead := rfl
@[simp] theorem Tile.seqGo_withheld (tl : Tile) (at_ next : Nat) : (Tile.seqGo tl at_ next).withheld = tl.withheld := rfl
@[simp] theorem Tile.seqGo_raised (tl : Tile) (at_ next : Nat) : (Tile.seqGo tl at_ next).raised = tl.raised := rfl
@[simp] theorem Tile.seqGo_tags (tl : Tile) (at_ next : Nat) : (Tile.seqGo tl at_ next).tags = tl.tags := rfl
@[simp] theorem Tile.seqGo_ranges (tl : Tile) (at_ next : Nat) : (Tile.seqGo tl at_ next).ranges = tl.ranges := rfl
@[simp] theorem Tile.seqGo_openRange (tl : Tile) (at_ next : Nat) : (Tile.seqGo tl at_ next).openRange = tl.openRange := rfl
@[simp] theorem Tile.seqGo_reexec (tl : Tile) (at_ next : Nat) : (Tile.seqGo tl at_ next).reexec = tl.reexec := rfl
@[simp] theorem Tile.seqGo_rangeCtr (tl : Tile) (at_ next : Nat) : (Tile.seqGo tl at_ next).rangeCtr = tl.rangeCtr := rfl
@[simp] theorem Tile.seqGo_again (tl : Tile) (at_ next : Nat) : (Tile.seqGo tl at_ next).again = tl.again := rfl
@[simp] theorem Tile.seqGo_saved (tl : Tile) (at_ next : Nat) : (Tile.seqGo tl at_ next).saved = tl.saved := rfl
@[simp] theorem Tile.seqGo_redoFrom (tl : Tile) (at_ next : Nat) : (Tile.seqGo tl at_ next).redoFrom = tl.redoFrom := rfl
@[simp] theorem Tile.seqGo_mvHeld (tl : Tile) (at_ next : Nat) : (Tile.seqGo tl at_ next).mvHeld = tl.mvHeld := rfl
@[simp] theorem Tile.seqGo_tracker (tl : Tile) (at_ next : Nat) : (Tile.seqGo tl at_ next).tracker = tl.tracker := rfl
@[simp] theorem Tile.seqGo_syncWait (tl : Tile) (at_ next : Nat) : (Tile.seqGo tl at_ next).syncWait = tl.syncWait := rfl
@[simp] theorem Tile.seqGo_frozen (tl : Tile) (at_ next : Nat) : (Tile.seqGo tl at_ next).frozen = tl.frozen := rfl
@[simp] theorem Tile.seqGo_hz (tl : Tile) (at_ next : Nat) : (Tile.seqGo tl at_ next).hz = tl.hz := rfl
@[simp] theorem Tile.seqGo_hzFrame (tl : Tile) (at_ next : Nat) : (Tile.seqGo tl at_ next).hzFrame = tl.hzFrame := rfl
@[simp] theorem Tile.seqGo_trace (tl : Tile) (at_ next : Nat) : (Tile.seqGo tl at_ next).trace = tl.trace := rfl
@[simp] theorem Tile.seqGo_slipFrom (tl : Tile) (at_ next : Nat) : (Tile.seqGo tl at_ next).slipFrom = tl.slipFrom := rfl
@[simp] theorem Tile.seqGo_slipCause (tl : Tile) (at_ next : Nat) : (Tile.seqGo tl at_ next).slipCause = tl.slipCause := rfl
@[simp] theorem Tile.seqGo_retired (tl : Tile) (at_ next : Nat) : (Tile.seqGo tl at_ next).retired = tl.retired := rfl

/-! What is read after a write. -/

theorem State.get_set (s : State) (off v j : Nat) : (s.set off v).get j = if j = off then v % 2 ^ 32 else s.get j := by
  by_cases h : j = off
  · simp [State.get, State.set, h]
  · simp [State.get, State.set, h, smapGet_put_other regReset s.regs (BitVec.ofNat 32 v) h]

theorem State.get_set_same (s : State) (off v : Nat) : (s.set off v).get off = v % 2 ^ 32 := by simp [State.get_set]

theorem State.get_set_other (s : State) {off j : Nat} (v : Nat) (h : j ≠ off) : (s.set off v).get j = s.get j := by simp [State.get_set, h]

theorem State.get_lt (s : State) (off : Nat) : s.get off < 2 ^ 32 := (smapGet regReset s.regs off).isLt

theorem State.get_orBits_other (s : State) {off j : Nat} (m : Nat) (h : j ≠ off) : (s.orBits off m).get j = s.get j := State.get_set_other _ _ h
theorem State.get_clrBits_other (s : State) {off j : Nat} (m : Nat) (h : j ≠ off) : (s.clrBits off m).get j = s.get j := State.get_set_other _ _ h
theorem State.get_bump_other (s : State) {off j : Nat} (k : Nat) (h : j ≠ off) : (s.bump off k).get j = s.get j := State.get_set_other _ _ h
theorem State.get_setField_other (s : State) {off j : Nat} (lo len v : Nat) (h : j ≠ off) : (s.setField off lo len v).get j = s.get j :=
  State.get_set_other _ _ h

theorem State.get_bump_same (s : State) (off k : Nat) : (s.bump off k).get off = (s.get off + k) % 2 ^ 32 := State.get_set_same _ _ _

theorem State.get_orBits_same (s : State) (off m : Nat) (h : m < 2 ^ 32) : (s.orBits off m).get off = s.get off ||| m := by
  unfold State.orBits
  rw [State.get_set_same]
  exact Nat.mod_eq_of_lt (Nat.or_lt_two_pow (State.get_lt s off) h)

theorem State.get_set64_other (s : State) {off j : Nat} (v : Nat) (h : j ≠ off) (h' : j ≠ off + 4) : (s.set64 off v).get j = s.get j := by
  unfold State.set64
  rw [State.get_set_other _ _ h', State.get_set_other _ _ h]

theorem State.get64_set64 (s : State) (off v : Nat) (h : v < 2 ^ 64) : (s.set64 off v).get64 off = v := by
  have h2 : v / 2 ^ 32 < 2 ^ 32 := by omega
  unfold State.set64 State.get64
  rw [State.get_set_same, State.get_set_other _ _ (by omega), State.get_set_same]
  omega

@[simp] theorem State.tile_setTile_same (s : State) (n : Nat) (tl : Tile) : (s.setTile n tl).tile n = tl := by simp [State.tile, State.setTile]

theorem State.tile_setTile_other (s : State) {n m : Nat} (tl : Tile) (h : m ≠ n) : (s.setTile n tl).tile m = s.tile m := by
  simp [State.tile, State.setTile, smapGet_put_other _ _ _ h]

@[simp] theorem State.get_setTile (s : State) (n : Nat) (tl : Tile) (off : Nat) : (s.setTile n tl).get off = s.get off := rfl
@[simp] theorem State.get_emit (s : State) (o : Out) (off : Nat) : (s.emit o).get off = s.get off := rfl

theorem Tile.get_set (tl : Tile) (off v j : Nat) : (tl.set off v).get j = if j = off then v % 2 ^ 32 else tl.get j := by
  by_cases h : j = off
  · simp [Tile.get, Tile.set, h]
  · simp [Tile.get, Tile.set, h, smapGet_put_other tlReset tl.regs (BitVec.ofNat 32 v) h]

theorem Tile.get_set_same (tl : Tile) (off v : Nat) : (tl.set off v).get off = v % 2 ^ 32 := by simp [Tile.get_set]

theorem Tile.get_set_other (tl : Tile) {off j : Nat} (v : Nat) (h : j ≠ off) : (tl.set off v).get j = tl.get j := by simp [Tile.get_set, h]

@[simp] theorem Tile.s_setS_same (tl : Tile) (d : Nat) (v : W64) : (tl.setS d v).s d = v := by simp [Tile.s, Tile.setS]

theorem Tile.s_setS_other (tl : Tile) {d r : Nat} (v : W64) (h : r ≠ d) : (tl.setS d v).s r = tl.s r := by
  simp [Tile.s, Tile.setS, smapGet_put_other _ _ _ h]

/-! Canonical form (the memory's lemma): every write of a register, of SRAM or of HBM keeps it. -/

theorem State.set_regsWf (s : State) (off v : Nat) (h : smapWf regReset s.regs = true) : smapWf regReset (s.set off v).regs = true := smapWf_put _ _ _ _ h

theorem State.restore_regsWf (s : State) (p : Nat → Bool) (h : smapWf regReset s.regs = true) : smapWf regReset (s.restore p).regs = true :=
  smapWf_drop _ _ _ h

theorem State.hbmWrite_wf (s : State) (hla : Nat) (v : Line) (h : s.hbm.wf = true) : (s.hbmWrite hla v).hbm.wf = true := by
  simp only [HbmMem.wf, Bool.and_eq_true] at h ⊢
  exact ⟨smapWf_bytesPut _ _ _ _ h.1, smapWf_put _ _ _ _ h.2⟩

theorem State.hbmBytes_wf (s : State) (a n v : Nat) (h : s.hbm.wf = true) : (s.hbmBytes a n v).hbm.wf = true := by
  simp only [HbmMem.wf, Bool.and_eq_true] at h ⊢
  exact ⟨smapWf_bytesPut _ _ _ _ h.1, h.2⟩

end Sys2Proof.Machine
end

