-- ==== Sys2Proof/Laws/Memory.lean ====
section
/-! SUPPORT. The canonical form of the registers and of HBM: every operation on the device keeps it. -/

set_option linter.unusedSimpArgs false

namespace Sys2Proof.Machine

theorem memOk_mk {now regs shadow latches fuse frame loader tiles routers pkts pktCtr hbmCtl hbm ports sync time fl ob serve host mg power library freeCtr out pending} :
    State.memOk ⟨now, regs, shadow, latches, fuse, frame, loader, tiles, routers, pkts, pktCtr, hbmCtl, hbm, ports, sync, time, fl, ob, serve, host, mg, power, library, freeCtr, out, pending⟩ = (smapWf regReset regs = true ∧ HbmMem.wf hbm = true) := Eq.trans rfl rfl

theorem ok_regs {s : State} (h : s.memOk) : smapWf regReset s.regs = true := h.1
theorem ok_hbm {s : State} (h : s.memOk) : s.hbm.wf = true := h.2

theorem memOk_same {a b : State} (h : b.memOk) (h1 : a.regs = b.regs) (h2 : a.hbm = b.hbm) : a.memOk := by
  rw [State.memOk, h1, h2]
  exact h

theorem foldl_ok {α : Type} (f : State → α → State) (l : List α) (s : State) (h : ∀ s x, s.memOk → (f s x).memOk) (hs : s.memOk) : (l.foldl f s).memOk := by
  induction l generalizing s with
  | nil => exact hs
  | cons x l ih => exact ih _ (h s x hs)

theorem foldlPair_ok {α β : Type} (f : State × β → α → State × β) (h : ∀ p x, p.1.memOk → (f p x).1.memOk) (l : List α) (p : State × β)
    (hp : p.1.memOk) : (l.foldl f p).1.memOk := by
  induction l generalizing p with
  | nil => exact hp
  | cons x l ih => exact ih _ (h p x hp)

theorem upto_ok (f : Nat → State → State) (lo n : Nat) (s : State) (h : ∀ i s, s.memOk → (f i s).memOk) (hs : s.memOk) : (upto f lo n s).memOk := by
  induction n generalizing lo s with
  | zero => exact hs
  | succ n ih => exact ih _ _ (h _ _ hs)

theorem ite_some_ok {c : Prop} [Decidable c] {a : State} {r : Option State} (ha : a.memOk)
    (hr : ∀ t, r = some t → t.memOk) : ∀ t, (if c then some a else r) = some t → t.memOk := by
  intro t h
  by_cases hc : c
  · rw [if_pos hc] at h
    injection h with h
    exact h ▸ ha
  · rw [if_neg hc] at h
    exact hr t h

theorem State.set_ok (s : State) (off : Nat) (v : Nat) (hok : s.memOk) : (State.set s off v).memOk := by
  exact ⟨State.set_regsWf s off v hok.1, hok.2⟩

theorem State.orBits_ok (s : State) (off mask : Nat) (hok : s.memOk) : (State.orBits s off mask).memOk := by
  unfold State.orBits
  repeat' (with_reducible first | assumption | apply State.set_ok | split)

theorem State.clrBits_ok (s : State) (off mask : Nat) (hok : s.memOk) : (State.clrBits s off mask).memOk := by
  unfold State.clrBits
  repeat' (with_reducible first | assumption | apply State.set_ok | split)

theorem State.bump_ok (s : State) (off k : Nat) (hok : s.memOk) : (State.bump s off k).memOk := by
  unfold State.bump
  repeat' (with_reducible first | assumption | apply State.set_ok | split)

theorem State.setField_ok (s : State) (off lo len v : Nat) (hok : s.memOk) : (State.setField s off lo len v).memOk := by
  unfold State.setField
  repeat' (with_reducible first | assumption | apply State.set_ok | split)

theorem State.set64_ok (s : State) (off v : Nat) (hok : s.memOk) : (State.set64 s off v).memOk := by
  unfold State.set64
  repeat' (with_reducible first | assumption | apply State.set_ok | split)

theorem State.bump64_ok (s : State) (off k : Nat) (hok : s.memOk) : (State.bump64 s off k).memOk := by
  unfold State.bump64
  repeat' (with_reducible first | assumption | apply State.set64_ok | split)

theorem State.restore_ok (s : State) (p : Nat → Bool) (hok : s.memOk) : (State.restore s p).memOk := by
  exact ⟨State.restore_regsWf s p hok.1, hok.2⟩

theorem State.setTile_ok (s : State) (n : Nat) (tl : Tile) (hok : s.memOk) : (State.setTile s n tl).memOk := by
  unfold State.setTile
  try dsimp only
  repeat' (with_reducible first | assumption | split | (simp only [memOk_mk]; refine ⟨?_, ?_⟩) | apply ok_regs | apply ok_hbm | intro)

theorem State.draw_ok (s : State) (hok : s.memOk) : (State.draw s).2.memOk := by
  unfold State.draw
  try dsimp only
  repeat' (with_reducible first | assumption | split | (simp only [memOk_mk]; refine ⟨?_, ?_⟩) | apply ok_regs | apply ok_hbm | intro)

theorem State.emit_ok (s : State) (o : Out) (hok : s.memOk) : (State.emit s o).memOk := by
  unfold State.emit
  try dsimp only
  repeat' (with_reducible first | assumption | split | (simp only [memOk_mk]; refine ⟨?_, ?_⟩) | apply ok_regs | apply ok_hbm | intro)

theorem State.raiseVec_ok (s : State) (v : Nat) (hok : s.memOk) : (State.raiseVec s v).memOk := by
  unfold State.raiseVec
  try dsimp only
  repeat' (with_reducible first | assumption | apply State.emit_ok | split | (simp only [memOk_mk]; refine ⟨?_, ?_⟩) | apply ok_regs | apply ok_hbm | intro)

theorem State.fwLog_ok (s : State) (r : FRec) (k : Nat) (hok : s.memOk) : (State.fwLog s r k).memOk := by
  unfold State.fwLog
  try dsimp only
  repeat' (with_reducible first | assumption | apply State.emit_ok | split | (simp only [memOk_mk]; refine ⟨?_, ?_⟩) | apply ok_regs | apply ok_hbm | intro)

theorem State.flStore_ok (s : State) (r : FRec) (hok : s.memOk) : (State.flStore s r).memOk := by
  unfold State.flStore
  try dsimp only
  repeat' (with_reducible first | assumption | apply State.bump_ok | apply State.fwLog_ok | split | (simp only [memOk_mk]; refine ⟨?_, ?_⟩) | apply ok_regs | apply ok_hbm | intro)

theorem State.flNotify_ok (s : State) (r : FRec) (hok : s.memOk) : (State.flNotify s r).memOk := by
  unfold State.flNotify
  repeat' (with_reducible first | assumption | apply State.raiseVec_ok | split | (simp only [memOk_mk]; refine ⟨?_, ?_⟩) | apply ok_regs | apply ok_hbm | intro)

theorem State.flWrite_ok (s : State) (r : FRec) (hok : s.memOk) : (State.flWrite s r).memOk := by
  unfold State.flWrite
  repeat' (with_reducible first | assumption | apply State.orBits_ok | apply State.bump_ok | apply State.flNotify_ok | apply State.flStore_ok | split)

theorem State.flRaise_ok (s : State) (r : FRec) (sub : Nat) (hok : s.memOk) : (State.flRaise s r sub).memOk := by
  unfold State.flRaise
  try dsimp only
  repeat' (with_reducible first | assumption | apply State.bump_ok | apply State.flWrite_ok | split | (simp only [memOk_mk]; refine ⟨?_, ?_⟩) | apply ok_regs | apply ok_hbm | intro)

theorem State.recordSub_ok (s : State) (cls kind idx detail sub : Nat) (hok : s.memOk) : (State.recordSub s cls kind idx detail sub).memOk := by
  unfold State.recordSub
  repeat' (with_reducible first | assumption | apply State.flRaise_ok | split)

theorem State.record_ok (s : State) (cls kind idx detail : Nat) (hok : s.memOk) : (State.record s cls kind idx detail).memOk := by
  unfold State.record
  repeat' (with_reducible first | assumption | apply State.recordSub_ok | split)

theorem State.recordInj_ok (s : State) (cls kind idx detail : Nat) (inj : Bool) (hok : s.memOk) : (State.recordInj s cls kind idx detail inj).memOk := by
  unfold State.recordInj
  repeat' (with_reducible first | assumption | apply State.flRaise_ok | split)

theorem State.frameBit_ok (s : State) (i : Nat) (hok : s.memOk) : (State.frameBit s i).memOk := by
  unfold State.frameBit
  try dsimp only
  repeat' (with_reducible first | assumption | split | (simp only [memOk_mk]; refine ⟨?_, ?_⟩) | apply ok_regs | apply ok_hbm | intro)

theorem State.cause_ok (s : State) (c : Nat) (hok : s.memOk) : (State.cause s c).memOk := by
  unfold State.cause
  try dsimp only
  repeat' (with_reducible first | assumption | split | (simp only [memOk_mk]; refine ⟨?_, ?_⟩) | apply ok_regs | apply ok_hbm | intro)

theorem State.hbmWrite_ok (s : State) (hla : Nat) (v : Line) (hok : s.memOk) : (State.hbmWrite s hla v).memOk := by
  exact ⟨hok.1, State.hbmWrite_wf s hla v hok.2⟩

theorem State.hbmBytes_ok (s : State) (a : Nat) (n : Nat) (v : Nat) (hok : s.memOk) : (State.hbmBytes s a n v).memOk := by
  exact ⟨hok.1, State.hbmBytes_wf s a n v hok.2⟩

theorem State.hbLast_ok (s : State) (c kind l : Nat) (hok : s.memOk) : (State.hbLast s c kind l).memOk := by
  unfold State.hbLast
  repeat' (with_reducible first | assumption | apply State.set_ok | split)

theorem State.hbmHostRead_ok (s : State) (hla : Nat) (host : Bool) (hok : s.memOk) : (State.hbmHostRead s hla host).1.memOk := by
  unfold State.hbmHostRead
  repeat' (with_reducible first | assumption | apply State.bump_ok | apply State.hbLast_ok | apply State.orBits_ok | apply State.record_ok | split)

theorem State.ringWrite_ok (s : State) (r : Ring) (bytes : Nat) (hok : s.memOk) : (State.ringWrite s r bytes).memOk := by
  unfold State.ringWrite
  repeat' (with_reducible first | assumption | apply State.bump_ok | apply State.hbmBytes_ok | split)

theorem State.faultToRing_ok (s : State) (r : FRec) (hok : s.memOk) : (State.faultToRing s r).memOk := by
  unfold State.faultToRing
  repeat' (with_reducible first | assumption | apply State.orBits_ok | apply State.bump_ok | apply State.ringWrite_ok | split)

theorem State.drainFaults_ok (s : State) (hok : s.memOk) : (State.drainFaults s).memOk := by
  unfold State.drainFaults
  try dsimp only
  repeat' (with_reducible first | assumption | apply State.faultToRing_ok | apply foldl_ok | apply foldlPair_ok | split | (simp only [memOk_mk]; refine ⟨?_, ?_⟩) | apply ok_regs | apply ok_hbm | intro)

theorem State.setCounter_ok (s : State) (i : Nat) (c : Counter) (hok : s.memOk) : (State.setCounter s i c).memOk := by
  unfold State.setCounter
  repeat' (with_reducible first | assumption | apply State.set_ok | split)

theorem State.syncApply_ok (s : State) (x : SyncStep) (hok : s.memOk) : (State.syncApply s x).memOk := by
  unfold State.syncApply
  try dsimp only
  repeat' (with_reducible first | assumption | apply State.setCounter_ok | apply State.recordSub_ok | apply State.orBits_ok | apply State.bump_ok | apply State.raiseVec_ok | split | (simp only [memOk_mk]; refine ⟨?_, ?_⟩) | apply ok_regs | apply ok_hbm | intro)

theorem State.syncIn_ok (s : State) (x : SyncStep) (hok : s.memOk) : (State.syncIn s x).memOk := by
  unfold State.syncIn
  try dsimp only
  repeat' (with_reducible first | assumption | split | (simp only [memOk_mk]; refine ⟨?_, ?_⟩) | apply ok_regs | apply ok_hbm | intro)

theorem State.syncRun_ok (s : State) (hok : s.memOk) : (State.syncRun s).memOk := by
  unfold State.syncRun
  try dsimp only
  repeat' (with_reducible first | assumption | apply State.syncApply_ok | apply foldl_ok | apply foldlPair_ok | split | (simp only [memOk_mk]; refine ⟨?_, ?_⟩) | apply ok_regs | apply ok_hbm | intro)

theorem State.syncShift_ok (s : State) (k : Nat) (hok : s.memOk) : (State.syncShift s k).memOk := by
  unfold State.syncShift
  try dsimp only
  repeat' (with_reducible first | assumption | apply foldl_ok | apply foldlPair_ok | split | (simp only [memOk_mk]; refine ⟨?_, ?_⟩) | apply ok_regs | apply ok_hbm | intro)

theorem State.putTile_ok (s : State) (n : Nat) (tl : Tile) (hok : s.memOk) : (State.putTile s n tl).memOk := by
  unfold State.putTile
  try dsimp only
  repeat' (with_reducible first | assumption | apply State.setTile_ok | apply State.recordInj_ok | apply foldl_ok | apply foldlPair_ok | split | (simp only [memOk_mk]; refine ⟨?_, ?_⟩) | apply ok_regs | apply ok_hbm | intro)

theorem State.seen_ok (s : State) (t : Nat) (hok : s.memOk) : (State.seen s t).memOk := by
  unfold State.seen
  try dsimp only
  repeat' (with_reducible first | assumption | apply State.syncRun_ok | split | (simp only [memOk_mk]; refine ⟨?_, ?_⟩) | apply ok_regs | apply ok_hbm | intro)

theorem State.afterTile_ok (s : State) (n : Nat) (old new : Tile) (hok : s.memOk) : (State.afterTile s n old new).memOk := by
  unfold State.afterTile
  repeat' (with_reducible first | assumption | apply State.frameBit_ok | apply State.putTile_ok | split)

theorem State.tileAt_ok (s : State) (n t : Nat) (f : Tile → Tile) (hok : s.memOk) : (State.tileAt s n t f).memOk := by
  unfold State.tileAt
  repeat' (with_reducible first | assumption | apply State.afterTile_ok | apply State.seen_ok | split)

theorem State.tileEvent_ok (s : State) (n t : Nat) (f : Tile → Tile) (hok : s.memOk) : (State.tileEvent s n t f).memOk := by
  unfold State.tileEvent
  repeat' (with_reducible first | assumption | apply State.tileAt_ok | split)

theorem State.tileSync_ok (s : State) (n t : Nat) (hok : s.memOk) : (State.tileSync s n t).memOk := by
  unfold State.tileSync
  repeat' (with_reducible first | assumption | apply State.tileAt_ok | split)

theorem State.arrivalEvent_ok (s : State) (n t : Nat) (f : Tile → Tile) (hok : s.memOk) : (State.arrivalEvent s n t f).memOk := by
  unfold State.arrivalEvent
  repeat' (with_reducible first | assumption | apply State.tileAt_ok | split)

theorem State.setChnl_ok (s : State) (c : Nat) (v : Chnl) (hok : s.memOk) : (State.setChnl s c v).memOk := by
  unfold State.setChnl
  try dsimp only
  repeat' (with_reducible first | assumption | split | (simp only [memOk_mk]; refine ⟨?_, ?_⟩) | apply ok_regs | apply ok_hbm | intro)

theorem State.touch_ok (s : State) (a : Agent) (hok : s.memOk) : (State.touch s a).memOk := by
  unfold State.touch
  try dsimp only
  repeat' (with_reducible first | assumption | split | (simp only [memOk_mk]; refine ⟨?_, ?_⟩) | apply ok_regs | apply ok_hbm | intro)

theorem State.ignored_ok (s : State) (hok : s.memOk) : (State.ignored s).memOk := by
  unfold State.ignored
  repeat' (with_reducible first | assumption | apply State.orBits_ok | apply State.bump_ok | split)

theorem State.chanIdle_ok (s : State) (c : Nat) (hok : s.memOk) : (State.chanIdle s c).memOk := by
  unfold State.chanIdle
  repeat' (with_reducible first | assumption | apply State.setChnl_ok | apply State.clrBits_ok | split)

theorem State.putReply_ok (s : State) (c : Nat) (ws : List Nat) (hok : s.memOk) : (State.putReply s c ws).memOk := by
  unfold State.putReply
  try dsimp only
  repeat' (with_reducible first | assumption | apply State.set_ok | apply foldl_ok | apply foldlPair_ok | split | (simp only [memOk_mk]; refine ⟨?_, ?_⟩) | apply ok_regs | apply ok_hbm | intro)

theorem State.postChan_ok (s : State) (c status : Nat) (ws : List Nat) (hok : s.memOk) : (State.postChan s c status ws).memOk := by
  unfold State.postChan
  dsimp only
  repeat' (with_reducible first | assumption | apply State.setChnl_ok | apply State.putReply_ok | apply State.orBits_ok | apply State.chanIdle_ok | apply State.setField_ok | apply State.clrBits_ok | apply State.emit_ok | apply State.raiseVec_ok | split | exact ⟨ok_regs ‹_›, ok_hbm ‹_›⟩ | intro)

theorem State.reply_ok (s : State) (r : Req) (status : Nat) (ws : List Nat) (hok : s.memOk) : (State.reply s r status ws).memOk := by
  unfold State.reply
  repeat' (with_reducible first | assumption | apply State.postChan_ok | split)

theorem State.answer_ok (s : State) (r : Req) (op : Nat) (f : List W32 → State) (hf : ∀ y0, (f y0).memOk) (hok : s.memOk) : (State.answer s r op f).memOk := by
  unfold State.answer
  repeat' (with_reducible first | assumption | apply State.reply_ok | apply hf | split)

theorem State.xlateFault_ok (s : State) (ctx vid : Nat) (hok : s.memOk) : (State.xlateFault s ctx vid).memOk := by
  unfold State.xlateFault
  repeat' (with_reducible first | assumption | apply State.record_ok | apply State.orBits_ok | apply State.bump_ok | split)

theorem State.syncNow_ok (s : State) (i : Nat) (isArm : Bool) (inc : Nat) (hok : s.memOk) : (State.syncNow s i isArm inc).memOk := by
  unfold State.syncNow
  repeat' (with_reducible first | assumption | apply State.syncApply_ok | split)

theorem State.syncAdd_ok (s : State) (i eff : Nat) (isArm : Bool) (inc : Nat) (hok : s.memOk) : (State.syncAdd s i eff isArm inc).memOk := by
  unfold State.syncAdd
  repeat' (with_reducible first | assumption | apply State.syncIn_ok | split)

theorem State.syncPart_ok (s : State) (i eff p : Nat) (fail : Bool) (hok : s.memOk) : (State.syncPart s i eff p fail).memOk := by
  unfold State.syncPart
  repeat' (with_reducible first | assumption | apply State.syncIn_ok | split)

theorem State.syncErr_ok (s : State) (i eff : Nat) (hok : s.memOk) : (State.syncErr s i eff).memOk := by
  unfold State.syncErr
  repeat' (with_reducible first | assumption | apply State.syncIn_ok | split)

theorem State.hangCheck_ok (s : State) (hok : s.memOk) : (State.hangCheck s).memOk := by
  unfold State.hangCheck
  repeat' (with_reducible first | assumption | apply State.clrBits_ok | split)

theorem State.hang_ok (s : State) (n t cause ctx vid : Nat) (ctr : Option Nat) (count : Nat) (hok : s.memOk) : (State.hang s n t cause ctx vid ctr count).memOk := by
  unfold State.hang
  try dsimp only
  repeat' (with_reducible first | assumption | apply State.afterTile_ok | apply State.orBits_ok | apply State.bump_ok | apply State.cause_ok | apply State.setField_ok | apply State.record_ok | split | (simp only [memOk_mk]; refine ⟨?_, ?_⟩) | apply ok_regs | apply ok_hbm | intro)

theorem State.syncIssue_ok (s : State) (n t : Nat) (c : Cmd) (hok : s.memOk) : (State.syncIssue s n t c).memOk := by
  unfold State.syncIssue
  repeat' (with_reducible first | assumption | apply State.tileEvent_ok | split)

theorem State.syncLocal_ok (s : State) (n t sop : Nat) (f : Cmd → Nat → State → State) (hf : ∀ y0 y1 y2, y2.memOk → (f y0 y1 y2).memOk) (hok : s.memOk) : (State.syncLocal s n t sop f).memOk := by
  unfold State.syncLocal
  dsimp only
  repeat' (with_reducible first | assumption | apply State.syncIssue_ok | apply State.xlateFault_ok | apply hf | split | exact ⟨ok_regs ‹_›, ok_hbm ‹_›⟩ | intro)

theorem effMvSyncSignal_ok (n t : Nat) (s : State) (hok : s.memOk) : (effMvSyncSignal n t s).memOk := by
  unfold effMvSyncSignal
  try dsimp only
  repeat' (with_reducible first | assumption | apply State.syncLocal_ok | apply State.syncAdd_ok | split | (simp only [memOk_mk]; refine ⟨?_, ?_⟩) | apply ok_regs | apply ok_hbm | intro)

theorem effMvSyncArm_ok (n t : Nat) (s : State) (hok : s.memOk) : (effMvSyncArm n t s).memOk := by
  unfold effMvSyncArm
  try dsimp only
  repeat' (with_reducible first | assumption | apply State.syncLocal_ok | apply State.syncAdd_ok | split | (simp only [memOk_mk]; refine ⟨?_, ?_⟩) | apply ok_regs | apply ok_hbm | intro)

theorem effMvSyncPart_ok (n t : Nat) (s : State) (hok : s.memOk) : (effMvSyncPart n t s).memOk := by
  unfold effMvSyncPart
  try dsimp only
  repeat' (with_reducible first | assumption | apply State.syncLocal_ok | apply State.syncPart_ok | split | (simp only [memOk_mk]; refine ⟨?_, ?_⟩) | apply ok_regs | apply ok_hbm | intro)

theorem effMvSyncWait_ok (n t : Nat) (s : State) (hok : s.memOk) : (effMvSyncWait n t s).memOk := by
  unfold effMvSyncWait
  dsimp only
  repeat' (with_reducible first | assumption | apply State.tileEvent_ok | apply State.hang_ok | apply State.xlateFault_ok | apply State.syncIssue_ok | split | exact ⟨ok_regs ‹_›, ok_hbm ‹_›⟩ | intro)

theorem State.vigilOver_ok (s : State) (n t : Nat) (hok : s.memOk) : (State.vigilOver s n t).memOk := by
  unfold State.vigilOver
  repeat' (with_reducible first | assumption | apply State.hang_ok | apply State.tileSync_ok | split)

theorem effVigilExpiry_ok (n : Nat) (s : State) (hok : s.memOk) : (effVigilExpiry n s).memOk := by
  unfold effVigilExpiry
  repeat' (with_reducible first | assumption | apply State.vigilOver_ok | split)

theorem effSyDoorbell_ok (a : Agent) (f : Nat) (val : W32) (s : State) (hok : s.memOk) : (effSyDoorbell a f val s).memOk := by
  unfold effSyDoorbell
  dsimp only
  repeat' (with_reducible first | assumption | apply State.touch_ok | apply State.ignored_ok | apply State.bump_ok | apply State.xlateFault_ok | apply State.syncNow_ok | split | exact ⟨ok_regs ‹_›, ok_hbm ‹_›⟩ | intro)

theorem State.manualLog_ok (s : State) (r : Req) (op i : Nat) (hok : s.memOk) : (State.manualLog s r op i).memOk := by
  unfold State.manualLog
  repeat' (with_reducible first | assumption | apply State.set_ok | apply State.record_ok | split)

theorem State.manual_ok (s : State) (r : Req) (op : Nat) (hok : s.memOk) : (State.manual s r op).memOk := by
  unfold State.manual
  try dsimp only
  repeat' (with_reducible first | assumption | apply State.answer_ok | apply State.reply_ok | apply State.bump_ok | apply State.syncApply_ok | apply State.manualLog_ok | apply State.hangCheck_ok | split | (simp only [memOk_mk]; refine ⟨?_, ?_⟩) | apply ok_regs | apply ok_hbm | intro)

theorem effSySet_ok (r : Req) (s : State) (hok : s.memOk) : (effSySet r s).memOk := by
  unfold effSySet
  repeat' (with_reducible first | assumption | apply State.manual_ok | split)

theorem effSyClear_ok (r : Req) (s : State) (hok : s.memOk) : (effSyClear r s).memOk := by
  unfold effSyClear
  repeat' (with_reducible first | assumption | apply State.manual_ok | split)

theorem State.hbmClear_ok (s : State) (lo : Nat) (n : Nat) (hok : s.memOk) : (State.hbmClear s lo n).memOk := by
  refine ⟨hok.1, ?_⟩
  have h := hok.2
  simp only [State.hbmClear, HbmMem.wf, Bool.and_eq_true] at h ⊢
  exact ⟨smapWf_drop _ _ _ h.1, smapWf_drop _ _ _ h.2⟩

theorem State.hbmFields_ok (s : State) (a : Nat) (fs : List (Nat × Nat × Nat)) (hok : s.memOk) : (State.hbmFields s a fs).memOk := by
  unfold State.hbmFields
  try dsimp only
  repeat' (with_reducible first | assumption | apply State.hbmBytes_ok | apply foldl_ok | apply foldlPair_ok | split | (simp only [memOk_mk]; refine ⟨?_, ?_⟩) | apply ok_regs | apply ok_hbm | intro)

theorem State.dumpTile_ok (s : State) (a n : Nat) (hok : s.memOk) : (State.dumpTile s a n).memOk := by
  unfold State.dumpTile
  dsimp only
  repeat' (with_reducible first | assumption | apply State.hbmFields_ok | apply foldl_ok | apply foldlPair_ok | split | exact ⟨ok_regs ‹_›, ok_hbm ‹_›⟩ | intro)

theorem State.dumpSram_ok (s : State) (hla n : Nat) (hok : s.memOk) : (State.dumpSram s hla n).memOk := by
  unfold State.dumpSram
  dsimp only
  repeat' (with_reducible first | assumption | apply State.hbmBytes_ok | apply State.hbmWrite_ok | apply foldl_ok | apply foldlPair_ok | split | exact ⟨ok_regs ‹_›, ok_hbm ‹_›⟩ | intro)

theorem State.dump_ok (s : State) (hok : s.memOk) : (State.dump s).memOk := by
  unfold State.dump
  dsimp only
  repeat' (with_reducible first | assumption | apply State.hbmClear_ok | apply State.hbmFields_ok | apply State.hbmBytes_ok | apply State.dumpTile_ok | apply State.dumpSram_ok | apply foldl_ok | apply foldlPair_ok | split | exact ⟨ok_regs ‹_›, ok_hbm ‹_›⟩ | intro)

theorem effHangDump_ok (s : State) (hok : s.memOk) : (effHangDump s).memOk := by
  unfold effHangDump
  try dsimp only
  repeat' (with_reducible first | assumption | apply State.setField_ok | apply State.dump_ok | apply State.orBits_ok | apply State.hangCheck_ok | split | (simp only [memOk_mk]; refine ⟨?_, ?_⟩) | apply ok_regs | apply ok_hbm | intro)

theorem State.setPort_ok (s : State) (p : Nat) (q : Port) (hok : s.memOk) : (State.setPort s p q).memOk := by
  unfold State.setPort
  try dsimp only
  repeat' (with_reducible first | assumption | split | (simp only [memOk_mk]; refine ⟨?_, ?_⟩) | apply ok_regs | apply ok_hbm | intro)

theorem State.updPort_ok (s : State) (p : Nat) (f : Port → Port) (hok : s.memOk) : (State.updPort s p f).memOk := by
  unfold State.updPort
  repeat' (with_reducible first | assumption | apply State.setPort_ok | split)

theorem State.updChan_ok (s : State) (p vc : Nat) (f : Chan → Chan) (hok : s.memOk) : (State.updChan s p vc f).memOk := by
  unfold State.updChan
  repeat' (with_reducible first | assumption | apply State.updPort_ok | split)

theorem State.updEntry_ok (s : State) (p vc k : Nat) (f : EntryRun → EntryRun) (hok : s.memOk) : (State.updEntry s p vc k f).memOk := by
  unfold State.updEntry
  repeat' (with_reducible first | assumption | apply State.updPort_ok | split)

theorem State.toEgress_ok (s : State) (p : Nat) (x : TxPkt) (hok : s.memOk) : (State.toEgress s p x).memOk := by
  unfold State.toEgress
  repeat' (with_reducible first | assumption | apply State.updChan_ok | split)

theorem State.sendOut_ok (s : State) (p header : Nat) (lines : List LineBits) (marks : List Nat) (leap : Bool) (hok : s.memOk) : (State.sendOut s p header lines marks leap).memOk := by
  unfold State.sendOut
  try dsimp only
  repeat' (with_reducible first | assumption | apply State.toEgress_ok | split | (simp only [memOk_mk]; refine ⟨?_, ?_⟩) | apply ok_regs | apply ok_hbm | intro)

theorem State.lcQueue_ok (s : State) (p : Nat) (m : LcMsg) (hok : s.memOk) : (State.lcQueue s p m).memOk := by
  unfold State.lcQueue
  repeat' (with_reducible first | assumption | apply State.updPort_ok | split)

theorem State.abandonOut_ok (s : State) (p vc id : Nat) (trailer : Option Nat) (hok : s.memOk) : (State.abandonOut s p vc id trailer).memOk := by
  unfold State.abandonOut
  repeat' (with_reducible first | assumption | apply State.lcQueue_ok | apply State.bump_ok | apply State.updChan_ok | split)

theorem State.forwardStart_ok (s : State) (p vc k h : Nat) (ls : List LineBits) (marks : List Nat) (hok : s.memOk) : (State.forwardStart s p vc k h ls marks).memOk := by
  unfold State.forwardStart
  try dsimp only
  repeat' (with_reducible first | assumption | apply State.updEntry_ok | apply State.bump_ok | apply State.toEgress_ok | split | (simp only [memOk_mk]; refine ⟨?_, ?_⟩) | apply ok_regs | apply ok_hbm | intro)

theorem State.forwardAbandon_ok (s : State) (p vc k : Nat) (hok : s.memOk) : (State.forwardAbandon s p vc k).memOk := by
  unfold State.forwardAbandon
  dsimp only
  repeat' (with_reducible first | assumption | apply State.forwardStart_ok | apply State.abandonOut_ok | split | exact ⟨ok_regs ‹_›, ok_hbm ‹_›⟩ | intro)

theorem State.forwardBreak_ok (s : State) (p vc k : Nat) (hok : s.memOk) : (State.forwardBreak s p vc k).memOk := by
  unfold State.forwardBreak
  dsimp only
  repeat' (with_reducible first | assumption | apply State.updEntry_ok | apply State.forwardAbandon_ok | split | exact ⟨ok_regs ‹_›, ok_hbm ‹_›⟩ | intro)

theorem State.forwardLine_ok (s : State) (p vc k j : Nat) (v : LineBits) (poison : Bool) (hok : s.memOk) : (State.forwardLine s p vc k j v poison).memOk := by
  unfold State.forwardLine
  dsimp only
  repeat' (with_reducible first | assumption | apply State.forwardStart_ok | apply State.updChan_ok | split | exact ⟨ok_regs ‹_›, ok_hbm ‹_›⟩ | intro)

theorem State.forwardClose_ok (s : State) (p vc k trailer : Nat) (hok : s.memOk) : (State.forwardClose s p vc k trailer).memOk := by
  unfold State.forwardClose
  repeat' (with_reducible first | assumption | apply State.updChan_ok | split)

theorem State.lkCount_ok (s : State) (p counter bit : Nat) (hok : s.memOk) : (State.lkCount s p counter bit).memOk := by
  unfold State.lkCount
  repeat' (with_reducible first | assumption | apply State.orBits_ok | apply State.bump_ok | split)

theorem State.setTrain_ok (s : State) (p st : Nat) (hok : s.memOk) : (State.setTrain s p st).memOk := by
  unfold State.setTrain
  repeat' (with_reducible first | assumption | apply State.updPort_ok | apply State.setField_ok | split)

theorem State.toSignal_ok (s : State) (p : Nat) (hok : s.memOk) : (State.toSignal s p).memOk := by
  unfold State.toSignal
  repeat' (with_reducible first | assumption | apply State.updPort_ok | apply State.setTrain_ok | apply State.set_ok | split)

theorem State.entryFails_ok (s : State) (p vc k : Nat) (leap : Bool) (hok : s.memOk) : (State.entryFails s p vc k leap).memOk := by
  unfold State.entryFails
  repeat' (with_reducible first | assumption | apply State.updEntry_ok | apply State.forwardBreak_ok | split)

theorem State.curFails_ok (s : State) (p : Nat) (hok : s.memOk) : (State.curFails s p).memOk := by
  unfold State.curFails
  repeat' (with_reducible first | assumption | apply State.updPort_ok | apply State.entryFails_ok | split)

theorem State.leaveUp_ok (s : State) (p : Nat) (hok : s.memOk) : (State.leaveUp s p).memOk := by
  unfold State.leaveUp
  repeat' (with_reducible first | assumption | apply State.orBits_ok | apply State.curFails_ok | apply State.toSignal_ok | apply State.updPort_ok | apply State.record_ok | split)

theorem State.loseFeed_ok (s : State) (p : Nat) (second inj : Bool) (hok : s.memOk) : (State.loseFeed s p second inj).memOk := by
  unfold State.loseFeed
  dsimp only
  repeat' (with_reducible first | assumption | apply State.updPort_ok | apply State.orBits_ok | apply State.recordInj_ok | apply State.leaveUp_ok | split | exact ⟨ok_regs ‹_›, ok_hbm ‹_›⟩ | intro)

theorem State.setFeed_ok (s : State) (p : Nat) (second on : Bool) (hok : s.memOk) : (State.setFeed s p second on).memOk := by
  unfold State.setFeed
  repeat' (with_reducible first | assumption | apply State.updPort_ok | split)

theorem State.eachTile_ok (s : State) (f : Nat → State → State) (hf : ∀ y0 y1, y1.memOk → (f y0 y1).memOk) (hok : s.memOk) : (State.eachTile s f).memOk := by
  unfold State.eachTile
  try dsimp only
  repeat' (with_reducible first | assumption | apply hf | apply foldl_ok | apply foldlPair_ok | split | (simp only [memOk_mk]; refine ⟨?_, ?_⟩) | apply ok_regs | apply ok_hbm | intro)

theorem State.masqueDone_ok (s : State) (m : Masque) (hok : s.memOk) : (State.masqueDone s m).memOk := by
  unfold State.masqueDone
  repeat' (with_reducible first | assumption | apply State.orBits_ok | apply State.flRaise_ok | split)

theorem State.masqueFire_ok (s : State) (m : Masque) (hok : s.memOk) : (State.masqueFire s m).memOk := by
  unfold State.masqueFire
  try dsimp only
  repeat' (with_reducible first | assumption | apply State.bump_ok | apply State.masqueDone_ok | split | (simp only [memOk_mk]; refine ⟨?_, ?_⟩) | apply ok_regs | apply ok_hbm | intro)

theorem State.masqueSkip_ok (s : State) (m : Masque) (k : Nat) (hok : s.memOk) : (State.masqueSkip s m k).memOk := by
  unfold State.masqueSkip
  try dsimp only
  repeat' (with_reducible first | assumption | apply State.bump_ok | split | (simp only [memOk_mk]; refine ⟨?_, ?_⟩) | apply ok_regs | apply ok_hbm | intro)

theorem State.flipSram_ok (s : State) (n line w : Nat) (bits : List Nat) (hok : s.memOk) : (State.flipSram s n line w bits).memOk := by
  unfold State.flipSram
  try dsimp only
  repeat' (with_reducible first | assumption | apply State.setTile_ok | split | (simp only [memOk_mk]; refine ⟨?_, ?_⟩) | apply ok_regs | apply ok_hbm | intro)

theorem State.feedsLost_ok (s : State) (c : Nat) (inj : Bool) (hok : s.memOk) : (State.feedsLost s c inj).memOk := by
  unfold State.feedsLost
  try dsimp only
  repeat' (with_reducible first | assumption | apply State.recordInj_ok | apply State.loseFeed_ok | apply foldl_ok | apply foldlPair_ok | split | (simp only [memOk_mk]; refine ⟨?_, ?_⟩) | apply ok_regs | apply ok_hbm | intro)

theorem State.setCart_ok (s : State) (c : Nat) (v : Cart) (hok : s.memOk) : (State.setCart s c v).memOk := by
  unfold State.setCart
  try dsimp only
  repeat' (with_reducible first | assumption | split | (simp only [memOk_mk]; refine ⟨?_, ?_⟩) | apply ok_regs | apply ok_hbm | intro)

theorem State.feeds_ok (s : State) (c : Nat) (on : Bool) (hok : s.memOk) : (State.feeds s c on).memOk := by
  unfold State.feeds
  dsimp only
  repeat' (with_reducible first | assumption | apply State.setFeed_ok | apply State.setCart_ok | apply foldl_ok | apply foldlPair_ok | split | exact ⟨ok_regs ‹_›, ok_hbm ‹_›⟩ | intro)

theorem State.masqueAtTick_ok (s : State) (m : Masque) (hok : s.memOk) : (State.masqueAtTick s m).memOk := by
  unfold State.masqueAtTick
  try dsimp only
  repeat' (with_reducible first | assumption | apply State.masqueFire_ok | apply State.masqueSkip_ok | apply State.feedsLost_ok | apply State.setCart_ok | apply State.flipSram_ok | apply State.setTile_ok | split | (simp only [memOk_mk]; refine ⟨?_, ?_⟩) | apply ok_regs | apply ok_hbm | intro)

theorem State.masqueTick_ok (s : State) (hok : s.memOk) : (State.masqueTick s).memOk := by
  unfold State.masqueTick
  try dsimp only
  repeat' (with_reducible first | assumption | apply State.masqueSkip_ok | apply State.masqueAtTick_ok | apply foldl_ok | apply foldlPair_ok | split | (simp only [memOk_mk]; refine ⟨?_, ?_⟩) | apply ok_regs | apply ok_hbm | intro)

theorem State.masqueEnd_ok (s : State) (hok : s.memOk) : (State.masqueEnd s).memOk := by
  unfold State.masqueEnd
  dsimp only
  repeat' (with_reducible first | assumption | apply State.masqueSkip_ok | apply State.masqueDone_ok | apply foldl_ok | apply foldlPair_ok | split | exact ⟨ok_regs ‹_›, ok_hbm ‹_›⟩ | intro)

theorem State.feedMasques_ok (s : State) (hok : s.memOk) : (State.feedMasques s).memOk := by
  unfold State.feedMasques
  dsimp only
  repeat' (with_reducible first | assumption | apply State.feeds_ok | apply State.setCart_ok | apply foldl_ok | apply foldlPair_ok | split | exact ⟨ok_regs ‹_›, ok_hbm ‹_›⟩ | intro)

theorem State.exchDrop_ok (s : State) (p k : Nat) (hok : s.memOk) : (State.exchDrop s p k).memOk := by
  unfold State.exchDrop
  repeat' (with_reducible first | assumption | apply State.orBits_ok | apply State.bump_ok | apply State.record_ok | split)

theorem State.enter_ok (s : State) (st : Nat) (hok : s.memOk) : (State.enter s st).memOk := by
  unfold State.enter
  repeat' (with_reducible first | assumption | apply State.raiseVec_ok | apply State.setField_ok | split)

theorem State.dropActions_ok (s : State) (hok : s.memOk) : (State.dropActions s).memOk := by
  unfold State.dropActions
  try dsimp only
  repeat' (with_reducible first | assumption | apply State.bump_ok | split | (simp only [memOk_mk]; refine ⟨?_, ?_⟩) | apply ok_regs | apply ok_hbm | intro)

theorem State.dropIcal_ok (s : State) (hok : s.memOk) : (State.dropIcal s).memOk := by
  unfold State.dropIcal
  try dsimp only
  repeat' (with_reducible first | assumption | apply State.setField_ok | split | (simp only [memOk_mk]; refine ⟨?_, ?_⟩) | apply ok_regs | apply ok_hbm | intro)

theorem State.dropStep_ok (s : State) (hok : s.memOk) : (State.dropStep s).memOk := by
  unfold State.dropStep
  try dsimp only
  repeat' (with_reducible first | assumption | apply State.setField_ok | split | (simp only [memOk_mk]; refine ⟨?_, ?_⟩) | apply ok_regs | apply ok_hbm | intro)

theorem State.dropMasques_ok (s : State) (hok : s.memOk) : (State.dropMasques s).memOk := by
  unfold State.dropMasques
  try dsimp only
  repeat' (with_reducible first | assumption | apply State.bump_ok | split | (simp only [memOk_mk]; refine ⟨?_, ?_⟩) | apply ok_regs | apply ok_hbm | intro)

theorem State.dropArms_ok (s : State) (hok : s.memOk) : (State.dropArms s).memOk := by
  unfold State.dropArms
  try dsimp only
  repeat' (with_reducible first | assumption | apply State.orBits_ok | apply State.bump_ok | split | (simp only [memOk_mk]; refine ⟨?_, ?_⟩) | apply ok_regs | apply ok_hbm | intro)

theorem State.discard_ok (s : State) (hok : s.memOk) : (State.discard s).memOk := by
  unfold State.discard
  try dsimp only
  repeat' (with_reducible first | assumption | apply State.dropArms_ok | apply State.dropMasques_ok | apply State.dropStep_ok | apply State.dropIcal_ok | apply State.dropActions_ok | apply State.exchDrop_ok | apply foldl_ok | apply foldlPair_ok | split | (simp only [memOk_mk]; refine ⟨?_, ?_⟩) | apply ok_regs | apply ok_hbm | intro)

theorem State.stopPlan_ok (s : State) (cs : List Nat) (hok : s.memOk) : (State.stopPlan s cs).memOk := by
  unfold State.stopPlan
  try dsimp only
  repeat' (with_reducible first | assumption | apply State.discard_ok | apply State.eachTile_ok | apply State.setTile_ok | apply State.setField_ok | apply State.enter_ok | split | (simp only [memOk_mk]; refine ⟨?_, ?_⟩) | apply ok_regs | apply ok_hbm | intro)

theorem State.traceToRing_ok (s : State) (r : TraceRec) (hok : s.memOk) : (State.traceToRing s r).memOk := by
  unfold State.traceToRing
  repeat' (with_reducible first | assumption | apply State.ringWrite_ok | apply State.orBits_ok | apply State.bump_ok | split)

theorem State.writeTrace_ok (s : State) (hok : s.memOk) : (State.writeTrace s).memOk := by
  unfold State.writeTrace
  try dsimp only
  repeat' (with_reducible first | assumption | apply State.traceToRing_ok | apply State.orBits_ok | apply State.bump_ok | apply foldl_ok | apply foldlPair_ok | split | (simp only [memOk_mk]; refine ⟨?_, ?_⟩) | apply ok_regs | apply ok_hbm | intro)

theorem State.hashToRing_ok (s : State) (r : HashRec) (hok : s.memOk) : (State.hashToRing s r).memOk := by
  unfold State.hashToRing
  repeat' (with_reducible first | assumption | apply State.ringWrite_ok | apply State.bump_ok | split)

theorem State.writeHashes_ok (s : State) (hok : s.memOk) : (State.writeHashes s).memOk := by
  unfold State.writeHashes
  try dsimp only
  repeat' (with_reducible first | assumption | apply State.hashToRing_ok | apply foldl_ok | apply foldlPair_ok | split | (simp only [memOk_mk]; refine ⟨?_, ?_⟩) | apply ok_regs | apply ok_hbm | intro)

theorem State.sealManifest_ok (s : State) (k : Nat) (hok : s.memOk) : (State.sealManifest s k).memOk := by
  unfold State.sealManifest
  try dsimp only
  repeat' (with_reducible first | assumption | apply State.set64_ok | apply State.hbmWrite_ok | apply State.bump_ok | split | (simp only [memOk_mk]; refine ⟨?_, ?_⟩) | apply ok_regs | apply ok_hbm | intro)

theorem State.hazardRecord_ok (n : Nat) (s : State) (hok : s.memOk) : (State.hazardRecord n s).memOk := by
  unfold State.hazardRecord
  dsimp only
  repeat' (with_reducible first | assumption | apply State.record_ok | split | exact ⟨ok_regs ‹_›, ok_hbm ‹_›⟩ | intro)

theorem State.takeTrace_ok (n : Nat) (s : State) (hok : s.memOk) : (State.takeTrace n s).memOk := by
  unfold State.takeTrace
  try dsimp only
  repeat' (with_reducible first | assumption | apply State.setTile_ok | split | (simp only [memOk_mk]; refine ⟨?_, ?_⟩) | apply ok_regs | apply ok_hbm | intro)

theorem State.marginWorst_ok (s : State) (hok : s.memOk) : (State.marginWorst s).memOk := by
  unfold State.marginWorst
  try dsimp only
  repeat' (with_reducible first | assumption | apply State.setField_ok | apply foldl_ok | apply foldlPair_ok | split | (simp only [memOk_mk]; refine ⟨?_, ?_⟩) | apply ok_regs | apply ok_hbm | intro)

theorem State.endFrame_ok (s : State) (hok : s.memOk) : (State.endFrame s).memOk := by
  unfold State.endFrame
  extract_lets s1 s2 s3 s4 s5 s6 fl s7 s8 s9 s10 ob
  have k1 : s1.memOk := State.masqueEnd_ok _ hok
  have k2 : s2.memOk := State.eachTile_ok _ _ (fun _ _ h => State.hazardRecord_ok _ _ h) k1
  have k3 : s3.memOk := State.set_ok _ _ _ k2
  have k4 : s4.memOk := by unfold s4; split; exact k3; exact State.bump_ok _ _ _ k3
  have k5 : s5.memOk := by unfold s5; split; exact State.bump_ok _ _ _ k4; exact k4
  have k6 : s6.memOk := by unfold s6; split; exact State.raiseVec_ok _ _ k5; exact k5
  have k7 : s7.memOk := memOk_same k6 rfl rfl
  have k8 : s8.memOk := State.writeHashes_ok _ (State.marginWorst_ok _ k7)
  have k9 : s9.memOk := State.writeTrace_ok _ k8
  have k10 : s10.memOk := foldl_ok _ _ _ (fun _ _ h => State.takeTrace_ok _ _ h) k9
  clear_value s10
  exact memOk_same k10 rfl rfl

theorem State.poke_ok (s : State) (off : Nat) (v : W32) (hok : s.memOk) : (State.poke s off v).memOk := by
  unfold State.poke
  repeat' (with_reducible first | assumption | apply State.setTile_ok | apply State.set_ok | split)

theorem State.applyAction_ok (s : State) (a : Action) (hok : s.memOk) : (State.applyAction s a).memOk := by
  unfold State.applyAction
  dsimp only
  repeat' (with_reducible first | assumption | apply State.bump_ok | apply State.poke_ok | apply State.syncApply_ok | split | exact ⟨ok_regs ‹_›, ok_hbm ‹_›⟩ | intro)

theorem State.portsTick_ok (s : State) (hok : s.memOk) : (State.portsTick s).memOk := by
  unfold State.portsTick
  try dsimp only
  repeat' (with_reducible first | assumption | apply foldl_ok | apply foldlPair_ok | split | (simp only [memOk_mk]; refine ⟨?_, ?_⟩) | apply ok_regs | apply ok_hbm | intro)

theorem State.hbmTick_ok (s : State) (ical : Bool) (sh c : Nat) (hok : s.memOk) : (State.hbmTick s ical sh c).memOk := by
  unfold State.hbmTick
  try dsimp only
  repeat' (with_reducible first | assumption | split | (simp only [memOk_mk]; refine ⟨?_, ?_⟩) | apply ok_regs | apply ok_hbm | intro)

theorem State.stepNow_ok (s : State) (k : Nat) (hok : s.memOk) : (State.stepNow s k).memOk := by
  unfold State.stepNow
  try dsimp only
  repeat' (with_reducible first | assumption | apply State.bump_ok | apply State.setField_ok | split | (simp only [memOk_mk]; refine ⟨?_, ?_⟩) | apply ok_regs | apply ok_hbm | intro)

theorem State.stepAsk_ok (s : State) (k f : Nat) (hok : s.memOk) : (State.stepAsk s k f).memOk := by
  unfold State.stepAsk
  try dsimp only
  repeat' (with_reducible first | assumption | apply State.raiseVec_ok | apply State.set_ok | split | (simp only [memOk_mk]; refine ⟨?_, ?_⟩) | apply ok_regs | apply ok_hbm | intro)

theorem State.firmwareAsk_ok (s : State) (dst f : Nat) (hok : s.memOk) : (State.firmwareAsk s dst f).memOk := by
  unfold State.firmwareAsk
  try dsimp only
  repeat' (with_reducible first | assumption | apply State.stepAsk_ok | split | (simp only [memOk_mk]; refine ⟨?_, ?_⟩) | apply ok_regs | apply ok_hbm | intro)

theorem State.beginFrame_ok (s : State) (k j : Nat) (c : NextFrame) (hok : s.memOk) : (State.beginFrame s k j c).memOk := by
  unfold State.beginFrame
  extract_lets was x0 s1 s2 s3 s4 alen x1 x2 x3 s5 s6 s7 s8 s9 x4 x5 s10 s11 s12
  have k1 : s1.memOk := by
    unfold s1
    split
    · exact State.syncShift_ok _ _ hok
    · exact memOk_same hok rfl rfl
  have k2 : s2.memOk := State.set64_ok _ _ _ (State.set64_ok _ _ _ k1)
  have k3 : s3.memOk := foldl_ok _ _ _ (fun _ _ h => State.poke_ok _ _ _ h) k2
  have k4 : s4.memOk := by
    unfold s4
    split
    · exact State.stepNow_ok _ _ k3
    · exact k3
  have k5 : s5.memOk := memOk_same k4 rfl rfl
  have k6 : s6.memOk := State.eachTile_ok _ _ (fun _ _ h => State.putTile_ok _ _ _ h) k5
  have k7 : s7.memOk := State.portsTick_ok _ k6
  have k8 : s8.memOk := foldl_ok _ _ _ (fun _ _ h => State.hbmTick_ok _ _ _ _ h) k7
  have k9 : s9.memOk := foldl_ok _ _ _ (fun _ _ h => State.applyAction_ok _ _ h) k8
  clear_value s9
  have k10 : s10.memOk := by
    unfold s10
    split
    · split
      · exact k9
      · dsimp only
        split
        · exact memOk_same (State.setField_ok _ _ _ _ _ (State.setField_ok _ _ _ _ _ k9)) rfl rfl
        · exact State.setField_ok _ _ _ _ _ k9
    · exact k9
  clear_value s10
  have k11 : s11.memOk := by
    unfold s11
    split
    · exact State.firmwareAsk_ok _ _ _ k10
    · exact k10
  exact State.masqueTick_ok _ (State.feedMasques_ok _ k11)

theorem State.stopActions_ok (s : State) (k : Nat) (hok : s.memOk) : (State.stopActions s k).memOk := by
  unfold State.stopActions
  try dsimp only
  repeat' (with_reducible first | assumption | apply State.bump_ok | split | (simp only [memOk_mk]; refine ⟨?_, ?_⟩) | apply ok_regs | apply ok_hbm | intro)

theorem effFrameTick_ok (s : State) (hok : s.memOk) : (effFrameTick s).memOk := by
  unfold effFrameTick
  dsimp only
  repeat' (with_reducible first | assumption | apply State.stopPlan_ok | apply State.set64_ok | apply State.endFrame_ok | apply State.beginFrame_ok | apply State.stopActions_ok | split | exact ⟨ok_regs ‹_›, ok_hbm ‹_›⟩ | intro)

theorem State.commitFault_ok (s : State) (missing : List Nat) (hok : s.memOk) : (State.commitFault s missing).memOk := by
  unfold State.commitFault
  repeat' (with_reducible first | assumption | apply State.cause_ok | apply State.frameBit_ok | apply State.record_ok | apply foldl_ok | apply foldlPair_ok | split)

theorem State.barrierEnd_ok (s : State) (v : Nat) (hok : s.memOk) : (State.barrierEnd s v).memOk := by
  unfold State.barrierEnd
  repeat' (with_reducible first | assumption | apply State.setTile_ok | apply foldl_ok | apply foldlPair_ok | split)

theorem State.splitCheck_ok (s : State) (hok : s.memOk) : (State.splitCheck s).memOk := by
  unfold State.splitCheck
  dsimp only
  repeat' (with_reducible first | assumption | apply State.cause_ok | apply State.orBits_ok | apply State.bump_ok | apply State.recordSub_ok | apply foldl_ok | apply foldlPair_ok | split | exact ⟨ok_regs ‹_›, ok_hbm ‹_›⟩ | intro)

theorem State.watchHeader_ok (s : State) (r : WatchRun) (hok : s.memOk) : (State.watchHeader s r).memOk := by
  unfold State.watchHeader
  try dsimp only
  repeat' (with_reducible first | assumption | apply State.hbmWrite_ok | apply State.set_ok | apply State.orBits_ok | apply State.bump_ok | split | (simp only [memOk_mk]; refine ⟨?_, ?_⟩) | apply ok_regs | apply ok_hbm | intro)

theorem State.fixNext_ok (s : State) (hok : s.memOk) : (State.fixNext s).memOk := by
  unfold State.fixNext
  try dsimp only
  repeat' (with_reducible first | assumption | apply State.sealManifest_ok | split | (simp only [memOk_mk]; refine ⟨?_, ?_⟩) | apply ok_regs | apply ok_hbm | intro)

theorem effCommitPoint_ok (s : State) (hok : s.memOk) : (effCommitPoint s).memOk := by
  unfold effCommitPoint
  dsimp only
  repeat' (with_reducible first | assumption | apply State.tileSync_ok | apply State.vigilOver_ok | apply State.setTile_ok | apply State.commitFault_ok | apply State.splitCheck_ok | apply State.barrierEnd_ok | apply State.watchHeader_ok | apply State.fixNext_ok | apply foldl_ok | apply foldlPair_ok | split | exact ⟨ok_regs ‹_›, ok_hbm ‹_›⟩ | intro)

theorem effPlanStart_ok (s : State) (hok : s.memOk) : (effPlanStart s).memOk := by
  unfold effPlanStart
  try dsimp only
  repeat' (with_reducible first | assumption | apply State.stopPlan_ok | apply State.sealManifest_ok | apply State.setField_ok | apply State.enter_ok | apply State.beginFrame_ok | apply State.stopActions_ok | split | (simp only [memOk_mk]; refine ⟨?_, ?_⟩) | apply ok_regs | apply ok_hbm | intro)

theorem effCommitFlagRaise_ok (n t : Nat) (s : State) (hok : s.memOk) : (effCommitFlagRaise n t s).memOk := by
  unfold effCommitFlagRaise
  repeat' (with_reducible first | assumption | apply State.tileEvent_ok | split)

theorem effSqNop_ok (n t : Nat) (s : State) (hok : s.memOk) : (effSqNop n t s).memOk := by
  unfold effSqNop
  repeat' (with_reducible first | assumption | apply State.tileEvent_ok | split)

theorem effSqEnd_ok (n t : Nat) (s : State) (hok : s.memOk) : (effSqEnd n t s).memOk := by
  unfold effSqEnd
  repeat' (with_reducible first | assumption | apply State.tileEvent_ok | split)

theorem effSqLoop_ok (n t : Nat) (s : State) (hok : s.memOk) : (effSqLoop n t s).memOk := by
  unfold effSqLoop
  repeat' (with_reducible first | assumption | apply State.tileEvent_ok | split)

theorem effSqCall_ok (n t : Nat) (s : State) (hok : s.memOk) : (effSqCall n t s).memOk := by
  unfold effSqCall
  repeat' (with_reducible first | assumption | apply State.tileEvent_ok | split)

theorem effSqCallReturn_ok (n t : Nat) (s : State) (hok : s.memOk) : (effSqCallReturn n t s).memOk := by
  unfold effSqCallReturn
  repeat' (with_reducible first | assumption | apply State.tileEvent_ok | split)

theorem effSqHold_ok (n t : Nat) (s : State) (hok : s.memOk) : (effSqHold n t s).memOk := by
  unfold effSqHold
  repeat' (with_reducible first | assumption | apply State.tileEvent_ok | split)

theorem effSqHoldRelease_ok (n t : Nat) (s : State) (hok : s.memOk) : (effSqHoldRelease n t s).memOk := by
  unfold effSqHoldRelease
  repeat' (with_reducible first | assumption | apply State.tileEvent_ok | split)

theorem effSqSeti_ok (n t : Nat) (s : State) (hok : s.memOk) : (effSqSeti n t s).memOk := by
  unfold effSqSeti
  repeat' (with_reducible first | assumption | apply State.tileEvent_ok | split)

theorem effSqSethi_ok (n t : Nat) (s : State) (hok : s.memOk) : (effSqSethi n t s).memOk := by
  unfold effSqSethi
  repeat' (with_reducible first | assumption | apply State.tileEvent_ok | split)

theorem effSqAddi_ok (n t : Nat) (s : State) (hok : s.memOk) : (effSqAddi n t s).memOk := by
  unfold effSqAddi
  repeat' (with_reducible first | assumption | apply State.tileEvent_ok | split)

theorem State.sqAluRow_ok (n t : Nat) (op : AluOp) (s : State) (hok : s.memOk) : (State.sqAluRow n t op s).memOk := by
  unfold State.sqAluRow
  repeat' (with_reducible first | assumption | apply State.tileEvent_ok | split)

theorem effSqAdd_ok (n t : Nat) (s : State) (hok : s.memOk) : (effSqAdd n t s).memOk := by
  unfold effSqAdd
  repeat' (with_reducible first | assumption | apply State.sqAluRow_ok | split)

theorem effSqSub_ok (n t : Nat) (s : State) (hok : s.memOk) : (effSqSub n t s).memOk := by
  unfold effSqSub
  repeat' (with_reducible first | assumption | apply State.sqAluRow_ok | split)

theorem effSqMul_ok (n t : Nat) (s : State) (hok : s.memOk) : (effSqMul n t s).memOk := by
  unfold effSqMul
  repeat' (with_reducible first | assumption | apply State.sqAluRow_ok | split)

theorem effSqAnd_ok (n t : Nat) (s : State) (hok : s.memOk) : (effSqAnd n t s).memOk := by
  unfold effSqAnd
  repeat' (with_reducible first | assumption | apply State.sqAluRow_ok | split)

theorem effSqOr_ok (n t : Nat) (s : State) (hok : s.memOk) : (effSqOr n t s).memOk := by
  unfold effSqOr
  repeat' (with_reducible first | assumption | apply State.sqAluRow_ok | split)

theorem effSqXor_ok (n t : Nat) (s : State) (hok : s.memOk) : (effSqXor n t s).memOk := by
  unfold effSqXor
  repeat' (with_reducible first | assumption | apply State.sqAluRow_ok | split)

theorem effSqShl_ok (n t : Nat) (s : State) (hok : s.memOk) : (effSqShl n t s).memOk := by
  unfold effSqShl
  repeat' (with_reducible first | assumption | apply State.sqAluRow_ok | split)

theorem effSqShr_ok (n t : Nat) (s : State) (hok : s.memOk) : (effSqShr n t s).memOk := by
  unfold effSqShr
  repeat' (with_reducible first | assumption | apply State.sqAluRow_ok | split)

theorem effSqSra_ok (n t : Nat) (s : State) (hok : s.memOk) : (effSqSra n t s).memOk := by
  unfold effSqSra
  repeat' (with_reducible first | assumption | apply State.sqAluRow_ok | split)

theorem effSqPops_ok (n t : Nat) (s : State) (hok : s.memOk) : (effSqPops n t s).memOk := by
  unfold effSqPops
  repeat' (with_reducible first | assumption | apply State.tileEvent_ok | split)

theorem effSqEveOpen_ok (n t : Nat) (s : State) (hok : s.memOk) : (effSqEveOpen n t s).memOk := by
  unfold effSqEveOpen
  repeat' (with_reducible first | assumption | apply State.tileEvent_ok | split)

theorem effSqEveClose_ok (n t : Nat) (s : State) (hok : s.memOk) : (effSqEveClose n t s).memOk := by
  unfold effSqEveClose
  repeat' (with_reducible first | assumption | apply State.tileEvent_ok | split)

theorem effIllegalInstruction_ok (n t : Nat) (s : State) (hok : s.memOk) : (effIllegalInstruction n t s).memOk := by
  unfold effIllegalInstruction
  repeat' (with_reducible first | assumption | apply State.tileEvent_ok | split)

theorem effEngineCommandDispatch_ok (n t : Nat) (s : State) (hok : s.memOk) : (effEngineCommandDispatch n t s).memOk := by
  unfold effEngineCommandDispatch
  repeat' (with_reducible first | assumption | apply State.tileEvent_ok | split)

theorem State.injectIssue_ok (s : State) (n t kind : Nat) (f : Bool → Tile → Tile) (hok : s.memOk) : (State.injectIssue s n t kind f).memOk := by
  unfold State.injectIssue
  dsimp only
  repeat' (with_reducible first | assumption | apply State.tileEvent_ok | apply State.masqueFire_ok | split | exact ⟨ok_regs ‹_›, ok_hbm ‹_›⟩ | intro)

theorem effMxNop_ok (n t : Nat) (s : State) (hok : s.memOk) : (effMxNop n t s).memOk := by
  unfold effMxNop
  repeat' (with_reducible first | assumption | apply State.tileEvent_ok | split)

theorem effMxMm_ok (n t : Nat) (ups : List MxUpset) (s : State) (hok : s.memOk) : (effMxMm n t ups s).memOk := by
  unfold effMxMm
  repeat' (with_reducible first | assumption | apply State.tileEvent_ok | split)

theorem effMxMmi_ok (n t : Nat) (ups : List MxUpset) (s : State) (hok : s.memOk) : (effMxMmi n t ups s).memOk := by
  unfold effMxMmi
  repeat' (with_reducible first | assumption | apply State.injectIssue_ok | split)

theorem effMxMms_ok (n t : Nat) (ups : List MxUpset) (s : State) (hok : s.memOk) : (effMxMms n t ups s).memOk := by
  unfold effMxMms
  repeat' (with_reducible first | assumption | apply State.injectIssue_ok | split)

theorem effMxOperationRetire_ok (n t i : Nat) (s : State) (hok : s.memOk) : (effMxOperationRetire n t i s).memOk := by
  unfold effMxOperationRetire
  repeat' (with_reducible first | assumption | apply State.tileEvent_ok | split)

theorem effVxNop_ok (n t : Nat) (s : State) (hok : s.memOk) : (effVxNop n t s).memOk := by
  unfold effVxNop
  repeat' (with_reducible first | assumption | apply State.tileEvent_ok | split)

theorem State.vxRow_ok (n t op : Nat) (ups : List VxUpset) (s : State) (hok : s.memOk) : (State.vxRow n t op ups s).memOk := by
  unfold State.vxRow
  repeat' (with_reducible first | assumption | apply State.injectIssue_ok | split)

theorem effVxEw_ok (n t : Nat) (ups : List VxUpset) (s : State) (hok : s.memOk) : (effVxEw n t ups s).memOk := by
  unfold effVxEw
  repeat' (with_reducible first | assumption | apply State.vxRow_ok | split)

theorem effVxCvt_ok (n t : Nat) (ups : List VxUpset) (s : State) (hok : s.memOk) : (effVxCvt n t ups s).memOk := by
  unfold effVxCvt
  repeat' (with_reducible first | assumption | apply State.vxRow_ok | split)

theorem effVxRed_ok (n t : Nat) (ups : List VxUpset) (s : State) (hok : s.memOk) : (effVxRed n t ups s).memOk := by
  unfold effVxRed
  repeat' (with_reducible first | assumption | apply State.vxRow_ok | split)

theorem effVxFn_ok (n t : Nat) (ups : List VxUpset) (s : State) (hok : s.memOk) : (effVxFn n t ups s).memOk := by
  unfold effVxFn
  repeat' (with_reducible first | assumption | apply State.vxRow_ok | split)

theorem effVxStn_ok (n t : Nat) (ups : List VxUpset) (s : State) (hok : s.memOk) : (effVxStn n t ups s).memOk := by
  unfold effVxStn
  repeat' (with_reducible first | assumption | apply State.vxRow_ok | split)

theorem effVxRng_ok (n t : Nat) (ups : List VxUpset) (s : State) (hok : s.memOk) : (effVxRng n t ups s).memOk := by
  unfold effVxRng
  repeat' (with_reducible first | assumption | apply State.vxRow_ok | split)

theorem effVxOperationRetire_ok (n t i : Nat) (s : State) (hok : s.memOk) : (effVxOperationRetire n t i s).memOk := by
  unfold effVxOperationRetire
  repeat' (with_reducible first | assumption | apply State.tileEvent_ok | split)

theorem effAnchorMiss_ok (n t : Nat) (eng : Engine) (s : State) (hok : s.memOk) : (effAnchorMiss n t eng s).memOk := by
  unfold effAnchorMiss
  repeat' (with_reducible first | assumption | apply State.tileEvent_ok | split)

theorem State.inject_ok (s : State) (from_ : PktFrom) (src route dvt : Nat) (dest : PktDest) (len : Nat) (lines : List Line) (t0 : Nat) (hok : s.memOk) : (State.inject s from_ src route dvt dest len lines t0).memOk := by
  unfold State.inject
  try dsimp only
  repeat' (with_reducible first | assumption | split | (simp only [memOk_mk]; refine ⟨?_, ?_⟩) | apply ok_regs | apply ok_hbm | intro)

theorem State.setPkt_ok (s : State) (k : Packet) (hok : s.memOk) : (State.setPkt s k).memOk := by
  unfold State.setPkt
  try dsimp only
  repeat' (with_reducible first | assumption | split | (simp only [memOk_mk]; refine ⟨?_, ?_⟩) | apply ok_regs | apply ok_hbm | intro)

theorem State.drop_ok (s : State) (id i : Nat) (hok : s.memOk) : (State.drop s id i).memOk := by
  unfold State.drop
  repeat' (with_reducible first | assumption | apply State.setPkt_ok | split)

theorem State.setRouter_ok (s : State) (n : Nat) (r : Router) (hok : s.memOk) : (State.setRouter s n r).memOk := by
  unfold State.setRouter
  try dsimp only
  repeat' (with_reducible first | assumption | split | (simp only [memOk_mk]; refine ⟨?_, ?_⟩) | apply ok_regs | apply ok_hbm | intro)

theorem State.meshFault_ok (s : State) (n kind inp slot : Nat) (hok : s.memOk) : (State.meshFault s n kind inp slot).memOk := by
  unfold State.meshFault
  repeat' (with_reducible first | assumption | apply State.putTile_ok | split)

theorem State.takeBack_ok (s : State) (n id t : Nat) (hok : s.memOk) : (State.takeBack s n id t).memOk := by
  unfold State.takeBack
  dsimp only
  repeat' (with_reducible first | assumption | apply State.setRouter_ok | split | exact ⟨ok_regs ‹_›, ok_hbm ‹_›⟩ | intro)

theorem State.contest_ok (s : State) (n t out : Nat) (k : Packet) (inp : Nat) (hok : s.memOk) : (State.contest s n t out k inp).1.memOk := by
  unfold State.contest
  dsimp only
  repeat' (with_reducible first | assumption | apply State.setRouter_ok | apply State.takeBack_ok | apply State.meshFault_ok | apply State.drop_ok | split | exact ⟨ok_regs ‹_›, ok_hbm ‹_›⟩ | intro)

theorem State.cross_ok (k : Packet) (b : HopAt) (t lead : Nat) (s : State) (j : Nat) (hok : s.memOk) : (State.cross k b t lead s j).memOk := by
  unfold State.cross
  dsimp only
  repeat' (with_reducible first | assumption | apply State.setRouter_ok | apply State.meshFault_ok | apply State.drop_ok | split | exact ⟨ok_regs ‹_›, ok_hbm ‹_›⟩ | intro)

theorem State.leave_ok (s : State) (k : Packet) (b : HopAt) (t : Nat) (hok : s.memOk) : (State.leave s k b t).memOk := by
  unfold State.leave
  repeat' (with_reducible first | assumption | apply State.cross_ok | apply foldl_ok | apply foldlPair_ok | split)

theorem effMeshHeadArrival_ok (n t id inp : Nat) (s : State) (hok : s.memOk) : (effMeshHeadArrival n t id inp s).memOk := by
  unfold effMeshHeadArrival
  dsimp only
  repeat' (with_reducible first | assumption | apply State.seen_ok | apply State.contest_ok | apply State.setTile_ok | apply State.leave_ok | apply State.setPkt_ok | split | exact ⟨ok_regs ‹_›, ok_hbm ‹_›⟩ | intro)

theorem State.eject_ok (s : State) (n t : Nat) (k : Packet) (i : Nat) (v : Line) (hok : s.memOk) : (State.eject s n t k i v).memOk := by
  unfold State.eject
  dsimp only
  repeat' (with_reducible first | assumption | apply State.setPkt_ok | apply State.arrivalEvent_ok | apply State.forwardLine_ok | apply State.sendOut_ok | split | exact ⟨ok_regs ‹_›, ok_hbm ‹_›⟩ | intro)

theorem State.readFor_ok (s : State) (k : Packet) (i t : Nat) (hok : s.memOk) : (State.readFor s k i t).memOk := by
  unfold State.readFor
  repeat' (with_reducible first | assumption | apply State.tileSync_ok | apply State.seen_ok | split)

theorem effMeshLineArrival_ok (n t id i : Nat) (s : State) (hok : s.memOk) : (effMeshLineArrival n t id i s).memOk := by
  unfold effMeshLineArrival
  dsimp only
  repeat' (with_reducible first | assumption | apply State.readFor_ok | apply State.eject_ok | apply State.meshFault_ok | apply State.drop_ok | split | exact ⟨ok_regs ‹_›, ok_hbm ‹_›⟩ | intro)

theorem effCrossingRelease_ok (n t inp : Nat) (s : State) (hok : s.memOk) : (effCrossingRelease n t inp s).memOk := by
  unfold effCrossingRelease
  dsimp only
  repeat' (with_reducible first | assumption | apply State.setRouter_ok | apply State.seen_ok | apply State.meshFault_ok | apply State.drop_ok | split | exact ⟨ok_regs ‹_›, ok_hbm ‹_›⟩ | intro)

theorem effMvNop_ok (n t : Nat) (s : State) (hok : s.memOk) : (effMvNop n t s).memOk := by
  unfold effMvNop
  repeat' (with_reducible first | assumption | apply State.tileEvent_ok | split)

theorem State.mvSendTo_ok (s : State) (n t : Nat) (tl : Tile) (c : Cmd) (route dvt : Nat) (dest : PktDest) (hok : s.memOk) : (State.mvSendTo s n t tl c route dvt dest).memOk := by
  unfold State.mvSendTo
  repeat' (with_reducible first | assumption | apply State.inject_ok | apply State.tileEvent_ok | split)

theorem effMvSend_ok (n t : Nat) (s : State) (hok : s.memOk) : (effMvSend n t s).memOk := by
  unfold effMvSend
  repeat' (with_reducible first | assumption | apply State.mvSendTo_ok | split)

theorem effMvOsend_ok (n t : Nat) (s : State) (hok : s.memOk) : (effMvOsend n t s).memOk := by
  unfold effMvOsend
  repeat' (with_reducible first | assumption | apply State.mvSendTo_ok | apply State.setTile_ok | split)

theorem State.request_ok (s : State) (n t handed len op : Nat) (lines : List Line) (f : ReqFlit) (hok : s.memOk) : (State.request s n t handed len op lines f).memOk := by
  unfold State.request
  repeat' (with_reducible first | assumption | apply State.inject_ok | split)

theorem State.mvReserve_ok (s : State) (n t : Nat) (tl : Tile) (c : Cmd) (f : ReqFlit) (hok : s.memOk) : (State.mvReserve s n t tl c f).memOk := by
  unfold State.mvReserve
  repeat' (with_reducible first | assumption | apply State.tileEvent_ok | apply State.request_ok | split)

theorem effMvGet_ok (n t : Nat) (s : State) (hok : s.memOk) : (effMvGet n t s).memOk := by
  unfold effMvGet
  repeat' (with_reducible first | assumption | apply State.mvReserve_ok | split)

theorem effMvGather_ok (n t : Nat) (s : State) (hok : s.memOk) : (effMvGather n t s).memOk := by
  unfold effMvGather
  repeat' (with_reducible first | assumption | apply State.mvReserve_ok | split)

theorem State.hashPut_ok (s : State) (n t hla : Nat) (c : Cmd) (ls : List Line) (hok : s.memOk) : (State.hashPut s n t hla c ls).memOk := by
  unfold State.hashPut
  try dsimp only
  repeat' (with_reducible first | assumption | apply State.setTile_ok | apply State.bump_ok | split | (simp only [memOk_mk]; refine ⟨?_, ?_⟩) | apply ok_regs | apply ok_hbm | intro)

theorem State.digestPut_ok (s : State) (n : Nat) (c : Cmd) (ls : List Line) (hok : s.memOk) : (State.digestPut s n c ls).memOk := by
  unfold State.digestPut
  try dsimp only
  repeat' (with_reducible first | assumption | apply State.orBits_ok | apply State.bump_ok | apply State.setTile_ok | apply foldl_ok | apply foldlPair_ok | split | (simp only [memOk_mk]; refine ⟨?_, ?_⟩) | apply ok_regs | apply ok_hbm | intro)

theorem State.putRecords_ok (s : State) (n : Nat) (o : Op) (hok : s.memOk) : (State.putRecords s n o).memOk := by
  unfold State.putRecords
  repeat' (with_reducible first | assumption | apply State.hashPut_ok | apply State.digestPut_ok | split)

theorem effMvPut_ok (n t : Nat) (s : State) (hok : s.memOk) : (effMvPut n t s).memOk := by
  unfold effMvPut
  repeat' (with_reducible first | assumption | apply State.request_ok | apply State.tileEvent_ok | split)

theorem effMvWait_ok (n t : Nat) (s : State) (hok : s.memOk) : (effMvWait n t s).memOk := by
  unfold effMvWait
  repeat' (with_reducible first | assumption | apply State.tileEvent_ok | split)

theorem State.syncRemote_ok (s : State) (n t sop : Nat) (pay : Cmd → LineBits) (hok : s.memOk) : (State.syncRemote s n t sop pay).memOk := by
  unfold State.syncRemote
  repeat' (with_reducible first | assumption | apply State.syncIssue_ok | apply State.inject_ok | split)

theorem effMvSyncRsignal_ok (n t : Nat) (s : State) (hok : s.memOk) : (effMvSyncRsignal n t s).memOk := by
  unfold effMvSyncRsignal
  repeat' (with_reducible first | assumption | apply State.syncRemote_ok | split)

theorem effMvSyncRpart_ok (n t : Nat) (s : State) (hok : s.memOk) : (effMvSyncRpart n t s).memOk := by
  unfold effMvSyncRpart
  repeat' (with_reducible first | assumption | apply State.syncRemote_ok | split)

theorem effMvOperationRetire_ok (n t : Nat) (s : State) (hok : s.memOk) : (effMvOperationRetire n t s).memOk := by
  unfold effMvOperationRetire
  dsimp only
  repeat' (with_reducible first | assumption | apply State.tileEvent_ok | apply State.putRecords_ok | split | exact ⟨ok_regs ‹_›, ok_hbm ‹_›⟩ | intro)

theorem State.setCtl_ok (s : State) (c : Nat) (k : HbmCtl) (hok : s.memOk) : (State.setCtl s c k).memOk := by
  unfold State.setCtl
  try dsimp only
  repeat' (with_reducible first | assumption | split | (simp only [memOk_mk]; refine ⟨?_, ?_⟩) | apply ok_regs | apply ok_hbm | intro)

theorem State.setXfer_ok (s : State) (c x : Nat) (r : XferRun) (hok : s.memOk) : (State.setXfer s c x r).memOk := by
  unfold State.setXfer
  repeat' (with_reducible first | assumption | apply State.setCtl_ok | split)

theorem State.refuse_ok (s : State) (c x : Nat) (p : Xfer) (r : XferRun) (f : Option ReqFlit) (hok : s.memOk) : (State.refuse s c x p r f).memOk := by
  unfold State.refuse
  repeat' (with_reducible first | assumption | apply State.setXfer_ok | apply State.hbLast_ok | apply State.orBits_ok | apply State.bump_ok | apply State.record_ok | split)

theorem effRequestFlitArrival_ok (c x : Nat) (s : State) (hok : s.memOk) : (effRequestFlitArrival c x s).memOk := by
  unfold effRequestFlitArrival
  dsimp only
  repeat' (with_reducible first | assumption | apply State.seen_ok | apply State.refuse_ok | apply State.setXfer_ok | split | exact ⟨ok_regs ‹_›, ok_hbm ‹_›⟩ | intro)

theorem State.windowFault_ok (s : State) (c hla k : Nat) (r : XferRun) (hok : s.memOk) : (State.windowFault s c hla k r).1.memOk := by
  unfold State.windowFault
  repeat' (with_reducible first | assumption | apply State.hbLast_ok | apply State.orBits_ok | apply State.bump_ok | split)

theorem State.windowRecord_ok (s : State) (c : Nat) (p : Xfer) (r : XferRun) (hok : s.memOk) : (State.windowRecord s c p r).memOk := by
  unfold State.windowRecord
  repeat' (with_reducible first | assumption | apply State.record_ok | split)

theorem State.cmdRead_ok (s : State) (c x i : Nat) (p : Xfer) (r : XferRun) (hok : s.memOk) : (State.cmdRead s c x i p r).memOk := by
  unfold State.cmdRead
  repeat' (with_reducible first | assumption | apply State.setXfer_ok | apply State.windowFault_ok | split)

theorem State.cmdWrite_ok (s : State) (c x i t : Nat) (p : Xfer) (r : XferRun) (hok : s.memOk) : (State.cmdWrite s c x i t p r).memOk := by
  unfold State.cmdWrite
  repeat' (with_reducible first | assumption | apply State.hbmWrite_ok | apply State.windowFault_ok | apply State.windowRecord_ok | apply State.setXfer_ok | split)

theorem State.cmdIndex_ok (s : State) (c x i : Nat) (p : Xfer) (r : XferRun) (hok : s.memOk) : (State.cmdIndex s c x i p r).memOk := by
  unfold State.cmdIndex
  dsimp only
  repeat' (with_reducible first | assumption | apply State.hbLast_ok | apply State.orBits_ok | apply State.bump_ok | apply State.record_ok | apply State.windowFault_ok | apply State.setXfer_ok | apply foldl_ok | apply foldlPair_ok | split | exact ⟨ok_regs ‹_›, ok_hbm ‹_›⟩ | intro)

theorem State.onXfer_ok (s : State) (c x : Nat) (f : Xfer → XferRun → State) (hf : ∀ y0 y1, (f y0 y1).memOk) (hok : s.memOk) : (State.onXfer s c x f).memOk := by
  unfold State.onXfer
  repeat' (with_reducible first | assumption | apply hf | split)

theorem effHbmCommand_ok (c t : Nat) (op : HbmOp) (s : State) (hok : s.memOk) : (effHbmCommand c t op s).memOk := by
  unfold effHbmCommand
  dsimp only
  repeat' (with_reducible first | assumption | apply State.seen_ok | apply State.onXfer_ok | apply State.cmdRead_ok | apply State.cmdWrite_ok | apply State.cmdIndex_ok | split | exact ⟨ok_regs ‹_›, ok_hbm ‹_›⟩ | intro)

theorem State.readUe_ok (s : State) (c hla : Nat) (retried : Bool) (hok : s.memOk) : (State.readUe s c hla retried).memOk := by
  unfold State.readUe
  try dsimp only
  repeat' (with_reducible first | assumption | apply State.hbLast_ok | apply State.orBits_ok | apply State.bump_ok | apply State.recordInj_ok | split | (simp only [memOk_mk]; refine ⟨?_, ?_⟩) | apply ok_regs | apply ok_hbm | intro)

theorem State.assignRetry_ok (s : State) (c x i hla : Nat) (r : XferRun) (hok : s.memOk) : (State.assignRetry s c x i hla r).memOk := by
  unfold State.assignRetry
  repeat' (with_reducible first | assumption | apply State.setXfer_ok | apply State.setCtl_ok | split)

theorem State.setReady_ok (s : State) (c x i : Nat) (r : XferRun) (v : Line) (hok : s.memOk) : (State.setReady s c x i r v).memOk := by
  unfold State.setReady
  repeat' (with_reducible first | assumption | apply State.setXfer_ok | split)

theorem effReadLineReady_ok (c x i : Nat) (errs : List (Nat × Nat)) (s : State) (hok : s.memOk) : (effReadLineReady c x i errs s).memOk := by
  unfold effReadLineReady
  dsimp only
  repeat' (with_reducible first | assumption | apply State.onXfer_ok | apply State.masqueFire_ok | apply State.setReady_ok | apply State.bump_ok | apply State.assignRetry_ok | apply State.readUe_ok | split | exact ⟨ok_regs ‹_›, ok_hbm ‹_›⟩ | intro)

theorem State.send_ok (s : State) (c x i t : Nat) (p : Xfer) (r : XferRun) (v : Line) (late : Bool) (hok : s.memOk) : (State.send s c x i t p r v late).memOk := by
  unfold State.send
  repeat' (with_reducible first | assumption | apply State.inject_ok | apply State.windowRecord_ok | apply State.setXfer_ok | split)

theorem State.lateOvf_ok (s : State) (c x i t : Nat) (p : Xfer) (r : XferRun) (hok : s.memOk) : (State.lateOvf s c x i t p r).memOk := by
  unfold State.lateOvf
  repeat' (with_reducible first | assumption | apply State.hbLast_ok | apply State.orBits_ok | apply State.bump_ok | apply State.send_ok | apply State.record_ok | split)

theorem effHbmDeliverySlot_ok (c x i t : Nat) (s : State) (hok : s.memOk) : (effHbmDeliverySlot c x i t s).memOk := by
  unfold effHbmDeliverySlot
  repeat' (with_reducible first | assumption | apply State.seen_ok | apply State.send_ok | apply State.bump_ok | apply State.setXfer_ok | apply State.lateOvf_ok | split)

theorem effLateSlot_ok (c x t : Nat) (s : State) (hok : s.memOk) : (effLateSlot c x t s).memOk := by
  unfold effLateSlot
  dsimp only
  repeat' (with_reducible first | assumption | apply State.onXfer_ok | apply State.seen_ok | apply State.setXfer_ok | apply State.send_ok | split | exact ⟨ok_regs ‹_›, ok_hbm ‹_›⟩ | intro)

theorem effLineArrival_ok (n t c x i : Nat) (s : State) (hok : s.memOk) : (effLineArrival n t c x i s).memOk := by
  unfold effLineArrival
  repeat' (with_reducible first | assumption | apply State.arrivalEvent_ok | split)

theorem State.retryLine_ok (s : State) (c : Nat) (xi : Nat × Nat × Nat) (hok : s.memOk) : (State.retryLine s c xi).memOk := by
  unfold State.retryLine
  dsimp only
  repeat' (with_reducible first | assumption | apply State.bump_ok | apply State.setReady_ok | apply State.readUe_ok | split | exact ⟨ok_regs ‹_›, ok_hbm ‹_›⟩ | intro)

theorem State.masqueHbm_ok (s : State) (c : Nat) (hok : s.memOk) : (State.masqueHbm s c).memOk := by
  unfold State.masqueHbm
  split
  · exact hok
  · exact State.masqueFire_ok _ _ ⟨hok.1, hok.2⟩

theorem State.scrubLine_ok (sw : State × Nat) (c : Nat) (hla : Nat) (hok : sw.1.memOk) : (State.scrubLine sw c hla).1.memOk := by
  unfold State.scrubLine
  try dsimp only
  repeat' (with_reducible first | assumption | apply State.orBits_ok | apply State.bump_ok | apply State.recordInj_ok | apply State.hbmWrite_ok | apply State.hbLast_ok | split | (simp only [memOk_mk]; refine ⟨?_, ?_⟩) | apply ok_regs | apply ok_hbm | intro)

theorem State.scrubSegs_ok (c p k : Nat) (sw : State × Nat) (hok : sw.1.memOk) : (State.scrubSegs c p k sw).1.memOk := by
  induction k generalizing sw with
  | zero => exact hok
  | succ k ih =>
    obtain ⟨s, w⟩ := sw
    rw [State.scrubSegs]
    dsimp only
    generalize List.range 16 = l
    have hf := foldlPair_ok (fun sw l => State.scrubLine sw c (c * 2 ^ 30 + 1024 * s.get (rScrubPtr c p) + 16 * p + l))
      (fun q l h => State.scrubLine_ok q c _ h) l (s, w) hok
    refine ih (_, _) ?_
    split
    · exact State.set_ok _ _ _ hf
    · exact State.bump_ok _ _ _ (State.set_ok _ _ _ hf)

theorem effMaintenanceSlot_ok (c p : Nat) (s : State) (hok : s.memOk) : (effMaintenanceSlot c p s).memOk := by
  unfold effMaintenanceSlot
  split
  · exact hok
  · dsimp only
    split
    · exact State.bump_ok _ _ _ (State.masqueHbm_ok _ _ hok)
    · refine State.scrubSegs_ok _ _ _ _ (foldl_ok _ _ _ (fun _ _ h => State.retryLine_ok _ _ _ h) ?_)
      exact State.setCtl_ok _ _ _ (State.masqueHbm_ok _ _ hok)

theorem effKeepAlive_ok (_c : Nat) (s : State) (hok : s.memOk) : (effKeepAlive _c s).memOk := by
  unfold effKeepAlive
  repeat' (with_reducible first | assumption | split)

theorem effHbmTempSample_ok (c temp : Nat) (s : State) (hok : s.memOk) : (effHbmTempSample c temp s).memOk := by
  unfold effHbmTempSample
  dsimp only
  repeat' (with_reducible first | assumption | apply State.set_ok | apply State.setCtl_ok | apply State.orBits_ok | apply State.record_ok | split | exact ⟨ok_regs ‹_›, ok_hbm ‹_›⟩ | intro)

theorem effHeatModeExit_ok (c : Nat) (s : State) (hok : s.memOk) : (effHeatModeExit c s).memOk := by
  unfold effHeatModeExit
  repeat' (with_reducible first | assumption | apply State.clrBits_ok | split)

theorem effHeatRefresh_ok (c _p : Nat) (s : State) (hok : s.memOk) : (effHeatRefresh c _p s).memOk := by
  unfold effHeatRefresh
  repeat' (with_reducible first | assumption | apply State.bump_ok | split)

theorem effAdaptiveRfmRequest_ok (c _p : Nat) (s : State) (hok : s.memOk) : (effAdaptiveRfmRequest c _p s).memOk := by
  unfold effAdaptiveRfmRequest
  repeat' (with_reducible first | assumption | apply State.bump_ok | split)

theorem effCaParityError_ok (c p : Nat) (s : State) (hok : s.memOk) : (effCaParityError c p s).memOk := by
  unfold effCaParityError
  repeat' (with_reducible first | assumption | apply State.record_ok | apply State.orBits_ok | split)

theorem State.laneStop_ok (s : State) (p fibre : Nat) (hok : s.memOk) : (State.laneStop s p fibre).memOk := by
  unfold State.laneStop
  repeat' (with_reducible first | assumption | apply State.cause_ok | apply State.flRaise_ok | split)

theorem State.laneMap_ok (s : State) (p mask gen : Nat) (hok : s.memOk) : (State.laneMap s p mask gen).memOk := by
  unfold State.laneMap
  repeat' (with_reducible first | assumption | apply State.set_ok | apply State.setField_ok | apply foldl_ok | apply foldlPair_ok | split)

theorem State.rxMap_ok (s : State) (p mask gen : Nat) (hok : s.memOk) : (State.rxMap s p mask gen).memOk := by
  unfold State.rxMap
  dsimp only
  repeat' (with_reducible first | assumption | apply State.laneMap_ok | apply State.laneStop_ok | split | exact ⟨ok_regs ‹_›, ok_hbm ‹_›⟩ | intro)

theorem State.trainFail_ok (s : State) (p : Nat) (hok : s.memOk) : (State.trainFail s p).memOk := by
  unfold State.trainFail
  dsimp only
  repeat' (with_reducible first | assumption | apply State.toSignal_ok | apply State.updPort_ok | apply State.record_ok | split | exact ⟨ok_regs ‹_›, ok_hbm ‹_›⟩ | intro)

theorem State.enterUp_ok (s : State) (p : Nat) (hok : s.memOk) : (State.enterUp s p).memOk := by
  unfold State.enterUp
  repeat' (with_reducible first | assumption | apply State.updPort_ok | apply State.setTrain_ok | split)

theorem State.enterAlign_ok (s : State) (p : Nat) (hok : s.memOk) : (State.enterAlign s p).memOk := by
  unfold State.enterAlign
  repeat' (with_reducible first | assumption | apply State.updPort_ok | apply State.set_ok | apply State.laneMap_ok | apply State.setTrain_ok | split)

theorem State.tryIdent_ok (s : State) (p : Nat) (hok : s.memOk) : (State.tryIdent s p).memOk := by
  unfold State.tryIdent
  repeat' (with_reducible first | assumption | apply State.updPort_ok | apply State.setTrain_ok | split)

theorem State.askMap_ok (s : State) (p : Nat) (hok : s.memOk) : (State.askMap s p).memOk := by
  unfold State.askMap
  repeat' (with_reducible first | assumption | apply State.updPort_ok | split)

theorem State.eraseFibre_ok (s : State) (p f : Nat) (hok : s.memOk) : (State.eraseFibre s p f).memOk := by
  unfold State.eraseFibre
  dsimp only
  repeat' (with_reducible first | assumption | apply State.setPort_ok | apply State.lkCount_ok | apply State.setField_ok | apply State.lcQueue_ok | apply State.record_ok | apply State.leaveUp_ok | split | exact ⟨ok_regs ‹_›, ok_hbm ‹_›⟩ | intro)

theorem State.closePeriod_ok (s : State) (p : Nat) (hok : s.memOk) : (State.closePeriod s p).memOk := by
  unfold State.closePeriod
  dsimp only
  repeat' (with_reducible first | assumption | apply State.emit_ok | apply State.updPort_ok | apply State.laneStop_ok | apply foldl_ok | apply foldlPair_ok | split | exact ⟨ok_regs ‹_›, ok_hbm ‹_›⟩ | intro)

theorem State.sendCodeword_ok (s : State) (p : Nat) (bad : Bool) (fs : List Flit) (hok : s.memOk) : (State.sendCodeword s p bad fs).memOk := by
  unfold State.sendCodeword
  repeat' (with_reducible first | assumption | apply State.draw_ok | apply State.emit_ok | apply State.updPort_ok | split)

theorem State.lcNext_ok (s : State) (p : Nat) (hok : s.memOk) : (State.lcNext s p).1.memOk := by
  unfold State.lcNext
  repeat' (with_reducible first | assumption | apply State.askMap_ok | apply State.updPort_ok | apply State.bump_ok | split)

theorem State.flow_ok (s : State) (p vc : Nat) (hok : s.memOk) : (State.flow s p vc).memOk := by
  unfold State.flow
  dsimp only
  repeat' (with_reducible first | assumption | apply State.updPort_ok | apply State.lkCount_ok | apply State.setField_ok | split | exact ⟨ok_regs ‹_›, ok_hbm ‹_›⟩ | intro)

theorem State.nakAll_ok (s : State) (p vc : Nat) (ns : List Nat) (hok : s.memOk) : (State.nakAll s p vc ns).memOk := by
  unfold State.nakAll
  dsimp only
  repeat' (with_reducible first | assumption | apply State.updChan_ok | apply State.lcQueue_ok | apply foldl_ok | apply foldlPair_ok | split | exact ⟨ok_regs ‹_›, ok_hbm ‹_›⟩ | intro)

theorem State.portCtrl_ok (s : State) (p : Nat) (on : Bool) (hok : s.memOk) : (State.portCtrl s p on).memOk := by
  unfold State.portCtrl
  dsimp only
  repeat' (with_reducible first | assumption | apply State.setField_ok | apply State.toSignal_ok | apply State.orBits_ok | apply State.curFails_ok | apply State.setTrain_ok | apply State.updPort_ok | split | exact ⟨ok_regs ‹_›, ok_hbm ‹_›⟩ | intro)

theorem effPortEnable_ok (p : Nat) (a : Agent) (on : Bool) (s : State) (hok : s.memOk) : (effPortEnable p a on s).memOk := by
  unfold effPortEnable
  dsimp only
  repeat' (with_reducible first | assumption | apply State.touch_ok | apply State.ignored_ok | apply State.portCtrl_ok | split | exact ⟨ok_regs ‹_›, ok_hbm ‹_›⟩ | intro)

theorem effFibreClockLock_ok (p mask : Nat) (s : State) (hok : s.memOk) : (effFibreClockLock p mask s).memOk := by
  unfold effFibreClockLock
  repeat' (with_reducible first | assumption | apply State.updPort_ok | apply State.enterAlign_ok | split)

theorem effSignalTimeout_ok (p : Nat) (s : State) (hok : s.memOk) : (effSignalTimeout p s).memOk := by
  unfold effSignalTimeout
  repeat' (with_reducible first | assumption | apply State.trainFail_ok | split)

theorem effAlignTimeout_ok (p : Nat) (s : State) (hok : s.memOk) : (effAlignTimeout p s).memOk := by
  unfold effAlignTimeout
  repeat' (with_reducible first | assumption | apply State.trainFail_ok | split)

theorem State.idRefused_ok (s : State) (p reason : Nat) (hok : s.memOk) : (State.idRefused s p reason).memOk := by
  unfold State.idRefused
  repeat' (with_reducible first | assumption | apply State.record_ok | apply State.setField_ok | apply State.orBits_ok | split)

theorem effIdentTimeout_ok (p : Nat) (s : State) (hok : s.memOk) : (effIdentTimeout p s).memOk := by
  unfold effIdentTimeout
  repeat' (with_reducible first | assumption | apply State.trainFail_ok | apply State.setTrain_ok | apply State.idRefused_ok | split)

theorem State.setFibre_ok (s : State) (p f : Nat) (x : Fibre) (hok : s.memOk) : (State.setFibre s p f x).memOk := by
  unfold State.setFibre
  repeat' (with_reducible first | assumption | apply State.updPort_ok | split)

theorem State.maskChanged_ok (s : State) (p : Nat) (hok : s.memOk) : (State.maskChanged s p).memOk := by
  unfold State.maskChanged
  dsimp only
  repeat' (with_reducible first | assumption | apply State.askMap_ok | apply State.lcQueue_ok | split | exact ⟨ok_regs ‹_›, ok_hbm ‹_›⟩ | intro)

theorem State.takeMap_ok (s : State) (p mask gen : Nat) (hok : s.memOk) : (State.takeMap s p mask gen).memOk := by
  unfold State.takeMap
  dsimp only
  repeat' (with_reducible first | assumption | apply State.rxMap_ok | apply State.updPort_ok | apply State.maskChanged_ok | split | exact ⟨ok_regs ‹_›, ok_hbm ‹_›⟩ | intro)

theorem State.huntMarker_ok (s : State) (p f pos : Nat) (x : Fibre) (hok : s.memOk) : (State.huntMarker s p f pos x).memOk := by
  unfold State.huntMarker
  dsimp only
  repeat' (with_reducible first | assumption | apply State.setFibre_ok | apply State.updPort_ok | apply State.setField_ok | apply State.tryIdent_ok | apply State.maskChanged_ok | split | exact ⟨ok_regs ‹_›, ok_hbm ‹_›⟩ | intro)

theorem State.goodMarker_ok (s : State) (p f pos gen : Nat) (x : Fibre) (hok : s.memOk) : (State.goodMarker s p f pos gen x).memOk := by
  unfold State.goodMarker
  dsimp only
  repeat' (with_reducible first | assumption | apply State.updPort_ok | apply State.setFibre_ok | apply State.takeMap_ok | split | exact ⟨ok_regs ‹_›, ok_hbm ‹_›⟩ | intro)

theorem State.badMarker_ok (s : State) (p f : Nat) (x : Fibre) (hok : s.memOk) : (State.badMarker s p f x).memOk := by
  unfold State.badMarker
  dsimp only
  repeat' (with_reducible first | assumption | apply State.setFibre_ok | apply State.eraseFibre_ok | apply State.setField_ok | split | exact ⟨ok_regs ‹_›, ok_hbm ‹_›⟩ | intro)

theorem effAlignmentMarker_ok (p f pos : Nat) (syms : List Nat) (s : State) (hok : s.memOk) : (effAlignmentMarker p f pos syms s).memOk := by
  unfold effAlignmentMarker
  dsimp only
  repeat' (with_reducible first | assumption | apply State.huntMarker_ok | apply State.badMarker_ok | apply State.goodMarker_ok | split | exact ⟨ok_regs ‹_›, ok_hbm ‹_›⟩ | intro)

theorem effLossOfSignal_ok (p f : Nat) (s : State) (hok : s.memOk) : (effLossOfSignal p f s).memOk := by
  unfold effLossOfSignal
  repeat' (with_reducible first | assumption | apply State.eraseFibre_ok | apply State.setFibre_ok | apply State.setField_ok | split)

theorem effFeedLoss_ok (p : Nat) (second : Bool) (s : State) (hok : s.memOk) : (effFeedLoss p second s).memOk := by
  unfold effFeedLoss
  repeat' (with_reducible first | assumption | apply State.loseFeed_ok | split)

theorem State.overflow_ok (s : State) (p : Nat) (hok : s.memOk) : (State.overflow s p).memOk := by
  unfold State.overflow
  repeat' (with_reducible first | assumption | apply State.updPort_ok | apply State.record_ok | apply State.lkCount_ok | apply State.entryFails_ok | split)

theorem State.absorb_ok (s : State) (p : Nat) (hok : s.memOk) : (State.absorb s p).memOk := by
  unfold State.absorb
  repeat' (with_reducible first | assumption | apply State.setPort_ok | apply State.orBits_ok | apply State.flow_ok | apply State.overflow_ok | split)

theorem State.takeFlit_ok (p : Nat) (s : State) (f : Flit) (hok : s.memOk) : (State.takeFlit p s f).memOk := by
  unfold State.takeFlit
  dsimp only
  repeat' (with_reducible first | assumption | apply State.updPort_ok | apply State.orBits_ok | apply State.bump_ok | apply State.lkCount_ok | split | exact ⟨ok_regs ‹_›, ok_hbm ‹_›⟩ | intro)

theorem State.ber_ok (s : State) (p errs : Nat) (hok : s.memOk) : (State.ber s p errs).memOk := by
  unfold State.ber
  repeat' (with_reducible first | assumption | apply State.setPort_ok | apply State.set_ok | apply foldl_ok | apply foldlPair_ok | split)

theorem State.tryMap_ok (s : State) (p : Nat) (cols : List (List Nat)) (hok : s.memOk) : (State.tryMap s p cols).memOk := by
  unfold State.tryMap
  dsimp only
  repeat' (with_reducible first | assumption | apply State.setField_ok | apply State.takeMap_ok | split | exact ⟨ok_regs ‹_›, ok_hbm ‹_›⟩ | intro)

theorem State.decoded_ok (s : State) (p : Nat) (good : List Nat) (errs : Nat) (hok : s.memOk) : (State.decoded s p good errs).memOk := by
  unfold State.decoded
  repeat' (with_reducible first | assumption | apply State.updPort_ok | apply State.ber_ok | apply State.bump_ok | apply State.absorb_ok | apply State.tryIdent_ok | apply State.takeFlit_ok | apply foldl_ok | apply foldlPair_ok | split)

theorem State.uncorrectable_ok (s : State) (p : Nat) (syms : List Nat) (hok : s.memOk) : (State.uncorrectable s p syms).memOk := by
  unfold State.uncorrectable
  repeat' (with_reducible first | assumption | apply State.updPort_ok | apply State.lkCount_ok | apply State.absorb_ok | split)

theorem effCodeword_ok (p : Nat) (cols : List (List Nat)) (s : State) (hok : s.memOk) : (effCodeword p cols s).memOk := by
  unfold effCodeword
  dsimp only
  repeat' (with_reducible first | assumption | apply State.tryMap_ok | apply State.updPort_ok | apply State.bump64_ok | apply State.uncorrectable_ok | apply State.decoded_ok | split | exact ⟨ok_regs ‹_›, ok_hbm ‹_›⟩ | intro)

theorem State.lcPop_ok (s : State) (p : Nat) (hok : s.memOk) : (State.lcPop s p).memOk := by
  unfold State.lcPop
  repeat' (with_reducible first | assumption | apply State.updPort_ok | split)

theorem State.ackViol_ok (s : State) (p : Nat) (hok : s.memOk) : (State.ackViol s p).memOk := by
  unfold State.ackViol
  repeat' (with_reducible first | assumption | apply State.orBits_ok | apply State.bump_ok | split)

theorem State.acked_ok (s : State) (p vc a : Nat) (hok : s.memOk) : (State.acked s p vc a).memOk := by
  unfold State.acked
  dsimp only
  repeat' (with_reducible first | assumption | apply State.updChan_ok | apply State.ackViol_ok | split | exact ⟨ok_regs ‹_›, ok_hbm ‹_›⟩ | intro)

theorem State.offState_ok (s : State) (p vc : Nat) (off : Bool) (hok : s.memOk) : (State.offState s p vc off).memOk := by
  unfold State.offState
  dsimp only
  repeat' (with_reducible first | assumption | apply State.updChan_ok | apply State.lkCount_ok | apply State.setField_ok | split | exact ⟨ok_regs ‹_›, ok_hbm ‹_›⟩ | intro)

theorem effStatus_ok (p : Nat) (s : State) (hok : s.memOk) : (effStatus p s).memOk := by
  unfold effStatus
  dsimp only
  repeat' (with_reducible first | assumption | apply State.lcPop_ok | apply State.enterUp_ok | apply State.acked_ok | apply State.offState_ok | split | exact ⟨ok_regs ‹_›, ok_hbm ‹_›⟩ | intro)

theorem State.nakOne_ok (p vc : Nat) (s : State) (n : Nat) (hok : s.memOk) : (State.nakOne p vc s n).memOk := by
  unfold State.nakOne
  dsimp only
  repeat' (with_reducible first | assumption | apply State.lkCount_ok | apply State.updChan_ok | apply State.lcQueue_ok | apply State.bump_ok | split | exact ⟨ok_regs ‹_›, ok_hbm ‹_›⟩ | intro)

theorem effNak_ok (p : Nat) (s : State) (hok : s.memOk) : (effNak p s).memOk := by
  unfold effNak
  dsimp only
  repeat' (with_reducible first | assumption | apply State.lcPop_ok | apply State.nakOne_ok | apply foldl_ok | apply foldlPair_ok | split | exact ⟨ok_regs ‹_›, ok_hbm ‹_›⟩ | intro)

theorem effAbandon_ok (p : Nat) (s : State) (hok : s.memOk) : (effAbandon p s).memOk := by
  unfold effAbandon
  dsimp only
  repeat' (with_reducible first | assumption | apply State.lcPop_ok | apply State.ackViol_ok | apply State.updChan_ok | apply State.updPort_ok | apply State.orBits_ok | apply State.bump_ok | apply State.entryFails_ok | split | exact ⟨ok_regs ‹_›, ok_hbm ‹_›⟩ | intro)

theorem effLane_ok (p : Nat) (s : State) (hok : s.memOk) : (effLane p s).memOk := by
  unfold effLane
  dsimp only
  repeat' (with_reducible first | assumption | apply State.lcPop_ok | apply State.updPort_ok | split | exact ⟨ok_regs ‹_›, ok_hbm ‹_›⟩ | intro)

theorem State.identCheck_ok (s : State) (p : Nat) (hok : s.memOk) : (State.identCheck s p).memOk := by
  unfold State.identCheck
  dsimp only
  repeat' (with_reducible first | assumption | apply State.updPort_ok | apply State.setField_ok | apply State.setTrain_ok | apply State.idRefused_ok | split | exact ⟨ok_regs ‹_›, ok_hbm ‹_›⟩ | intro)

theorem effIdent0_ok (p : Nat) (s : State) (hok : s.memOk) : (effIdent0 p s).memOk := by
  unfold effIdent0
  dsimp only
  repeat' (with_reducible first | assumption | apply State.lcPop_ok | apply State.setField_ok | apply State.set_ok | apply State.set64_ok | apply State.identCheck_ok | apply State.updPort_ok | split | exact ⟨ok_regs ‹_›, ok_hbm ‹_›⟩ | intro)

theorem effIdent1_ok (p : Nat) (s : State) (hok : s.memOk) : (effIdent1 p s).memOk := by
  unfold effIdent1
  dsimp only
  repeat' (with_reducible first | assumption | apply State.lcPop_ok | apply State.setField_ok | apply State.set64_ok | apply State.identCheck_ok | apply State.updPort_ok | split | exact ⟨ok_regs ‹_›, ok_hbm ‹_›⟩ | intro)

theorem State.takeHeader_ok (s : State) (p h : Nat) (marks : List Nat) (hok : s.memOk) : (State.takeHeader s p h marks).memOk := by
  unfold State.takeHeader
  dsimp only
  repeat' (with_reducible first | assumption | apply State.updPort_ok | apply State.lkCount_ok | apply State.bump_ok | apply State.updChan_ok | apply State.nakAll_ok | apply State.updEntry_ok | apply State.orBits_ok | apply State.recordSub_ok | split | exact ⟨ok_regs ‹_›, ok_hbm ‹_›⟩ | intro)

theorem effPacketHeader_ok (p : Nat) (marks : List Nat) (s : State) (hok : s.memOk) : (effPacketHeader p marks s).memOk := by
  unfold effPacketHeader
  dsimp only
  repeat' (with_reducible first | assumption | apply State.setPort_ok | apply State.orBits_ok | apply State.lkCount_ok | apply State.bump_ok | apply State.nakAll_ok | apply State.absorb_ok | apply State.takeHeader_ok | split | exact ⟨ok_regs ‹_›, ok_hbm ‹_›⟩ | intro)

theorem State.entryConfirmed_ok (s : State) (p vc i : Nat) (k : RxPkt) (hok : s.memOk) : (State.entryConfirmed s p vc i k).memOk := by
  unfold State.entryConfirmed
  repeat' (with_reducible first | assumption | apply State.updEntry_ok | apply State.forwardClose_ok | split)

theorem effPacketTrailer_ok (p : Nat) (s : State) (hok : s.memOk) : (effPacketTrailer p s).memOk := by
  unfold effPacketTrailer
  repeat' (with_reducible first | assumption | apply State.updPort_ok | apply State.updChan_ok | apply State.entryConfirmed_ok | apply State.nakAll_ok | apply State.entryFails_ok | apply State.updEntry_ok | apply State.flow_ok | split)

theorem State.calNext_ok (s : State) (p : Nat) (hok : s.memOk) : (State.calNext s p).1.memOk := by
  unfold State.calNext
  repeat' (with_reducible first | assumption | apply State.updPort_ok | split)

theorem State.framedAll_ok (s : State) (p : Nat) (f : Framing) (hok : s.memOk) : (State.framedAll s p f).memOk := by
  unfold State.framedAll
  repeat' (with_reducible first | assumption | apply State.updChan_ok | apply State.updPort_ok | split)

theorem State.fill_ok (p n room : Nat) (s : State) (acc : List Byte) (bad : Bool) (hok : s.memOk) : (State.fill p n room s acc bad).1.memOk := by
  induction n generalizing room s acc bad with
  | zero => exact hok
  | succ n ih =>
    unfold State.fill
    dsimp only
    repeat' (with_reducible first | exact hok | apply ih | apply State.framedAll_ok | apply State.updPort_ok | split)

theorem State.nextFlit_ok (s : State) (p : Nat) (hok : s.memOk) : (State.nextFlit s p).1.memOk := by
  unfold State.nextFlit
  dsimp only
  repeat' (with_reducible first | assumption | apply State.lcNext_ok | apply State.fill_ok | apply State.calNext_ok | split | exact ⟨ok_regs ‹_›, ok_hbm ‹_›⟩ | intro)

theorem State.nextFlits_ok (p k : Nat) (s : State) (hok : s.memOk) : (State.nextFlits p k s).1.memOk := by
  induction k generalizing s with
  | zero => exact hok
  | succ k ih => exact ih _ (State.nextFlit_ok s p hok)

theorem State.codewordSlot_ok (s : State) (p : Nat) (hok : s.memOk) : (State.codewordSlot s p).memOk := by
  unfold State.codewordSlot
  repeat' (with_reducible first | assumption | apply State.closePeriod_ok | apply State.nextFlits_ok | apply State.sendCodeword_ok | split)

theorem State.frameSlot_ok (s : State) (p : Nat) (hok : s.memOk) : (State.frameSlot s p).memOk := by
  unfold State.frameSlot
  dsimp only
  repeat' (with_reducible first | assumption | apply State.codewordSlot_ok | split | exact ⟨ok_regs ‹_›, ok_hbm ‹_›⟩ | intro)

theorem effLinkControlSend_ok (p : Nat) (s : State) (hok : s.memOk) : (effLinkControlSend p s).memOk := by
  unfold effLinkControlSend
  repeat' (with_reducible first | assumption | apply State.updPort_ok | split)

theorem State.leapSend_ok (s : State) (p : Nat) (f : State → State) (hf : ∀ y0, y0.memOk → (f y0).memOk) (hok : s.memOk) : (State.leapSend s p f).memOk := by
  unfold State.leapSend
  repeat' (with_reducible first | assumption | apply State.frameBit_ok | apply State.updPort_ok | apply hf | split)

theorem State.fireOpt_ok (s : State) (m : Option Masque) (hok : s.memOk) : (State.fireOpt s m).memOk := by
  unfold State.fireOpt
  repeat' (with_reducible first | assumption | apply State.masqueFire_ok | split)

theorem State.toFramer_ok (s : State) (p vc : Nat) (x : TxPkt) (badCrc badCw : Bool) (hok : s.memOk) : (State.toFramer s p vc x badCrc badCw).memOk := by
  unfold State.toFramer
  repeat' (with_reducible first | assumption | apply State.updPort_ok | apply State.emit_ok | split)

theorem State.transmit_ok (s : State) (p vc : Nat) (x : TxPkt) (hok : s.memOk) : (State.transmit s p vc x).memOk := by
  unfold State.transmit
  dsimp only
  repeat' (with_reducible first | assumption | apply State.updChan_ok | apply State.toFramer_ok | apply State.updPort_ok | apply State.fireOpt_ok | apply State.lcQueue_ok | apply State.bump_ok | split | exact ⟨ok_regs ‹_›, ok_hbm ‹_›⟩ | intro)

theorem effPacketTransmit_ok (p vc : Nat) (s : State) (hok : s.memOk) : (effPacketTransmit p vc s).memOk := by
  unfold effPacketTransmit
  dsimp only
  repeat' (with_reducible first | assumption | apply State.updChan_ok | apply State.lkCount_ok | apply State.leapSend_ok | apply State.transmit_ok | split | exact ⟨ok_regs ‹_›, ok_hbm ‹_›⟩ | intro)

theorem effReplayTimeout_ok (p vc : Nat) (s : State) (hok : s.memOk) : (effReplayTimeout p vc s).memOk := by
  unfold effReplayTimeout
  repeat' (with_reducible first | assumption | apply State.updChan_ok | apply State.lcQueue_ok | apply State.bump_ok | split)

theorem State.resend_ok (s : State) (p vc : Nat) (x : TxPkt) (hok : s.memOk) : (State.resend s p vc x).memOk := by
  unfold State.resend
  repeat' (with_reducible first | assumption | apply State.lkCount_ok | apply State.bump_ok | apply State.updChan_ok | apply State.toFramer_ok | split)

theorem effPacketReplay_ok (p : Nat) (s : State) (hok : s.memOk) : (effPacketReplay p s).memOk := by
  unfold effPacketReplay
  try dsimp only
  repeat' (with_reducible first | assumption | apply State.leapSend_ok | apply State.resend_ok | split | (simp only [memOk_mk]; refine ⟨?_, ?_⟩) | apply ok_regs | apply ok_hbm | intro)

theorem effPeerVigil_ok (p vc : Nat) (s : State) (hok : s.memOk) : (effPeerVigil p vc s).memOk := by
  unfold effPeerVigil
  dsimp only
  repeat' (with_reducible first | assumption | apply State.record_ok | apply State.orBits_ok | apply State.updChan_ok | split | exact ⟨ok_regs ‹_›, ok_hbm ‹_›⟩ | intro)

theorem State.takeLine_ok (s : State) (p vc k : Nat) (hok : s.memOk) : (State.takeLine s p vc k).memOk := by
  unfold State.takeLine
  repeat' (with_reducible first | assumption | apply State.updPort_ok | apply State.flow_ok | apply State.updChan_ok | split)

theorem State.release_ok (s : State) (p vc k : Nat) (failed : Bool) (hok : s.memOk) : (State.release s p vc k failed).memOk := by
  unfold State.release
  repeat' (with_reducible first | assumption | apply State.flow_ok | apply State.updChan_ok | split)

theorem State.portInject_ok (s : State) (p : Nat) (a : ArrEntry) (e : Nat) (dest : PktDest) (t : Nat) (ls : List Line) (hok : s.memOk) : (State.portInject s p a e dest t ls).memOk := by
  unfold State.portInject
  repeat' (with_reducible first | assumption | apply State.inject_ok | split)

theorem effRegularDelivery_ok (p vc k j : Nat) (s : State) (hok : s.memOk) : (effRegularDelivery p vc k j s).memOk := by
  unfold effRegularDelivery
  dsimp only
  repeat' (with_reducible first | assumption | apply State.updEntry_ok | apply State.portInject_ok | apply State.takeLine_ok | apply foldl_ok | apply foldlPair_ok | split | exact ⟨ok_regs ‹_›, ok_hbm ‹_›⟩ | intro)

theorem State.tellTile_ok (s : State) (p : Nat) (a : ArrEntry) (e code t : Nat) (hok : s.memOk) : (State.tellTile s p a e code t).memOk := by
  unfold State.tellTile
  repeat' (with_reducible first | assumption | apply State.portInject_ok | split)

theorem State.syncLost_ok (s : State) (ctx eff : Nat) (a : ArrEntry) (hok : s.memOk) : (State.syncLost s ctx eff a).memOk := by
  unfold State.syncLost
  repeat' (with_reducible first | assumption | apply State.xlateFault_ok | apply State.syncPart_ok | apply State.syncErr_ok | split)

theorem State.syncPacket_ok (s : State) (a : ArrEntry) (d eff : Nat) (hok : s.memOk) : (State.syncPacket s a d eff).memOk := by
  unfold State.syncPacket
  repeat' (with_reducible first | assumption | apply State.xlateFault_ok | apply State.syncAdd_ok | apply State.syncPart_ok | apply State.syncLost_ok | apply State.bump_ok | split)

theorem State.exchPush_ok (s : State) (p : Nat) (r : FRec) (hok : s.memOk) : (State.exchPush s p r).memOk := by
  unfold State.exchPush
  try dsimp only
  repeat' (with_reducible first | assumption | apply State.exchDrop_ok | split | (simp only [memOk_mk]; refine ⟨?_, ?_⟩) | apply ok_regs | apply ok_hbm | intro)

theorem State.exchRecord_ok (s : State) (r : FRec) (hok : s.memOk) : (State.exchRecord s r).memOk := by
  unfold State.exchRecord
  dsimp only
  repeat' (with_reducible first | assumption | apply State.flRaise_ok | apply State.exchPush_ok | split | exact ⟨ok_regs ‹_›, ok_hbm ‹_›⟩ | intro)

theorem State.exchTake_ok (s : State) (p : Nat) (lines : List LineBits) (hok : s.memOk) : (State.exchTake s p lines).memOk := by
  unfold State.exchTake
  try dsimp only
  repeat' (with_reducible first | assumption | apply State.bump_ok | apply State.exchRecord_ok | apply foldl_ok | apply foldlPair_ok | split | (simp only [memOk_mk]; refine ⟨?_, ?_⟩) | apply ok_regs | apply ok_hbm | intro)

theorem State.settle_ok (s : State) (p vc k : Nat) (a : ArrEntry) (t : Nat) (hok : s.memOk) : (State.settle s p vc k a t).memOk := by
  unfold State.settle
  repeat' (with_reducible first | assumption | apply State.release_ok | apply State.syncPacket_ok | apply State.exchTake_ok | split)

theorem effNoticeConfirm_ok (p vc k : Nat) (s : State) (hok : s.memOk) : (effNoticeConfirm p vc k s).memOk := by
  unfold effNoticeConfirm
  repeat' (with_reducible first | assumption | apply State.updEntry_ok | apply State.release_ok | apply State.tellTile_ok | apply State.settle_ok | split)

theorem effNoticeFail_ok (p vc k : Nat) (s : State) (hok : s.memOk) : (effNoticeFail p vc k s).memOk := by
  unfold effNoticeFail
  repeat' (with_reducible first | assumption | apply State.release_ok | apply State.tellTile_ok | apply State.updEntry_ok | split)

theorem effNoticeLeap_ok (p vc k : Nat) (s : State) (hok : s.memOk) : (effNoticeLeap p vc k s).memOk := by
  unfold effNoticeLeap
  repeat' (with_reducible first | assumption | apply State.updEntry_ok | apply State.tellTile_ok | apply State.settle_ok | split)

theorem effNoticeDead_ok (p vc k : Nat) (s : State) (hok : s.memOk) : (effNoticeDead p vc k s).memOk := by
  unfold effNoticeDead
  repeat' (with_reducible first | assumption | apply State.updEntry_ok | apply State.tellTile_ok | apply State.syncLost_ok | split)

theorem effLeapDelivery_ok (p vc k : Nat) (s : State) (hok : s.memOk) : (effLeapDelivery p vc k s).memOk := by
  unfold effLeapDelivery
  repeat' (with_reducible first | assumption | apply State.updEntry_ok | apply State.frameBit_ok | apply State.release_ok | apply State.portInject_ok | split)

theorem effRangeResolve_ok (n t e : Nat) (s : State) (hok : s.memOk) : (effRangeResolve n t e s).memOk := by
  unfold effRangeResolve
  repeat' (with_reducible first | assumption | apply State.tileEvent_ok | split)

theorem effReexecution_ok (n t : Nat) (s : State) (hok : s.memOk) : (effReexecution n t s).memOk := by
  unfold effReexecution
  repeat' (with_reducible first | assumption | apply State.tileEvent_ok | split)

theorem effForwardLine_ok (p vc k j : Nat) (s : State) (hok : s.memOk) : (effForwardLine p vc k j s).memOk := by
  unfold effForwardLine
  dsimp only
  repeat' (with_reducible first | assumption | apply State.updEntry_ok | apply State.takeLine_ok | apply State.portInject_ok | apply State.forwardAbandon_ok | apply State.release_ok | split | exact ⟨ok_regs ‹_›, ok_hbm ‹_›⟩ | intro)

theorem effStoreAndForward_ok (p vc k : Nat) (s : State) (hok : s.memOk) : (effStoreAndForward p vc k s).memOk := by
  unfold effStoreAndForward
  repeat' (with_reducible first | assumption | apply State.updEntry_ok | apply State.frameBit_ok | apply State.bump_ok | apply State.release_ok | apply State.portInject_ok | split)

theorem State.deadlineFault_ok (s : State) (p : Nat) (a : ArrEntry) (r : EntryRun) (frame ctx : Nat) (hok : s.memOk) : (State.deadlineFault s p a r frame ctx).memOk := by
  unfold State.deadlineFault
  repeat' (with_reducible first | assumption | apply State.frameBit_ok | apply State.orBits_ok | apply State.bump_ok | apply State.exchPush_ok | apply State.flRaise_ok | apply State.syncLost_ok | split)

theorem State.deadlineNow_ok (s : State) (p vc k : Nat) (hok : s.memOk) : (State.deadlineNow s p vc k).memOk := by
  unfold State.deadlineNow
  dsimp only
  repeat' (with_reducible first | assumption | apply State.deadlineFault_ok | apply State.updEntry_ok | split | exact ⟨ok_regs ‹_›, ok_hbm ‹_›⟩ | intro)

theorem effDeadlineFault_ok (p vc k : Nat) (s : State) (hok : s.memOk) : (effDeadlineFault p vc k s).memOk := by
  unfold effDeadlineFault
  dsimp only
  repeat' (with_reducible first | assumption | apply State.deadlineFault_ok | apply State.updPort_ok | apply State.deadlineNow_ok | split | exact ⟨ok_regs ‹_›, ok_hbm ‹_›⟩ | intro)

theorem State.wallValid_ok (s : State) (hok : s.memOk) : (State.wallValid s).memOk := by
  unfold State.wallValid
  repeat' (with_reducible first | assumption | apply State.setField_ok | split)

theorem State.setCounterState_ok (s : State) (k : Nat) (hok : s.memOk) : (State.setCounterState s k).memOk := by
  unfold State.setCounterState
  dsimp only
  repeat' (with_reducible first | assumption | apply State.wallValid_ok | apply State.setField_ok | apply foldl_ok | apply foldlPair_ok | split | exact ⟨ok_regs ‹_›, ok_hbm ‹_›⟩ | intro)

theorem effStepRequest_ok (a : Agent) (val : W32) (s : State) (hok : s.memOk) : (effStepRequest a val s).memOk := by
  unfold effStepRequest
  repeat' (with_reducible first | assumption | apply State.touch_ok | apply State.ignored_ok | apply State.stepAsk_ok | split)

theorem effStepChange_ok (s : State) (hok : s.memOk) : (effStepChange s).memOk := by
  unfold effStepChange
  repeat' (with_reducible first | assumption | apply State.stepNow_ok | split)

theorem State.marginRead_ok (s : State) (r m : Nat) (hok : s.memOk) : (State.marginRead s r m).memOk := by
  unfold State.marginRead
  try dsimp only
  repeat' (with_reducible first | assumption | apply State.set_ok | apply foldl_ok | apply foldlPair_ok | split | (simp only [memOk_mk]; refine ⟨?_, ?_⟩) | apply ok_regs | apply ok_hbm | intro)

theorem State.firmwareLower_ok (s : State) (dst : Nat) (hok : s.memOk) : (State.firmwareLower s dst).memOk := by
  unfold State.firmwareLower
  repeat' (with_reducible first | assumption | apply State.firmwareAsk_ok | apply State.stepAsk_ok | split)

theorem effMarginWarning_ok (r m : Nat) (s : State) (hok : s.memOk) : (effMarginWarning r m s).memOk := by
  unfold effMarginWarning
  try dsimp only
  repeat' (with_reducible first | assumption | apply State.marginRead_ok | apply State.orBits_ok | apply State.bump_ok | apply State.raiseVec_ok | apply State.record_ok | apply State.firmwareLower_ok | split | (simp only [memOk_mk]; refine ⟨?_, ?_⟩) | apply ok_regs | apply ok_hbm | intro)

theorem effMarginWarnEpisodeEnd_ok (s : State) (hok : s.memOk) : (effMarginWarnEpisodeEnd s).memOk := by
  unfold effMarginWarnEpisodeEnd
  try dsimp only
  repeat' (with_reducible first | assumption | split | (simp only [memOk_mk]; refine ⟨?_, ?_⟩) | apply ok_regs | apply ok_hbm | intro)

theorem effMarginCritical_ok (r m : Nat) (s : State) (hok : s.memOk) : (effMarginCritical r m s).memOk := by
  unfold effMarginCritical
  try dsimp only
  repeat' (with_reducible first | assumption | apply State.marginRead_ok | apply State.record_ok | apply State.orBits_ok | apply State.setField_ok | apply State.cause_ok | apply State.firmwareLower_ok | split | (simp only [memOk_mk]; refine ⟨?_, ?_⟩) | apply ok_regs | apply ok_hbm | intro)

theorem State.timeFault_ok (s : State) (detail : Nat) (hok : s.memOk) : (State.timeFault s detail).memOk := by
  unfold State.timeFault
  try dsimp only
  repeat' (with_reducible first | assumption | apply State.recordInj_ok | apply State.bump_ok | apply State.orBits_ok | apply State.setCounterState_ok | apply State.cause_ok | split | (simp only [memOk_mk]; refine ⟨?_, ?_⟩) | apply ok_regs | apply ok_hbm | intro)

theorem effCounterCompare_ok (s : State) (hok : s.memOk) : (effCounterCompare s).memOk := by
  unfold effCounterCompare
  repeat' (with_reducible first | assumption | apply State.timeFault_ok | split)

theorem effReferenceLoss_ok (s : State) (hok : s.memOk) : (effReferenceLoss s).memOk := by
  unfold effReferenceLoss
  try dsimp only
  repeat' (with_reducible first | assumption | apply State.record_ok | apply State.orBits_ok | apply State.setField_ok | split | (simp only [memOk_mk]; refine ⟨?_, ?_⟩) | apply ok_regs | apply ok_hbm | intro)

theorem effHoldoverLimit_ok (s : State) (hok : s.memOk) : (effHoldoverLimit s).memOk := by
  unfold effHoldoverLimit
  try dsimp only
  repeat' (with_reducible first | assumption | apply State.timeFault_ok | split | (simp only [memOk_mk]; refine ⟨?_, ?_⟩) | apply ok_regs | apply ok_hbm | intro)

theorem State.onPrimary_ok (s : State) (hok : s.memOk) : (State.onPrimary s).memOk := by
  unfold State.onPrimary
  try dsimp only
  repeat' (with_reducible first | assumption | apply State.setField_ok | split | (simp only [memOk_mk]; refine ⟨?_, ?_⟩) | apply ok_regs | apply ok_hbm | intro)

theorem State.setRef_ok (s : State) (v : Nat) (hok : s.memOk) : (State.setRef s v).memOk := by
  unfold State.setRef
  try dsimp only
  repeat' (with_reducible first | assumption | apply State.setField_ok | apply State.set_ok | split | (simp only [memOk_mk]; refine ⟨?_, ?_⟩) | apply ok_regs | apply ok_hbm | intro)

theorem effReferenceRecovery_ok (s : State) (hok : s.memOk) : (effReferenceRecovery s).memOk := by
  unfold effReferenceRecovery
  repeat' (with_reducible first | assumption | apply State.onPrimary_ok | split)

theorem effTimePllLock_ok (s : State) (hok : s.memOk) : (effTimePllLock s).memOk := by
  unfold effTimePllLock
  repeat' (with_reducible first | assumption | apply State.onPrimary_ok | split)

theorem State.loadCounter_ok (s : State) (v phase : Nat) (hok : s.memOk) : (State.loadCounter s v phase).memOk := by
  unfold State.loadCounter
  try dsimp only
  repeat' (with_reducible first | assumption | split | (simp only [memOk_mk]; refine ⟨?_, ?_⟩) | apply ok_regs | apply ok_hbm | intro)

theorem State.eqxStatus_ok (s : State) (status st : Nat) (hok : s.memOk) : (State.eqxStatus s status st).memOk := by
  unfold State.eqxStatus
  repeat' (with_reducible first | assumption | apply State.raiseVec_ok | apply State.setField_ok | split)

theorem State.eqxSet_ok (s : State) (hok : s.memOk) : (State.eqxSet s).memOk := by
  unfold State.eqxSet
  try dsimp only
  repeat' (with_reducible first | assumption | apply State.eqxStatus_ok | apply State.setCounterState_ok | apply State.loadCounter_ok | split | (simp only [memOk_mk]; refine ⟨?_, ?_⟩) | apply ok_regs | apply ok_hbm | intro)

theorem State.dropExchanges_ok (s : State) (hok : s.memOk) : (State.dropExchanges s).memOk := by
  unfold State.dropExchanges
  try dsimp only
  repeat' (with_reducible first | assumption | apply State.set_ok | apply State.updPort_ok | apply foldl_ok | apply foldlPair_ok | split | (simp only [memOk_mk]; refine ⟨?_, ?_⟩) | apply ok_regs | apply ok_hbm | intro)

theorem effEquinoxStart_ok (a : Agent) (val : W32) (s : State) (hok : s.memOk) : (effEquinoxStart a val s).memOk := by
  unfold effEquinoxStart
  try dsimp only
  repeat' (with_reducible first | assumption | apply State.touch_ok | apply State.ignored_ok | apply State.raiseVec_ok | apply State.setField_ok | apply State.dropExchanges_ok | apply State.eqxStatus_ok | apply State.eqxSet_ok | apply State.setCounterState_ok | apply State.loadCounter_ok | split | (simp only [memOk_mk]; refine ⟨?_, ?_⟩) | apply ok_regs | apply ok_hbm | intro)

theorem effPpsEdge_ok (s : State) (hok : s.memOk) : (effPpsEdge s).memOk := by
  unfold effPpsEdge
  try dsimp only
  repeat' (with_reducible first | assumption | apply State.orBits_ok | apply State.set64_ok | apply State.eqxSet_ok | split | (simp only [memOk_mk]; refine ⟨?_, ?_⟩) | apply ok_regs | apply ok_hbm | intro)

theorem State.eqxFail_ok (s : State) (detail : Nat) (hok : s.memOk) : (State.eqxFail s detail).memOk := by
  unfold State.eqxFail
  try dsimp only
  repeat' (with_reducible first | assumption | apply State.setCounterState_ok | apply State.record_ok | apply State.eqxStatus_ok | apply State.orBits_ok | split | (simp only [memOk_mk]; refine ⟨?_, ?_⟩) | apply ok_regs | apply ok_hbm | intro)

theorem effEquinoxPpsTimeout_ok (s : State) (hok : s.memOk) : (effEquinoxPpsTimeout s).memOk := by
  unfold effEquinoxPpsTimeout
  repeat' (with_reducible first | assumption | apply State.eqxFail_ok | split)

theorem effEquinoxTrialTimeout_ok (s : State) (hok : s.memOk) : (effEquinoxTrialTimeout s).memOk := by
  unfold effEquinoxTrialTimeout
  repeat' (with_reducible first | assumption | apply State.eqxFail_ok | split)

theorem effEquinoxCorrection_ok (s : State) (hok : s.memOk) : (effEquinoxCorrection s).memOk := by
  unfold effEquinoxCorrection
  try dsimp only
  repeat' (with_reducible first | assumption | apply State.loadCounter_ok | apply State.eqxStatus_ok | apply State.setCounterState_ok | apply State.set64_ok | apply State.dropExchanges_ok | split | (simp only [memOk_mk]; refine ⟨?_, ?_⟩) | apply ok_regs | apply ok_hbm | intro)

theorem effCalendsMarkerSend_ok (p : Nat) (s : State) (hok : s.memOk) : (effCalendsMarkerSend p s).memOk := by
  unfold effCalendsMarkerSend
  dsimp only
  repeat' (with_reducible first | assumption | apply State.updPort_ok | split | exact ⟨ok_regs ‹_›, ok_hbm ‹_›⟩ | intro)

theorem State.setReplayTimeout_ok (s : State) (p : Nat) (hok : s.memOk) : (State.setReplayTimeout s p).memOk := by
  unfold State.setReplayTimeout
  repeat' (with_reducible first | assumption | apply State.setField_ok | split)

theorem State.portMeans_ok (s : State) (p : Nat) (valid : Bool) (hok : s.memOk) : (State.portMeans s p valid).memOk := by
  unfold State.portMeans
  dsimp only
  repeat' (with_reducible first | assumption | apply State.set_ok | apply foldl_ok | apply foldlPair_ok | split | exact ⟨ok_regs ‹_›, ok_hbm ‹_›⟩ | intro)

theorem State.neighbour_ok (s : State) (p : Nat) (hok : s.memOk) : (State.neighbour s p).memOk := by
  unfold State.neighbour
  dsimp only
  repeat' (with_reducible first | assumption | apply State.record_ok | apply State.orBits_ok | apply State.updPort_ok | split | exact ⟨ok_regs ‹_›, ok_hbm ‹_›⟩ | intro)

theorem State.exchange_ok (s : State) (p t1 t2 t3 t4 : Nat) (hok : s.memOk) : (State.exchange s p t1 t2 t3 t4).memOk := by
  unfold State.exchange
  try dsimp only
  repeat' (with_reducible first | assumption | apply State.updPort_ok | apply State.setField_ok | split | (simp only [memOk_mk]; refine ⟨?_, ?_⟩) | apply ok_regs | apply ok_hbm | intro)

theorem effCalendsMarker_ok (p : Nat) (s : State) (hok : s.memOk) : (effCalendsMarker p s).memOk := by
  unfold effCalendsMarker
  dsimp only
  repeat' (with_reducible first | assumption | apply State.updPort_ok | apply State.lkCount_ok | apply State.setField_ok | apply State.exchange_ok | apply State.setReplayTimeout_ok | apply State.neighbour_ok | apply State.portMeans_ok | split | exact ⟨ok_regs ‹_›, ok_hbm ‹_›⟩ | intro)

theorem effPtpSync_ok (off : W64) (s : State) (hok : s.memOk) : (effPtpSync off s).memOk := by
  unfold effPtpSync
  try dsimp only
  repeat' (with_reducible first | assumption | apply State.wallValid_ok | apply State.set64_ok | split | (simp only [memOk_mk]; refine ⟨?_, ?_⟩) | apply ok_regs | apply ok_hbm | intro)

theorem State.hbmLines_ok (s : State) (hla : Nat) (x0 : Nat) (hok : s.memOk) : (State.hbmLines s hla x0).1.memOk := by
  induction x0 with
  | zero => exact hok
  | succ k ih => exact State.hbmHostRead_ok _ _ _ ih

theorem State.loaderReply_ok (s : State) (r : Req) (op status reason locus : Nat) (hok : s.memOk) : (State.loaderReply s r op status reason locus).memOk := by
  unfold State.loaderReply
  repeat' (with_reducible first | assumption | apply State.set_ok | apply State.reply_ok | apply State.raiseVec_ok | split)

theorem State.loaderDo_ok (s : State) (r : Req) (op : Nat) (f : List W32 → State) (hf : ∀ y0, (f y0).memOk) (hok : s.memOk) : (State.loaderDo s r op f).memOk := by
  unfold State.loaderDo
  repeat' (with_reducible first | assumption | apply State.loaderReply_ok | apply hf | split)

theorem State.checkImage_ok (s : State) (hla len : Nat) (reuse : Bool) (hok : s.memOk) : (State.checkImage s hla len reuse).1.memOk := by
  unfold State.checkImage
  dsimp only
  repeat' (with_reducible first | assumption | apply State.hbmLines_ok | split | exact ⟨ok_regs ‹_›, ok_hbm ‹_›⟩ | intro)

theorem State.loadStep3_ok (s : State) (p : Plan) (hok : s.memOk) : (State.loadStep3 s p).memOk := by
  unfold State.loadStep3
  try dsimp only
  repeat' (with_reducible first | assumption | apply State.portCtrl_ok | apply State.set_ok | apply State.set64_ok | apply foldl_ok | apply foldlPair_ok | split | (simp only [memOk_mk]; refine ⟨?_, ?_⟩) | apply ok_regs | apply ok_hbm | intro)

theorem State.loadStep4_ok (s : State) (p : Plan) (debug : Bool) (hok : s.memOk) : (State.loadStep4 s p debug).memOk := by
  unfold State.loadStep4
  dsimp only
  repeat' (with_reducible first | assumption | apply State.setTile_ok | apply State.set_ok | apply foldl_ok | apply foldlPair_ok | split | exact ⟨ok_regs ‹_›, ok_hbm ‹_›⟩ | intro)

theorem State.loadStep5_ok (s : State) (p : Plan) (hok : s.memOk) : (State.loadStep5 s p).memOk := by
  unfold State.loadStep5
  dsimp only
  repeat' (with_reducible first | assumption | apply State.setTile_ok | apply State.hbmWrite_ok | apply foldl_ok | apply foldlPair_ok | split | exact ⟨ok_regs ‹_›, ok_hbm ‹_›⟩ | intro)

theorem State.loadWindows_ok (s : State) (p : Plan) (c x : Nat) (hok : s.memOk) : (State.loadWindows s p c x).memOk := by
  unfold State.loadWindows
  dsimp only
  repeat' (with_reducible first | assumption | apply State.set_ok | apply foldl_ok | apply foldlPair_ok | split | exact ⟨ok_regs ‹_›, ok_hbm ‹_›⟩ | intro)

theorem State.loadStep6_ok (s : State) (p : Plan) (hok : s.memOk) : (State.loadStep6 s p).memOk := by
  unfold State.loadStep6
  try dsimp only
  repeat' (with_reducible first | assumption | apply State.set_ok | apply State.loadWindows_ok | apply State.setCounter_ok | apply State.clrBits_ok | apply State.setRef_ok | apply foldl_ok | apply foldlPair_ok | split | (simp only [memOk_mk]; refine ⟨?_, ?_⟩) | apply ok_regs | apply ok_hbm | intro)

theorem State.loadStep7_ok (s : State) (p : Plan) (l : Loading) (hok : s.memOk) : (State.loadStep7 s p l).memOk := by
  unfold State.loadStep7
  try dsimp only
  repeat' (with_reducible first | assumption | apply State.portCtrl_ok | apply State.setField_ok | apply State.enter_ok | apply State.set_ok | apply foldl_ok | apply foldlPair_ok | split | (simp only [memOk_mk]; refine ⟨?_, ?_⟩) | apply ok_regs | apply ok_hbm | intro)

theorem State.load_ok (s : State) (r : Req) (ws : List W32) (reuse : Bool) (hok : s.memOk) : (State.load s r ws reuse).memOk := by
  unfold State.load
  split
  · exact State.loaderReply_ok _ _ _ _ _ _ hok
  · split
    · split
      · exact State.loaderReply_ok _ _ _ _ _ _ hok
      · dsimp only
        split
        · simp only [memOk_mk]
          exact State.setChnl_ok _ _ _ hok
        · exact memOk_same hok rfl rfl
    · dsimp only
      have hc := State.checkImage_ok s (stagingOf ws).1 (stagingOf ws).2 reuse hok
      split <;> rename_i h <;> rw [h] at hc
      · exact State.loaderReply_ok _ _ _ _ _ _ hc
      · rename_i p _
        have k3 := State.loadStep3_ok _ p (State.enter_ok _ psLoading hc)
        have k4 := State.loadStep4_ok _ p (bitAt (word ws 0) 0) k3
        exact memOk_same (State.loadStep6_ok _ p (State.loadStep5_ok _ p k4)) rfl rfl

theorem effPlLoad_ok (r : Req) (s : State) (hok : s.memOk) : (effPlLoad r s).memOk := by
  unfold effPlLoad
  try dsimp only
  repeat' (with_reducible first | assumption | apply State.loaderDo_ok | apply State.load_ok | split | (simp only [memOk_mk]; refine ⟨?_, ?_⟩) | apply ok_regs | apply ok_hbm | intro)

theorem effPlLoadReuse_ok (r : Req) (s : State) (hok : s.memOk) : (effPlLoadReuse r s).memOk := by
  unfold effPlLoadReuse
  try dsimp only
  repeat' (with_reducible first | assumption | apply State.loaderDo_ok | apply State.load_ok | split | (simp only [memOk_mk]; refine ⟨?_, ?_⟩) | apply ok_regs | apply ok_hbm | intro)

theorem effHeldLoadBegin_ok (s : State) (hok : s.memOk) : (effHeldLoadBegin s).memOk := by
  unfold effHeldLoadBegin
  try dsimp only
  repeat' (with_reducible first | assumption | apply State.setChnl_ok | apply State.load_ok | split | (simp only [memOk_mk]; refine ⟨?_, ?_⟩) | apply ok_regs | apply ok_hbm | intro)

theorem State.loadFault_ok (s : State) (l : Loading) (hok : s.memOk) : (State.loadFault s l).memOk := by
  unfold State.loadFault
  try dsimp only
  repeat' (with_reducible first | assumption | apply State.draw_ok | apply State.record_ok | apply State.setRef_ok | apply State.loaderReply_ok | apply State.enter_ok | apply State.set_ok | split | (simp only [memOk_mk]; refine ⟨?_, ?_⟩) | apply ok_regs | apply ok_hbm | intro)

theorem effLoadCompletion_ok (fault : Bool) (s : State) (hok : s.memOk) : (effLoadCompletion fault s).memOk := by
  unfold effLoadCompletion
  repeat' (with_reducible first | assumption | apply State.loadFault_ok | apply State.loaderReply_ok | apply State.loadStep7_ok | split)

theorem effPlVerify_ok (r : Req) (s : State) (hok : s.memOk) : (effPlVerify r s).memOk := by
  unfold effPlVerify
  apply State.loaderDo_ok
  · intro ws
    split
    · exact State.loaderReply_ok _ _ _ _ _ _ hok
    · have hc := State.checkImage_ok s (stagingOf ws).1 (stagingOf ws).2 false hok
      split <;> rename_i h <;> rw [h] at hc <;> exact State.loaderReply_ok _ _ _ _ _ _ hc
  · exact hok

theorem State.storeLibrary_ok (s : State) (hok : s.memOk) : (State.storeLibrary s).memOk := by
  unfold State.storeLibrary
  try dsimp only
  repeat' (with_reducible first | assumption | apply State.setField_ok | split | (simp only [memOk_mk]; refine ⟨?_, ?_⟩) | apply ok_regs | apply ok_hbm | intro)

theorem State.unload_ok (s : State) (hok : s.memOk) : (State.unload s).memOk := by
  unfold State.unload
  try dsimp only
  repeat' (with_reducible first | assumption | apply State.set_ok | apply State.set64_ok | apply State.setTile_ok | apply State.clrBits_ok | apply State.portCtrl_ok | apply State.setRef_ok | apply State.storeLibrary_ok | apply State.enter_ok | apply foldl_ok | apply foldlPair_ok | split | (simp only [memOk_mk]; refine ⟨?_, ?_⟩) | apply ok_regs | apply ok_hbm | intro)

theorem effPlUnload_ok (r : Req) (s : State) (hok : s.memOk) : (effPlUnload r s).memOk := by
  unfold effPlUnload
  dsimp only
  repeat' (with_reducible first | assumption | apply State.loaderDo_ok | apply State.loaderReply_ok | apply State.unload_ok | split | exact ⟨ok_regs ‹_›, ok_hbm ‹_›⟩ | intro)

theorem State.armNow_ok (s : State) (t0 : Nat) (part : Bool) (hok : s.memOk) : (State.armNow s t0 part).memOk := by
  unfold State.armNow
  try dsimp only
  repeat' (with_reducible first | assumption | apply State.setField_ok | apply State.stepNow_ok | apply State.set64_ok | apply State.enter_ok | split | (simp only [memOk_mk]; refine ⟨?_, ?_⟩) | apply ok_regs | apply ok_hbm | intro)

theorem effPlArm_ok (r : Req) (s : State) (hok : s.memOk) : (effPlArm r s).memOk := by
  unfold effPlArm
  dsimp only
  repeat' (with_reducible first | assumption | apply State.loaderDo_ok | apply State.loaderReply_ok | apply State.armNow_ok | split | exact ⟨ok_regs ‹_›, ok_hbm ‹_›⟩ | intro)

theorem State.flushShadow_ok (s : State) (hok : s.memOk) : (State.flushShadow s).memOk := by
  unfold State.flushShadow
  try dsimp only
  repeat' (with_reducible first | assumption | apply State.poke_ok | apply foldl_ok | apply foldlPair_ok | split | (simp only [memOk_mk]; refine ⟨?_, ?_⟩) | apply ok_regs | apply ok_hbm | intro)

theorem State.stopBy_ok (s : State) (k : Nat) (hok : s.memOk) : (State.stopBy s k).memOk := by
  unfold State.stopBy
  try dsimp only
  repeat' (with_reducible first | assumption | split | (simp only [memOk_mk]; refine ⟨?_, ?_⟩) | apply ok_regs | apply ok_hbm | intro)

theorem State.planStop_ok (s : State) (hok : s.memOk) : (State.planStop s).memOk := by
  unfold State.planStop
  try dsimp only
  repeat' (with_reducible first | assumption | apply State.stopBy_ok | apply State.flushShadow_ok | apply State.enter_ok | apply State.setField_ok | split | (simp only [memOk_mk]; refine ⟨?_, ?_⟩) | apply ok_regs | apply ok_hbm | intro)

theorem effPlStop_ok (r : Req) (s : State) (hok : s.memOk) : (effPlStop r s).memOk := by
  unfold effPlStop
  try dsimp only
  repeat' (with_reducible first | assumption | apply State.loaderDo_ok | apply State.loaderReply_ok | apply State.planStop_ok | split | (simp only [memOk_mk]; refine ⟨?_, ?_⟩) | apply ok_regs | apply ok_hbm | intro)

theorem effPlAction_ok (r : Req) (s : State) (hok : s.memOk) : (effPlAction r s).memOk := by
  unfold effPlAction
  try dsimp only
  repeat' (with_reducible first | assumption | apply State.loaderDo_ok | apply State.loaderReply_ok | apply State.bump_ok | split | (simp only [memOk_mk]; refine ⟨?_, ?_⟩) | apply ok_regs | apply ok_hbm | intro)

theorem effIntercalaryRequest_ok (a : Agent) (val : W32) (s : State) (hok : s.memOk) : (effIntercalaryRequest a val s).memOk := by
  unfold effIntercalaryRequest
  try dsimp only
  repeat' (with_reducible first | assumption | apply State.touch_ok | apply State.ignored_ok | apply State.setField_ok | split | (simp only [memOk_mk]; refine ⟨?_, ?_⟩) | apply ok_regs | apply ok_hbm | intro)

theorem State.hwinDeny_ok (s : State) (hok : s.memOk) : (State.hwinDeny s).memOk := by
  unfold State.hwinDeny
  repeat' (with_reducible first | assumption | apply State.orBits_ok | apply State.bump_ok | split)

theorem State.hostLine_ok (q : HostReq) (sq : State × HostReq) (hla : Nat) (hok : sq.1.memOk) : (State.hostLine q sq hla).1.memOk := by
  unfold State.hostLine
  try dsimp only
  repeat' (with_reducible first | assumption | apply State.hbmHostRead_ok | apply State.hwinDeny_ok | split | (simp only [memOk_mk]; refine ⟨?_, ?_⟩) | apply ok_regs | apply ok_hbm | intro)

theorem State.serveRead_ok (s : State) (q : HostReq) (hok : s.memOk) : (State.serveRead s q).1.memOk :=
  foldlPair_ok _ (fun p x hp => State.hostLine_ok q p x hp) _ _ hok

theorem State.writeLine_ok (s : State) (hla : Nat) (bs : List (Option Byte)) (hok : s.memOk) : (State.writeLine s hla bs).memOk := by
  unfold State.writeLine
  dsimp only
  repeat' (with_reducible first | assumption | apply State.hbmWrite_ok | apply State.hbmHostRead_ok | split | exact ⟨ok_regs ‹_›, ok_hbm ‹_›⟩ | intro)

theorem State.serveWrite_ok (s : State) (q : HostReq) (hok : s.memOk) : (State.serveWrite s q).memOk := by
  unfold State.serveWrite
  try dsimp only
  repeat' (with_reducible first | assumption | apply State.writeLine_ok | apply State.hwinDeny_ok | apply foldl_ok | apply foldlPair_ok | split | (simp only [memOk_mk]; refine ⟨?_, ?_⟩) | apply ok_regs | apply ok_hbm | intro)

theorem State.serveHost_ok (s : State) (hok : s.memOk) : (State.serveHost s).memOk := by
  unfold State.serveHost
  try dsimp only
  repeat' (with_reducible first | assumption | apply State.serveRead_ok | apply State.serveWrite_ok | apply foldl_ok | apply foldlPair_ok | split | (simp only [memOk_mk]; refine ⟨?_, ?_⟩) | apply ok_regs | apply ok_hbm | intro)

theorem State.serveNow_ok (s : State) (hok : s.memOk) : (State.serveNow s).memOk := by
  unfold State.serveNow
  repeat' (with_reducible first | assumption | apply State.serveHost_ok | split)

theorem State.copyLine_ok (s : State) (hok : s.memOk) : (State.copyLine s).memOk := by
  unfold State.copyLine
  try dsimp only
  repeat' (with_reducible first | assumption | apply State.hbmHostRead_ok | apply State.record_ok | apply State.hbmWrite_ok | apply State.setField_ok | split | (simp only [memOk_mk]; refine ⟨?_, ?_⟩) | apply ok_regs | apply ok_hbm | intro)

theorem State.copyLines_ok (s : State) (k : Nat) (hok : s.memOk) : (State.copyLines s k).memOk := by
  induction k generalizing s with
  | zero => exact hok
  | succ k ih => exact ih _ (State.copyLine_ok _ hok)

theorem State.copySome_ok (s : State) (hok : s.memOk) : (State.copySome s).memOk := by
  unfold State.copySome
  repeat' (with_reducible first | assumption | apply State.draw_ok | apply State.copyLines_ok | split)

theorem effPlCopy_ok (r : Req) (s : State) (hok : s.memOk) : (effPlCopy r s).memOk := by
  unfold effPlCopy
  try dsimp only
  repeat' (with_reducible first | assumption | apply State.answer_ok | apply State.reply_ok | apply State.setField_ok | split | (simp only [memOk_mk]; refine ⟨?_, ?_⟩) | apply ok_regs | apply ok_hbm | intro)

theorem effCopyComplete_ok (s : State) (hok : s.memOk) : (effCopyComplete s).memOk := by
  unfold effCopyComplete
  try dsimp only
  repeat' (with_reducible first | assumption | apply State.copyLines_ok | apply State.set_ok | apply State.syncNow_ok | split | (simp only [memOk_mk]; refine ⟨?_, ?_⟩) | apply ok_regs | apply ok_hbm | intro)

theorem effQuietInterval_ok (s : State) (hok : s.memOk) : (effQuietInterval s).memOk := by
  unfold effQuietInterval
  repeat' (with_reducible first | assumption | apply State.copySome_ok | apply State.writeHashes_ok | apply State.drainFaults_ok | apply State.serveHost_ok | split)

theorem effGateHold_ok (a : Agent) (half : Nat) (val : W32) (s : State) (hok : s.memOk) : (effGateHold a half val s).memOk := by
  unfold effGateHold
  dsimp only
  repeat' (with_reducible first | assumption | apply State.touch_ok | apply State.ignored_ok | apply State.orBits_ok | split | exact ⟨ok_regs ‹_›, ok_hbm ‹_›⟩ | intro)

theorem effManifestCommit_ok (a : Agent) (val : W32) (s : State) (hok : s.memOk) : (effManifestCommit a val s).memOk := by
  unfold effManifestCommit
  extract_lets s1 f st s2
  have k1 : s1.memOk := State.touch_ok _ _ hok
  have k2 : s2.memOk := State.set_ok _ _ _ k1
  split
  · exact State.ignored_ok _ k1
  · split
    · exact k1
    · split
      · exact State.bump_ok _ _ _ k2
      · split
        · exact ⟨k2.1, k2.2⟩
        · exact k2

theorem effBar2Read_ok (a : Agent) (off len : Nat) (s : State) (hok : s.memOk) : (effBar2Read a off len s).memOk := by
  unfold effBar2Read
  try dsimp only
  repeat' (with_reducible first | assumption | apply State.touch_ok | apply State.serveNow_ok | split | (simp only [memOk_mk]; refine ⟨?_, ?_⟩) | apply ok_regs | apply ok_hbm | intro)

theorem effBar2ReadCompletion_ok (a : Agent) (s : State) (hok : s.memOk) : (effBar2ReadCompletion a s).memOk := by
  unfold effBar2ReadCompletion
  try dsimp only
  repeat' (with_reducible first | assumption | apply State.serveNow_ok | apply State.emit_ok | split | (simp only [memOk_mk]; refine ⟨?_, ?_⟩) | apply ok_regs | apply ok_hbm | intro)

theorem effBar2Write_ok (a : Agent) (off : Nat) (data : List (Option Byte)) (s : State) (hok : s.memOk) : (effBar2Write a off data s).memOk := by
  unfold effBar2Write
  try dsimp only
  repeat' (with_reducible first | assumption | apply State.touch_ok | apply State.serveWrite_ok | apply State.bump_ok | apply State.serveNow_ok | split | (simp only [memOk_mk]; refine ⟨?_, ?_⟩) | apply ok_regs | apply ok_hbm | intro)

theorem State.withholdFlags_ok (s : State) (hok : s.memOk) : (State.withholdFlags s).memOk := by
  unfold State.withholdFlags
  try dsimp only
  repeat' (with_reducible first | assumption | split | (simp only [memOk_mk]; refine ⟨?_, ?_⟩) | apply ok_regs | apply ok_hbm | intro)

theorem effRailExcursion_ok (rail : Nat) (above : Bool) (s : State) (hok : s.memOk) : (effRailExcursion rail above s).memOk := by
  unfold effRailExcursion
  repeat' (with_reducible first | assumption | apply State.withholdFlags_ok | apply State.orBits_ok | apply State.record_ok | split)

theorem effExchangePacketSend_ok (p : Nat) (s : State) (hok : s.memOk) : (effExchangePacketSend p s).memOk := by
  unfold effExchangePacketSend
  try dsimp only
  repeat' (with_reducible first | assumption | apply State.sendOut_ok | apply State.bump_ok | apply foldl_ok | apply foldlPair_ok | split | (simp only [memOk_mk]; refine ⟨?_, ?_⟩) | apply ok_regs | apply ok_hbm | intro)

theorem effMasqueRequest_ok (r : Req) (s : State) (hok : s.memOk) : (effMasqueRequest r s).memOk := by
  unfold effMasqueRequest
  try dsimp only
  repeat' (with_reducible first | assumption | apply State.answer_ok | apply State.reply_ok | split | (simp only [memOk_mk]; refine ⟨?_, ?_⟩) | apply ok_regs | apply ok_hbm | intro)

theorem effTraceRingWrite_ok (s : State) (hok : s.memOk) : (effTraceRingWrite s).memOk := by
  unfold effTraceRingWrite
  repeat' (with_reducible first | assumption | apply State.writeTrace_ok | split)

theorem State.digToRing_ok (s : State) (bytes : Nat) (hok : s.memOk) : (State.digToRing s bytes).memOk := by
  unfold State.digToRing
  repeat' (with_reducible first | assumption | apply State.ringWrite_ok | apply State.orBits_ok | apply State.bump_ok | split)

theorem effDigestRingWrite_ok (s : State) (hok : s.memOk) : (effDigestRingWrite s).memOk := by
  unfold effDigestRingWrite
  try dsimp only
  repeat' (with_reducible first | assumption | apply State.digToRing_ok | apply foldl_ok | apply foldlPair_ok | split | (simp only [memOk_mk]; refine ⟨?_, ?_⟩) | apply ok_regs | apply ok_hbm | intro)

theorem effWatchArm_ok (a : Agent) (f : Nat) (val : W32) (s : State) (hok : s.memOk) : (effWatchArm a f val s).memOk := by
  unfold effWatchArm
  try dsimp only
  repeat' (with_reducible first | assumption | apply State.touch_ok | apply State.ignored_ok | apply State.set_ok | split | (simp only [memOk_mk]; refine ⟨?_, ?_⟩) | apply ok_regs | apply ok_hbm | intro)

theorem State.watchLine_ok (s : State) (n slot l hla : Nat) (run : Option WatchRun) (hok : s.memOk) : (State.watchLine s n slot l hla run).1.memOk := by
  unfold State.watchLine
  repeat' (with_reducible first | assumption | apply State.putTile_ok | apply State.hbmWrite_ok | split)

theorem State.watchPoint_ok (s : State) (p : Plan) (w : WatchGroup) (g n : Nat) (x : WatchPoint) (hok : s.memOk) : (State.watchPoint s p w g n x).memOk := by
  unfold State.watchPoint
  try dsimp only
  repeat' (with_reducible first | assumption | apply State.watchLine_ok | apply State.tileSync_ok | apply foldl_ok | apply foldlPair_ok | split | (simp only [memOk_mk]; refine ⟨?_, ?_⟩) | apply ok_regs | apply ok_hbm | intro)

theorem effWatchCopy_ok (g i : Nat) (s : State) (hok : s.memOk) : (effWatchCopy g i s).memOk := by
  unfold effWatchCopy
  try dsimp only
  repeat' (with_reducible first | assumption | apply State.watchPoint_ok | split | (simp only [memOk_mk]; refine ⟨?_, ?_⟩) | apply ok_regs | apply ok_hbm | intro)

theorem State.read32_ok (s : State) (src off : Nat) (hok : s.memOk) : (State.read32 s src off).1.memOk := by
  unfold State.read32
  try dsimp only
  repeat' (with_reducible first | assumption | split | (simp only [memOk_mk]; refine ⟨?_, ?_⟩) | apply ok_regs | apply ok_hbm | intro)

theorem State.readReg_ok (s : State) (src off size : Nat) (hok : s.memOk) : (State.readReg s src off size).1.memOk := by
  unfold State.readReg
  repeat' (with_reducible first | assumption | apply State.read32_ok | split)

theorem effBar0Read_ok (a : Agent) (off size : Nat) (s : State) (hok : s.memOk) : (effBar0Read a off size s).memOk := by
  unfold effBar0Read
  repeat' (with_reducible first | assumption | apply State.touch_ok | apply State.readReg_ok | apply State.emit_ok | apply State.ignored_ok | split)

theorem State.mbxDeny_ok (s : State) (hok : s.memOk) : (State.mbxDeny s).memOk := by
  unfold State.mbxDeny
  repeat' (with_reducible first | assumption | apply State.orBits_ok | apply State.bump_ok | split)

theorem State.overrun_ok (s : State) (c : Nat) (hok : s.memOk) : (State.overrun s c).memOk := by
  unfold State.overrun
  repeat' (with_reducible first | assumption | apply State.orBits_ok | apply State.bump_ok | split)

theorem State.go_ok (s : State) (c : Nat) (hok : s.memOk) : (State.go s c).memOk := by
  unfold State.go
  repeat' (with_reducible first | assumption | apply State.overrun_ok | apply State.setField_ok | apply State.orBits_ok | split)

theorem effMailboxGo_ok (a : Agent) (c : Nat) (s : State) (hok : s.memOk) : (effMailboxGo a c s).memOk := by
  unfold effMailboxGo
  dsimp only
  repeat' (with_reducible first | assumption | apply State.touch_ok | apply State.mbxDeny_ok | apply State.go_ok | split | exact ⟨ok_regs ‹_›, ok_hbm ‹_›⟩ | intro)

theorem State.releaseChan_ok (s : State) (c : Nat) (hok : s.memOk) : (State.releaseChan s c).memOk := by
  unfold State.releaseChan
  repeat' (with_reducible first | assumption | apply State.clrBits_ok | split)

theorem effMailboxRelease_ok (a : Agent) (c : Nat) (s : State) (hok : s.memOk) : (effMailboxRelease a c s).memOk := by
  unfold effMailboxRelease
  dsimp only
  repeat' (with_reducible first | assumption | apply State.touch_ok | apply State.mbxDeny_ok | apply State.releaseChan_ok | split | exact ⟨ok_regs ‹_›, ok_hbm ‹_›⟩ | intro)

theorem State.mbxWrite_ok (s : State) (a : Agent) (o v m : Nat) (hok : s.memOk) : (State.mbxWrite s a o v m).memOk := by
  unfold State.mbxWrite
  dsimp only
  repeat' (with_reducible first | assumption | apply State.mbxDeny_ok | apply State.clrBits_ok | apply State.overrun_ok | apply State.go_ok | apply State.set_ok | split | exact ⟨ok_regs ‹_›, ok_hbm ‹_›⟩ | intro)

theorem State.pokeNat_ok (s : State) (off v : Nat) (hok : s.memOk) : (State.pokeNat s off v).memOk := by
  unfold State.pokeNat
  repeat' (with_reducible first | assumption | apply State.poke_ok | split)

theorem State.regWrite_ok (s : State) (off : Nat) (row : RegRow) (v m : Nat) (hok : s.memOk) : (State.regWrite s off row v m).memOk := by
  unfold State.regWrite
  try dsimp only
  repeat' (with_reducible first | assumption | apply State.pokeNat_ok | apply State.ignored_ok | split | (simp only [memOk_mk]; refine ⟨?_, ?_⟩) | apply ok_regs | apply ok_hbm | intro)

theorem State.msixWrite_ok (s : State) (f o v m : Nat) (hok : s.memOk) : (State.msixWrite s f o v m).memOk := by
  unfold State.msixWrite
  try dsimp only
  repeat' (with_reducible first | assumption | apply State.emit_ok | split | (simp only [memOk_mk]; refine ⟨?_, ?_⟩) | apply ok_regs | apply ok_hbm | intro)

theorem State.lkCtrlWrite_ok (s : State) (a : Agent) (p v m : Nat) (hok : s.memOk) : (State.lkCtrlWrite s a p v m).memOk := by
  unfold State.lkCtrlWrite
  repeat' (with_reducible first | assumption | apply State.setField_ok | apply effPortEnable_ok | split)

theorem State.rowWrite_ok (s : State) (a : Agent) (off v m : Nat) (hok : s.memOk) : ∀ t, State.rowWrite s a off v m = some t → t.memOk := by
  unfold State.rowWrite
  refine ite_some_ok (effStepRequest_ok _ _ _ hok) ?_
  refine ite_some_ok (effEquinoxStart_ok _ _ _ hok) ?_
  refine ite_some_ok (effIntercalaryRequest_ok _ _ _ hok) ?_
  refine ite_some_ok (effManifestCommit_ok _ _ _ hok) ?_
  refine ite_some_ok (effGateHold_ok _ _ _ _ hok) ?_
  refine ite_some_ok (effGateHold_ok _ _ _ _ hok) ?_
  refine ite_some_ok (effSyDoorbell_ok _ _ _ _ hok) ?_
  refine ite_some_ok (effWatchArm_ok _ _ _ _ hok) ?_
  refine ite_some_ok (by split; exact State.ignored_ok _ hok; exact State.set_ok _ _ _ hok) ?_
  refine ite_some_ok (State.lkCtrlWrite_ok _ _ _ _ _ hok) ?_
  refine ite_some_ok (State.mbxWrite_ok _ _ _ _ _ hok) ?_
  refine ite_some_ok ?_ (fun t h => by cases h)
  split
  · exact State.msixWrite_ok _ _ _ _ _ hok
  · exact hok

theorem State.write32_ok (s : State) (a : Agent) (off v m : Nat) (hok : s.memOk) : (State.write32 s a off v m).memOk := by
  unfold State.write32
  split
  · exact hok
  · split
    · exact hok
    · split
      · rename_i h; exact State.rowWrite_ok _ _ _ _ _ hok _ h
      · dsimp only
        repeat' (with_reducible first | assumption | apply State.regWrite_ok | apply State.ignored_ok | split)

theorem effBar0Write_ok (a : Agent) (off size : Nat) (val : W64) (en : Nat) (s : State) (hok : s.memOk) : (effBar0Write a off size val en s).memOk := by
  unfold effBar0Write
  repeat' (with_reducible first | assumption | apply State.touch_ok | apply State.ignored_ok | apply State.write32_ok | split)

theorem State.counterPut_ok (s : State) (off v incr : Nat) (hok : s.memOk) : (State.counterPut s off v incr).memOk := by
  unfold State.counterPut
  repeat' (with_reducible first | assumption | apply State.pokeNat_ok | split)

theorem effCounterWrite_ok (a : Agent) (off : Nat) (val : W32) (incr : Nat) (s : State) (hok : s.memOk) : (effCounterWrite a off val incr s).memOk := by
  unfold effCounterWrite
  dsimp only
  repeat' (with_reducible first | assumption | apply State.touch_ok | apply State.counterPut_ok | split | exact ⟨ok_regs ‹_›, ok_hbm ‹_›⟩ | intro)

theorem State.redescribe_ok (s : State) (hok : s.memOk) : (State.redescribe s).memOk := by
  unfold State.redescribe
  try dsimp only
  repeat' (with_reducible first | assumption | split | (simp only [memOk_mk]; refine ⟨?_, ?_⟩) | apply ok_regs | apply ok_hbm | intro)

theorem State.bindRecord_ok (s : State) (hok : s.memOk) : (State.bindRecord s).memOk := by
  unfold State.bindRecord
  dsimp only
  repeat' (with_reducible first | assumption | apply State.setField_ok | apply State.set_ok | apply foldl_ok | apply foldlPair_ok | split | exact ⟨ok_regs ‹_›, ok_hbm ‹_›⟩ | intro)

theorem State.ownerReset_ok (s : State) (c : Nat) (hok : s.memOk) : (State.ownerReset s c).memOk := by
  unfold State.ownerReset
  dsimp only
  repeat' (with_reducible first | assumption | apply State.bump_ok | apply State.clrBits_ok | apply State.set_ok | apply State.setChnl_ok | apply foldl_ok | apply foldlPair_ok | split | exact ⟨ok_regs ‹_›, ok_hbm ‹_›⟩ | intro)

theorem State.ownerResets_ok (s : State) (p : Nat → Bool) (hok : s.memOk) : (State.ownerResets s p).memOk := by
  unfold State.ownerResets
  try dsimp only
  repeat' (with_reducible first | assumption | apply State.ownerReset_ok | apply foldl_ok | apply foldlPair_ok | split | (simp only [memOk_mk]; refine ⟨?_, ?_⟩) | apply ok_regs | apply ok_hbm | intro)

theorem State.fnReset_ok (s : State) (f : Nat) (hok : s.memOk) : (State.fnReset s f).memOk := by
  unfold State.fnReset
  try dsimp only
  repeat' (with_reducible first | assumption | apply State.set_ok | split | (simp only [memOk_mk]; refine ⟨?_, ?_⟩) | apply ok_regs | apply ok_hbm | intro)

theorem State.pcieReset_ok (s : State) (hok : s.memOk) : (State.pcieReset s).memOk := by
  unfold State.pcieReset
  try dsimp only
  repeat' (with_reducible first | assumption | apply State.fnReset_ok | apply State.restore_ok | apply State.ownerResets_ok | apply foldl_ok | apply foldlPair_ok | split | (simp only [memOk_mk]; refine ⟨?_, ?_⟩) | apply ok_regs | apply ok_hbm | intro)

theorem State.blockReset_ok (s : State) (ev : Bool) (keep : Tile → Tile) (hok : s.memOk) : (State.blockReset s ev keep).memOk := by
  unfold State.blockReset
  try dsimp only
  repeat' (with_reducible first | assumption | apply State.restore_ok | split | (simp only [memOk_mk]; refine ⟨?_, ?_⟩) | apply ok_regs | apply ok_hbm | intro)

theorem State.rewritePlace_ok (s : State) (hok : s.memOk) : (State.rewritePlace s).memOk := by
  unfold State.rewritePlace
  repeat' (with_reducible first | assumption | apply State.set_ok | split)

theorem State.dropLoad_ok (s : State) (hok : s.memOk) : (State.dropLoad s).memOk := by
  unfold State.dropLoad
  try dsimp only
  repeat' (with_reducible first | assumption | apply State.reply_ok | split | (simp only [memOk_mk]; refine ⟨?_, ?_⟩) | apply ok_regs | apply ok_hbm | intro)

theorem State.beginTest_ok (s : State) (hok : s.memOk) : (State.beginTest s).memOk := by
  unfold State.beginTest
  try dsimp only
  repeat' (with_reducible first | assumption | apply State.set_ok | apply State.clrBits_ok | apply State.orBits_ok | apply State.setField_ok | apply State.serveHost_ok | split | (simp only [memOk_mk]; refine ⟨?_, ?_⟩) | apply ok_regs | apply ok_hbm | intro)

theorem State.lightCarts_ok (s : State) (hok : s.memOk) : (State.lightCarts s).memOk := by
  unfold State.lightCarts
  dsimp only
  repeat' (with_reducible first | assumption | apply State.feeds_ok | apply State.setCart_ok | apply foldl_ok | apply foldlPair_ok | split | exact ⟨ok_regs ‹_›, ok_hbm ‹_›⟩ | intro)

theorem State.testWork_ok (s : State) (k : Nat) (hok : s.memOk) : (State.testWork s k).memOk := by
  unfold State.testWork
  split
  · exact State.orBits_ok _ _ _ ⟨hok.1, rfl⟩
  · split
    · exact State.storeLibrary_ok _ ⟨hok.1, hok.2⟩
    · split
      · have k := State.restore_ok s (fun o => decide (SY 0x80000 ≤ o) && decide (o < PL 0)) hok
        exact ⟨k.1, k.2⟩
      · split
        · dsimp only
          repeat' (with_reducible first | assumption | apply State.setField_ok | apply State.draw_ok)
        · exact State.lightCarts_ok _ hok

theorem State.deviceReset_ok (s : State) (hok : s.memOk) : (State.deviceReset s).memOk := by
  unfold State.deviceReset
  dsimp only
  repeat' (with_reducible first | assumption | apply State.rewritePlace_ok | apply State.blockReset_ok | apply State.dropLoad_ok | apply State.raiseVec_ok | apply State.beginTest_ok | split | exact ⟨ok_regs ‹_›, ok_hbm ‹_›⟩ | intro)

theorem State.railsOff_ok (s : State) (hok : s.memOk) : (State.railsOff s).memOk := by
  unfold State.railsOff
  extract_lets s1 s2 s3
  have k1 : s1.memOk := State.blockReset_ok _ _ _ (State.dropLoad_ok _ hok)
  have k2 : s2.memOk := State.setField_ok _ _ _ _ _ (State.set_ok _ _ _ (State.clrBits_ok _ _ _ k1))
  have k3 : s3.memOk := foldl_ok _ _ _ (fun _ _ h => State.setCart_ok _ _ _ h) k2
  exact ⟨k3.1, rfl⟩

theorem State.railsOn_ok (s : State) (hok : s.memOk) : (State.railsOn s).memOk := by
  unfold State.railsOn
  try dsimp only
  repeat' (with_reducible first | assumption | apply State.beginTest_ok | apply State.rewritePlace_ok | apply State.orBits_ok | split | (simp only [memOk_mk]; refine ⟨?_, ?_⟩) | apply ok_regs | apply ok_hbm | intro)

theorem State.tripOff_ok (s : State) (hok : s.memOk) : (State.tripOff s).memOk := by
  unfold State.tripOff
  repeat' (with_reducible first | assumption | apply State.orBits_ok | apply State.railsOff_ok | split)

theorem State.setBank_ok (s : State) (b : Bool) (k : Bank) (hok : s.memOk) : (State.setBank s b k).memOk := by
  unfold State.setBank
  try dsimp only
  repeat' (with_reducible first | assumption | split | (simp only [memOk_mk]; refine ⟨?_, ?_⟩) | apply ok_regs | apply ok_hbm | intro)

theorem State.raiseRollback_ok (s : State) (k : Bank) (hok : s.memOk) : (State.raiseRollback s k).memOk := by
  unfold State.raiseRollback
  try dsimp only
  repeat' (with_reducible first | assumption | split | (simp only [memOk_mk]; refine ⟨?_, ?_⟩) | apply ok_regs | apply ok_hbm | intro)

theorem State.startBank_ok (s : State) (b : Bool) (hok : s.memOk) : (State.startBank s b).memOk := by
  unfold State.startBank
  try dsimp only
  repeat' (with_reducible first | assumption | apply State.setField_ok | apply State.set_ok | apply State.raiseRollback_ok | apply State.clrBits_ok | apply State.orBits_ok | apply State.redescribe_ok | apply State.bindRecord_ok | split | (simp only [memOk_mk]; refine ⟨?_, ?_⟩) | apply ok_regs | apply ok_hbm | intro)

theorem State.enterRecovery_ok (s : State) (hok : s.memOk) : (State.enterRecovery s).memOk := by
  unfold State.enterRecovery
  try dsimp only
  repeat' (with_reducible first | assumption | apply State.orBits_ok | apply State.set_ok | apply State.bindRecord_ok | split | (simp only [memOk_mk]; refine ⟨?_, ?_⟩) | apply ok_regs | apply ok_hbm | intro)

theorem State.boot_ok (s : State) (pick : Option Bool) (hok : s.memOk) : (State.boot s pick).memOk := by
  unfold State.boot
  repeat' (with_reducible first | assumption | apply State.startBank_ok | apply State.enterRecovery_ok | split)

theorem State.receiveWaiting_ok (s : State) (hok : s.memOk) : (State.receiveWaiting s).memOk := by
  unfold State.receiveWaiting
  try dsimp only
  repeat' (with_reducible first | assumption | apply State.fwLog_ok | apply foldl_ok | apply foldlPair_ok | split | (simp only [memOk_mk]; refine ⟨?_, ?_⟩) | apply ok_regs | apply ok_hbm | intro)

theorem State.controllerStops_ok (s : State) (hok : s.memOk) : (State.controllerStops s).memOk := by
  unfold State.controllerStops
  try dsimp only
  repeat' (with_reducible first | assumption | apply State.loadFault_ok | apply State.clrBits_ok | apply State.postChan_ok | apply State.setChnl_ok | apply State.setField_ok | apply State.set64_ok | apply foldl_ok | apply foldlPair_ok | split | (simp only [memOk_mk]; refine ⟨?_, ?_⟩) | apply ok_regs | apply ok_hbm | intro)

theorem State.mgmtReset_ok (s : State) (pick : Option Bool) (hok : s.memOk) : (State.mgmtReset s pick).memOk := by
  unfold State.mgmtReset
  dsimp only
  repeat' (with_reducible first | assumption | apply State.boot_ok | apply State.controllerStops_ok | apply State.redescribe_ok | apply State.storeLibrary_ok | apply State.receiveWaiting_ok | split | exact ⟨ok_regs ‹_›, ok_hbm ‹_›⟩ | intro)

theorem State.stage_ok (s : State) (bs : List Byte) (hok : s.memOk) : (State.stage s bs).1.memOk := by
  unfold State.stage
  repeat' (with_reducible first | assumption | apply State.setBank_ok | split)

theorem State.leaveRecovery_ok (s : State) (hok : s.memOk) : (State.leaveRecovery s).memOk := by
  unfold State.leaveRecovery
  try dsimp only
  repeat' (with_reducible first | assumption | apply State.receiveWaiting_ok | apply State.boot_ok | apply State.clrBits_ok | split | (simp only [memOk_mk]; refine ⟨?_, ?_⟩) | apply ok_regs | apply ok_hbm | intro)

theorem effMailboxTake_ok (c : Nat) (s : State) (hok : s.memOk) : (effMailboxTake c s).memOk := by
  unfold effMailboxTake
  dsimp only
  repeat' (with_reducible first | assumption | apply State.setChnl_ok | apply State.postChan_ok | split | exact ⟨ok_regs ‹_›, ok_hbm ‹_›⟩ | intro)

theorem State.mgDo_ok (s : State) (r : Req) (op : Nat) (senders named : List Nat) (f : List W32 → State) (hf : ∀ y0, (f y0).memOk) (hok : s.memOk) : (State.mgDo s r op senders named f).memOk := by
  unfold State.mgDo
  try dsimp only
  repeat' (with_reducible first | assumption | apply State.answer_ok | apply State.reply_ok | apply hf | split | (simp only [memOk_mk]; refine ⟨?_, ?_⟩) | apply ok_regs | apply ok_hbm | intro)

theorem effMgInfo_ok (r : Req) (s : State) (hok : s.memOk) : (effMgInfo r s).memOk := by
  unfold effMgInfo
  try dsimp only
  repeat' (with_reducible first | assumption | apply State.mgDo_ok | apply State.reply_ok | split | (simp only [memOk_mk]; refine ⟨?_, ?_⟩) | apply ok_regs | apply ok_hbm | intro)

theorem effMgFaultlog_ok (r : Req) (s : State) (hok : s.memOk) : (effMgFaultlog r s).memOk := by
  unfold effMgFaultlog
  dsimp only
  repeat' (with_reducible first | assumption | apply State.mgDo_ok | apply State.reply_ok | split | exact ⟨ok_regs ‹_›, ok_hbm ‹_›⟩ | intro)

theorem effMgDescribe_ok (r : Req) (s : State) (hok : s.memOk) : (effMgDescribe r s).memOk := by
  unfold effMgDescribe
  dsimp only
  repeat' (with_reducible first | assumption | apply State.mgDo_ok | apply State.reply_ok | split | exact ⟨ok_regs ‹_›, ok_hbm ‹_›⟩ | intro)

theorem effMgSelftest_ok (r : Req) (s : State) (hok : s.memOk) : (effMgSelftest r s).memOk := by
  unfold effMgSelftest
  try dsimp only
  repeat' (with_reducible first | assumption | apply State.mgDo_ok | apply State.reply_ok | apply State.unload_ok | apply State.portCtrl_ok | apply State.setField_ok | apply State.setCounterState_ok | apply State.beginTest_ok | apply foldl_ok | apply foldlPair_ok | split | (simp only [memOk_mk]; refine ⟨?_, ?_⟩) | apply ok_regs | apply ok_hbm | intro)

theorem effSelftestPhaseEnd_ok (fault : Bool) (s : State) (hok : s.memOk) : (effSelftestPhaseEnd fault s).memOk := by
  unfold effSelftestPhaseEnd
  try dsimp only
  repeat' (with_reducible first | assumption | apply State.testWork_ok | apply State.orBits_ok | apply State.emit_ok | apply State.setField_ok | apply State.clrBits_ok | apply State.redescribe_ok | split | (simp only [memOk_mk]; refine ⟨?_, ?_⟩) | apply ok_regs | apply ok_hbm | intro)

theorem effMgResetDevice_ok (r : Req) (s : State) (hok : s.memOk) : (effMgResetDevice r s).memOk := by
  unfold effMgResetDevice
  try dsimp only
  repeat' (with_reducible first | assumption | apply State.mgDo_ok | apply State.deviceReset_ok | apply State.reply_ok | split | (simp only [memOk_mk]; refine ⟨?_, ?_⟩) | apply ok_regs | apply ok_hbm | intro)

theorem effMgResetManagement_ok (r : Req) (s : State) (hok : s.memOk) : (effMgResetManagement r s).memOk := by
  unfold effMgResetManagement
  try dsimp only
  repeat' (with_reducible first | assumption | apply State.mgDo_ok | apply State.mgmtReset_ok | apply State.reply_ok | split | (simp only [memOk_mk]; refine ⟨?_, ?_⟩) | apply ok_regs | apply ok_hbm | intro)

theorem effMgmtLockstepMiscompare_ok (sig : W32) (s : State) (hok : s.memOk) : (effMgmtLockstepMiscompare sig s).memOk := by
  unfold effMgmtLockstepMiscompare
  repeat' (with_reducible first | assumption | apply State.orBits_ok | apply State.clrBits_ok | apply State.mgmtReset_ok | apply State.record_ok | split)

theorem effMgShutdown_ok (r : Req) (s : State) (hok : s.memOk) : (effMgShutdown r s).memOk := by
  unfold effMgShutdown
  try dsimp only
  repeat' (with_reducible first | assumption | apply State.mgDo_ok | apply State.reply_ok | apply State.clrBits_ok | apply State.planStop_ok | apply State.orBits_ok | split | (simp only [memOk_mk]; refine ⟨?_, ?_⟩) | apply ok_regs | apply ok_hbm | intro)

theorem effShutdownComplete_ok (s : State) (hok : s.memOk) : (effShutdownComplete s).memOk := by
  unfold effShutdownComplete
  try dsimp only
  repeat' (with_reducible first | assumption | apply State.clrBits_ok | apply State.railsOff_ok | apply State.postChan_ok | split | (simp only [memOk_mk]; refine ⟨?_, ?_⟩) | apply ok_regs | apply ok_hbm | intro)

theorem effMgPowerOn_ok (r : Req) (s : State) (hok : s.memOk) : (effMgPowerOn r s).memOk := by
  unfold effMgPowerOn
  try dsimp only
  repeat' (with_reducible first | assumption | apply State.mgDo_ok | apply State.reply_ok | apply State.orBits_ok | split | (simp only [memOk_mk]; refine ⟨?_, ?_⟩) | apply ok_regs | apply ok_hbm | intro)

theorem effMgFwStage_ok (r : Req) (s : State) (hok : s.memOk) : (effMgFwStage r s).memOk := by
  unfold effMgFwStage
  dsimp only
  repeat' (with_reducible first | assumption | apply State.mgDo_ok | apply State.reply_ok | apply State.hbmLines_ok | apply State.stage_ok | apply State.leaveRecovery_ok | split | exact ⟨ok_regs ‹_›, ok_hbm ‹_›⟩ | intro)

theorem effMgFwActivate_ok (r : Req) (s : State) (hok : s.memOk) : (effMgFwActivate r s).memOk := by
  unfold effMgFwActivate
  try dsimp only
  repeat' (with_reducible first | assumption | apply State.mgDo_ok | apply State.reply_ok | apply State.mgmtReset_ok | split | (simp only [memOk_mk]; refine ⟨?_, ?_⟩) | apply ok_regs | apply ok_hbm | intro)

theorem State.keyDo_ok (s : State) (r : Req) (item : Nat) (named : List Nat) (f : List W32 → State) (hf : ∀ y0, (f y0).memOk) (hok : s.memOk) : (State.keyDo s r item named f).memOk := by
  unfold State.keyDo
  try dsimp only
  repeat' (with_reducible first | assumption | apply State.answer_ok | apply State.mgDo_ok | apply State.reply_ok | apply hf | split | (simp only [memOk_mk]; refine ⟨?_, ?_⟩) | apply ok_regs | apply ok_hbm | intro)

theorem State.burn_ok (s : State) (o : Otp) (hok : s.memOk) : (State.burn s o).memOk := by
  unfold State.burn
  try dsimp only
  repeat' (with_reducible first | assumption | split | (simp only [memOk_mk]; refine ⟨?_, ?_⟩) | apply ok_regs | apply ok_hbm | intro)

theorem effMgKeyRevokeFirmware_ok (r : Req) (s : State) (hok : s.memOk) : (effMgKeyRevokeFirmware r s).memOk := by
  unfold effMgKeyRevokeFirmware
  dsimp only
  repeat' (with_reducible first | assumption | apply State.keyDo_ok | apply State.reply_ok | apply State.burn_ok | split | exact ⟨ok_regs ‹_›, ok_hbm ‹_›⟩ | intro)

theorem effMgKeyWritePlan_ok (r : Req) (s : State) (hok : s.memOk) : (effMgKeyWritePlan r s).memOk := by
  unfold effMgKeyWritePlan
  dsimp only
  repeat' (with_reducible first | assumption | apply State.keyDo_ok | apply State.setChnl_ok | apply State.reply_ok | apply State.burn_ok | split | exact ⟨ok_regs ‹_›, ok_hbm ‹_›⟩ | intro)

theorem effMgKeyRevokePlan_ok (r : Req) (s : State) (hok : s.memOk) : (effMgKeyRevokePlan r s).memOk := by
  unfold effMgKeyRevokePlan
  dsimp only
  repeat' (with_reducible first | assumption | apply State.keyDo_ok | apply State.reply_ok | apply State.burn_ok | split | exact ⟨ok_regs ‹_›, ok_hbm ‹_›⟩ | intro)

theorem effMgKeySetRequired_ok (r : Req) (s : State) (hok : s.memOk) : (effMgKeySetRequired r s).memOk := by
  unfold effMgKeySetRequired
  dsimp only
  repeat' (with_reducible first | assumption | apply State.keyDo_ok | apply State.reply_ok | apply State.burn_ok | split | exact ⟨ok_regs ‹_›, ok_hbm ‹_›⟩ | intro)

theorem effMgKeyHalfTimeout_ok (s : State) (hok : s.memOk) : (effMgKeyHalfTimeout s).memOk := by
  unfold effMgKeyHalfTimeout
  dsimp only
  repeat' (with_reducible first | assumption | apply State.setChnl_ok | apply foldl_ok | apply foldlPair_ok | split | exact ⟨ok_regs ‹_›, ok_hbm ‹_›⟩ | intro)

theorem effMgPlace_ok (r : Req) (s : State) (hok : s.memOk) : (effMgPlace r s).memOk := by
  unfold effMgPlace
  try dsimp only
  repeat' (with_reducible first | assumption | apply State.mgDo_ok | apply State.reply_ok | apply State.rewritePlace_ok | split | (simp only [memOk_mk]; refine ⟨?_, ?_⟩) | apply ok_regs | apply ok_hbm | intro)

theorem effMgConfig_ok (r : Req) (s : State) (hok : s.memOk) : (effMgConfig r s).memOk := by
  unfold effMgConfig
  try dsimp only
  repeat' (with_reducible first | assumption | apply State.mgDo_ok | apply State.reply_ok | split | (simp only [memOk_mk]; refine ⟨?_, ?_⟩) | apply ok_regs | apply ok_hbm | intro)

theorem State.mctpReply_ok (s : State) (typ row arg value : Nat) (hok : s.memOk) : (State.mctpReply s typ row arg value).memOk := by
  unfold State.mctpReply
  repeat' (with_reducible first | assumption | apply State.emit_ok | split)

theorem State.fwReply_ok (s : State) (typ row arg value : Nat) (hok : s.memOk) : (State.fwReply s typ row arg value).memOk := by
  unfold State.fwReply
  repeat' (with_reducible first | assumption | apply State.mctpReply_ok | split)

theorem State.pldmReply_ok (s : State) (row arg value : Nat) (hok : s.memOk) : (State.pldmReply s row arg value).memOk := by
  unfold State.pldmReply
  repeat' (with_reducible first | assumption | apply State.mctpReply_ok | apply State.fwReply_ok | split)

theorem effSetEndpointId_ok (eid : Nat) (s : State) (hok : s.memOk) : (effSetEndpointId eid s).memOk := by
  unfold effSetEndpointId
  try dsimp only
  repeat' (with_reducible first | assumption | apply State.ownerResets_ok | apply State.mctpReply_ok | split | (simp only [memOk_mk]; refine ⟨?_, ?_⟩) | apply ok_regs | apply ok_hbm | intro)

theorem effGetEndpointId_ok (body : List Byte) (s : State) (hok : s.memOk) : (effGetEndpointId body s).memOk := by
  unfold effGetEndpointId
  repeat' (with_reducible first | assumption | apply State.mctpReply_ok | split)

theorem effGetMctpVersionSupport_ok (body : List Byte) (s : State) (hok : s.memOk) : (effGetMctpVersionSupport body s).memOk := by
  unfold effGetMctpVersionSupport
  repeat' (with_reducible first | assumption | apply State.mctpReply_ok | split)

theorem effGetMessageTypeSupport_ok (body : List Byte) (s : State) (hok : s.memOk) : (effGetMessageTypeSupport body s).memOk := by
  unfold effGetMessageTypeSupport
  repeat' (with_reducible first | assumption | apply State.mctpReply_ok | split)

theorem effGetVendorDefinedMessageSupport_ok (body : List Byte) (s : State) (hok : s.memOk) : (effGetVendorDefinedMessageSupport body s).memOk := by
  unfold effGetVendorDefinedMessageSupport
  repeat' (with_reducible first | assumption | apply State.mctpReply_ok | split)

theorem effPldmBaseDiscovery_ok (body : List Byte) (s : State) (hok : s.memOk) : (effPldmBaseDiscovery body s).memOk := by
  unfold effPldmBaseDiscovery
  repeat' (with_reducible first | assumption | apply State.pldmReply_ok | split)

theorem effPldmSensorRead_ok (body : List Byte) (s : State) (hok : s.memOk) : (effPldmSensorRead body s).memOk := by
  unfold effPldmSensorRead
  repeat' (with_reducible first | assumption | apply State.draw_ok | apply State.fwReply_ok | split)

theorem effPldmFruData_ok (body : List Byte) (s : State) (hok : s.memOk) : (effPldmFruData body s).memOk := by
  unfold effPldmFruData
  repeat' (with_reducible first | assumption | apply State.pldmReply_ok | split)

theorem effPldmFirmwareUpdate_ok (image : List Byte) (s : State) (hok : s.memOk) : (effPldmFirmwareUpdate image s).memOk := by
  unfold effPldmFirmwareUpdate
  dsimp only
  repeat' (with_reducible first | assumption | apply State.mctpReply_ok | apply State.stage_ok | apply State.leaveRecovery_ok | split | exact ⟨ok_regs ‹_›, ok_hbm ‹_›⟩ | intro)

theorem effGetVersion_ok (body : List Byte) (s : State) (hok : s.memOk) : (effGetVersion body s).memOk := by
  unfold effGetVersion
  repeat' (with_reducible first | assumption | apply State.fwReply_ok | split)

theorem effGetCapabilities_ok (body : List Byte) (s : State) (hok : s.memOk) : (effGetCapabilities body s).memOk := by
  unfold effGetCapabilities
  repeat' (with_reducible first | assumption | apply State.fwReply_ok | split)

theorem effNegotiateAlgorithms_ok (body : List Byte) (s : State) (hok : s.memOk) : (effNegotiateAlgorithms body s).memOk := by
  unfold effNegotiateAlgorithms
  repeat' (with_reducible first | assumption | apply State.fwReply_ok | split)

theorem effGetDigests_ok (body : List Byte) (s : State) (hok : s.memOk) : (effGetDigests body s).memOk := by
  unfold effGetDigests
  repeat' (with_reducible first | assumption | apply State.fwReply_ok | split)

theorem effGetCertificate_ok (body : List Byte) (s : State) (hok : s.memOk) : (effGetCertificate body s).memOk := by
  unfold effGetCertificate
  repeat' (with_reducible first | assumption | apply State.fwReply_ok | split)

theorem effChallenge_ok (body : List Byte) (s : State) (hok : s.memOk) : (effChallenge body s).memOk := by
  unfold effChallenge
  repeat' (with_reducible first | assumption | apply State.draw_ok | apply State.fwReply_ok | split)

theorem effGetMeasurements_ok (body : List Byte) (s : State) (hok : s.memOk) : (effGetMeasurements body s).memOk := by
  unfold effGetMeasurements
  repeat' (with_reducible first | assumption | apply State.fwReply_ok | split)

theorem effMailboxTunnel_ok (c : Nat) (words : List W32) (s : State) (hok : s.memOk) : (effMailboxTunnel c words s).memOk := by
  unfold effMailboxTunnel
  try dsimp only
  repeat' (with_reducible first | assumption | apply State.mbxDeny_ok | apply State.overrun_ok | apply State.go_ok | apply State.set_ok | apply foldl_ok | apply foldlPair_ok | split | (simp only [memOk_mk]; refine ⟨?_, ?_⟩) | apply ok_regs | apply ok_hbm | intro)

theorem effRegisterRead_ok (size off : Nat) (s : State) (hok : s.memOk) : (effRegisterRead size off s).memOk := by
  unfold effRegisterRead
  repeat' (with_reducible first | assumption | apply State.readReg_ok | apply State.emit_ok | split)

theorem effRegisterWrite_ok (size off : Nat) (val : W64) (s : State) (hok : s.memOk) : (effRegisterWrite size off val s).memOk := by
  unfold effRegisterWrite
  repeat' (with_reducible first | assumption | apply State.ignored_ok | apply effCounterWrite_ok | apply State.emit_ok | split)

theorem State.coldStart_ok (s : State) (hok : s.memOk) : (State.coldStart s).memOk := by
  exact ⟨rfl, rfl⟩

theorem effAuxPowerGood_ok (strap : Nat) (s : State) (hok : s.memOk) : (effAuxPowerGood strap s).memOk := by
  unfold effAuxPowerGood
  try dsimp only
  repeat' (with_reducible first | assumption | apply State.coldStart_ok | apply State.boot_ok | apply State.set_ok | split | (simp only [memOk_mk]; refine ⟨?_, ?_⟩) | apply ok_regs | apply ok_hbm | intro)

theorem effAuxInputLoss_ok (s : State) (hok : s.memOk) : (effAuxInputLoss s).memOk := by
  unfold effAuxInputLoss
  try dsimp only
  repeat' (with_reducible first | assumption | apply State.coldStart_ok | split | (simp only [memOk_mk]; refine ⟨?_, ?_⟩) | apply ok_regs | apply ok_hbm | intro)

theorem effMainPowerUp_ok (s : State) (hok : s.memOk) : (effMainPowerUp s).memOk := by
  unfold effMainPowerUp
  try dsimp only
  repeat' (with_reducible first | assumption | apply State.railsOn_ok | split | (simp only [memOk_mk]; refine ⟨?_, ?_⟩) | apply ok_regs | apply ok_hbm | intro)

theorem effMainInputLoss_ok (s : State) (hok : s.memOk) : (effMainInputLoss s).memOk := by
  unfold effMainInputLoss
  try dsimp only
  repeat' (with_reducible first | assumption | apply State.tripOff_ok | split | (simp only [memOk_mk]; refine ⟨?_, ?_⟩) | apply ok_regs | apply ok_hbm | intro)

theorem effThermalTrip_ok (sensor : Nat) (s : State) (hok : s.memOk) : (effThermalTrip sensor s).memOk := by
  unfold effThermalTrip
  try dsimp only
  repeat' (with_reducible first | assumption | apply State.tripOff_ok | apply State.emit_ok | split | (simp only [memOk_mk]; refine ⟨?_, ?_⟩) | apply ok_regs | apply ok_hbm | intro)

theorem effCoolantExcursion_ok (outlet : Bool) (temp : Int) (s : State) (hok : s.memOk) : (effCoolantExcursion outlet temp s).memOk := by
  unfold effCoolantExcursion
  try dsimp only
  repeat' (with_reducible first | assumption | apply State.emit_ok | split | (simp only [memOk_mk]; refine ⟨?_, ?_⟩) | apply ok_regs | apply ok_hbm | intro)

theorem effPerstAssert_ok (s : State) (hok : s.memOk) : (effPerstAssert s).memOk := by
  unfold effPerstAssert
  dsimp only
  repeat' (with_reducible first | assumption | apply State.pcieReset_ok | apply State.deviceReset_ok | split | exact ⟨ok_regs ‹_›, ok_hbm ‹_›⟩ | intro)

theorem effPcieHotReset_ok (s : State) (hok : s.memOk) : (effPcieHotReset s).memOk := by
  unfold effPcieHotReset
  repeat' (with_reducible first | assumption | apply State.pcieReset_ok | split)

theorem effFlrPf0_ok (s : State) (hok : s.memOk) : (effFlrPf0 s).memOk := by
  unfold effFlrPf0
  repeat' (with_reducible first | assumption | apply State.pcieReset_ok | split)

theorem effFlrVf_ok (n : Nat) (s : State) (hok : s.memOk) : (effFlrVf n s).memOk := by
  unfold effFlrVf
  repeat' (with_reducible first | assumption | apply State.ownerResets_ok | apply State.fnReset_ok | split)

theorem State.cartDark_ok (s : State) (c : Nat) (hok : s.memOk) : (State.cartDark s c).memOk := by
  unfold State.cartDark
  repeat' (with_reducible first | assumption | apply State.feedsLost_ok | apply State.setCart_ok | split)

theorem effCartridgeLatchLift_ok (c : Nat) (s : State) (hok : s.memOk) : (effCartridgeLatchLift c s).memOk := by
  unfold effCartridgeLatchLift
  repeat' (with_reducible first | assumption | apply State.cartDark_ok | apply State.setCart_ok | split)

theorem effCartridgeLatchClose_ok (c : Nat) (s : State) (hok : s.memOk) : (effCartridgeLatchClose c s).memOk := by
  unfold effCartridgeLatchClose
  repeat' (with_reducible first | assumption | apply State.setCart_ok | split)

theorem effCartridgeStart_ok (c : Nat) (s : State) (hok : s.memOk) : (effCartridgeStart c s).memOk := by
  unfold effCartridgeStart
  repeat' (with_reducible first | assumption | apply State.feeds_ok | apply State.setCart_ok | split)

theorem State.clockEdge_ok (s : State) (hok : s.memOk) : (State.clockEdge s).memOk := by
  unfold State.clockEdge
  try dsimp only
  repeat' (with_reducible first | assumption | split | (simp only [memOk_mk]; refine ⟨?_, ?_⟩) | apply ok_regs | apply ok_hbm | intro)

theorem State.stepTime_ok (s : State) (hok : s.memOk) : (State.stepTime s).memOk := by
  unfold State.stepTime
  repeat' (with_reducible first | assumption | apply State.bump64_ok | split)

theorem State.lateIrq_ok (s : State) (hok : s.memOk) : (State.lateIrq s).memOk := by
  unfold State.lateIrq
  try dsimp only
  repeat' (with_reducible first | assumption | apply State.raiseVec_ok | split | (simp only [memOk_mk]; refine ⟨?_, ?_⟩) | apply ok_regs | apply ok_hbm | intro)

theorem State.frameSlots_ok (s : State) (hok : s.memOk) : (State.frameSlots s).memOk := by
  unfold State.frameSlots
  repeat' (with_reducible first | assumption | apply State.frameSlot_ok | apply foldl_ok | apply foldlPair_ok | split)

theorem State.tick_ok (s : State) (hok : s.memOk) : (State.tick s).memOk := by
  unfold State.tick
  try dsimp only
  repeat' (with_reducible first | assumption | apply State.syncRun_ok | apply State.lateIrq_ok | apply State.stepTime_ok | apply State.clockEdge_ok | apply State.frameSlots_ok | split | (simp only [memOk_mk]; refine ⟨?_, ?_⟩) | apply ok_regs | apply ok_hbm | intro)

theorem State.withFetchWord_ok (s : State) (nbits w : Nat) (hok : s.memOk) : (State.withFetchWord s nbits w).memOk := by
  unfold State.withFetchWord
  try dsimp only
  repeat' (with_reducible first | assumption | split | (simp only [memOk_mk]; refine ⟨?_, ?_⟩) | apply ok_regs | apply ok_hbm | intro)

end Sys2Proof.Machine
end

