-- ==== Sys2Proof/Laws/Tiles.lean ====
section
/-! SUPPORT. What the bookkeeping of a tile leaves alone, what an event of one tile leaves alone on the device, and what a record leaves alone: one lemma for
every operation. -/

set_option linter.unusedSimpArgs false

namespace Sys2Proof.Machine

/-! The bookkeeping of a tile: counters, status bits, records, the hazard detector, the trace, the slots charged. -/

theorem Tile.steady_eta (s : Tile) : (s.mem, s.eve, s.sregs, s.routes, s.seq, s.mx, s.vx, s.mv, s.tags, s.ranges, s.openRange, s.tracker, s.frozen, s.retired) = s.steady := Eq.trans rfl rfl

@[simp] theorem Tile.steady_mk (regs mem wrong poison eve sregs routes seq mx vx mv now stop ops signals ovf began outbox accesses dead withheld raised tags ranges openRange reexec rangeCtr again saved redoFrom mvHeld tracker syncWait frozen hz hzFrame trace slipFrom slipCause retired) : Tile.steady ⟨regs, mem, wrong, poison, eve, sregs, routes, seq, mx, vx, mv, now, stop, ops, signals, ovf, began, outbox, accesses, dead, withheld, raised, tags, ranges, openRange, reexec, rangeCtr, again, saved, redoFrom, mvHeld, tracker, syncWait, frozen, hz, hzFrame, trace, slipFrom, slipCause, retired⟩ =
    (mem, eve, sregs, routes, seq, mx, vx, mv, tags, ranges, openRange, tracker, frozen, retired) := Eq.trans rfl rfl

theorem Tile.steady_ite (c : Prop) [Decidable c] (a b : Tile) : (if c then a else b).steady = if c then a.steady else b.steady := by
  split <;> rfl

theorem foldl_steady {α : Type} (f : Tile → α → Tile) (h : ∀ s x, (f s x).steady = s.steady) (l : List α) (s : Tile) :
    (l.foldl f s).steady = s.steady := by
  induction l generalizing s with
  | nil => rfl
  | cons x l ih => rw [List.foldl_cons, ih, h]

theorem foldlPair_steady {α β : Type} (f : Tile × β → α → Tile × β) (h : ∀ p x, (f p x).1.steady = p.1.steady) (l : List α) (p : Tile × β) :
    (l.foldl f p).1.steady = p.1.steady := by
  induction l generalizing p with
  | nil => rfl
  | cons x l ih => rw [List.foldl_cons, ih, h]

theorem upto_steady (f : Nat → Tile → Tile) (h : ∀ i s, (f i s).steady = s.steady) (lo n : Nat) (s : Tile) : (upto f lo n s).steady = s.steady := by
  induction n generalizing lo s with
  | zero => rfl
  | succ n ih => rw [upto, ih, h]

@[simp] theorem Tile.set_steady (tl : Tile) (off v : Nat) : (Tile.set tl off v).steady = tl.steady := by
  unfold Tile.set
  simp only [Tile.steady_mk, Tile.steady_eta, Tile.steady_ite, ite_self]

@[simp] theorem Tile.orBits_steady (tl : Tile) (off mask : Nat) : (Tile.orBits tl off mask).steady = tl.steady := by
  unfold Tile.orBits
  simp only [Tile.steady_mk, Tile.steady_eta, Tile.steady_ite, ite_self, Tile.set_steady]

@[simp] theorem Tile.bump_steady (tl : Tile) (off k : Nat) : (Tile.bump tl off k).steady = tl.steady := by
  unfold Tile.bump
  simp only [Tile.steady_mk, Tile.steady_eta, Tile.steady_ite, ite_self, Tile.set_steady]

@[simp] theorem Tile.bump64_steady (tl : Tile) (off : Nat) (k : Int) : (Tile.bump64 tl off k).steady = tl.steady := by
  unfold Tile.bump64
  simp only [Tile.steady_mk, Tile.steady_eta, Tile.steady_ite, ite_self, Tile.set_steady]

@[simp] theorem Tile.countAt_steady (code k i : Nat) (tl : Tile) : (Tile.countAt code k i tl).steady = tl.steady := by
  unfold Tile.countAt
  simp only [Tile.steady_mk, Tile.steady_eta, Tile.steady_ite, ite_self, Tile.set_steady, Tile.bump_steady]

@[simp] theorem Tile.event_steady (tl : Tile) (code k : Nat) : (Tile.event tl code k).steady = tl.steady := by
  unfold Tile.event
  simp only [Tile.steady_mk, Tile.steady_eta, Tile.steady_ite, ite_self, implies_true, upto_steady, Tile.countAt_steady]

@[simp] theorem Tile.conds_steady (tl : Tile) (xs : List Conds) : (Tile.conds tl xs).steady = tl.steady := by
  unfold Tile.conds
  simp only [Tile.steady_mk, Tile.steady_eta, Tile.steady_ite, ite_self, implies_true, upto_steady, Tile.event_steady]

@[simp] theorem Tile.raiseInj_steady (tl : Tile) (cls slot detail : Nat) (inj : Bool) : (Tile.raiseInj tl cls slot detail inj).steady = tl.steady := by
  unfold Tile.raiseInj
  simp only [Tile.steady_mk, Tile.steady_eta, Tile.steady_ite, ite_self]

@[simp] theorem Tile.raise_steady (tl : Tile) (cls slot detail : Nat) : (Tile.raise tl cls slot detail).steady = tl.steady := by
  unfold Tile.raise
  simp only [Tile.steady_mk, Tile.steady_eta, Tile.steady_ite, ite_self, Tile.raiseInj_steady]

@[simp] theorem Tile.hazard_steady (tl : Tile) (kind x : Nat) (eng : Engine) (slot : Nat) : (Tile.hazard tl kind x eng slot).steady = tl.steady := by
  unfold Tile.hazard
  simp only [Tile.steady_mk, Tile.steady_eta, Tile.steady_ite, ite_self, Tile.orBits_steady, Tile.bump_steady, Tile.event_steady, Tile.set_steady]

@[simp] theorem Tile.withhold_steady (tl : Tile) : (Tile.withhold tl).steady = tl.steady := by
  unfold Tile.withhold
  simp only [Tile.steady_mk, Tile.steady_eta, Tile.steady_ite, ite_self, Tile.set_steady]

@[simp] theorem Tile.setHzQ_steady (tl : Tile) (q : Nat) (h : HzQueue) : (Tile.setHzQ tl q h).steady = tl.steady := by
  unfold Tile.setHzQ
  simp only [Tile.steady_mk, Tile.steady_eta, Tile.steady_ite, ite_self]

@[simp] theorem Tile.checkWord_steady (slot l w : Nat) (tl : Tile) (data : Nat) : (Tile.checkWord slot l w tl data).1.steady = tl.steady := by
  unfold Tile.checkWord
  repeat' (first | (simp only [Tile.steady_mk, Tile.steady_eta, Tile.steady_ite, ite_self, Tile.event_steady, Tile.bump_steady, Tile.raise_steady, Tile.set_steady, Tile.orBits_steady]; done) | rfl | split | simp only [Tile.steady_mk, Tile.steady_eta, Tile.steady_ite, ite_self, Tile.event_steady, Tile.bump_steady, Tile.raise_steady, Tile.set_steady, Tile.orBits_steady])

@[simp] theorem Tile.checkWords_steady (slot l mask k w : Nat) (tl : Tile) (data : Nat) : (Tile.checkWords slot l mask k w tl data).1.steady = tl.steady := by
  induction k generalizing w tl data with
  | zero => rfl
  | succ k ih =>
    rw [Tile.checkWords]
    split
    · show (Tile.checkWords slot l mask k (w + 1) (Tile.checkWord slot l w tl data).1 (Tile.checkWord slot l w tl data).2.1).1.steady = tl.steady
      rw [ih, Tile.checkWord_steady]
    · rw [ih]

@[simp] theorem Tile.readWords_steady (tl : Tile) (slot l mask : Nat) : (Tile.readWords tl slot l mask).1.steady = tl.steady := by
  unfold Tile.readWords
  simp only [Tile.steady_mk, Tile.steady_eta, Tile.steady_ite, ite_self, Tile.checkWords_steady]

@[simp] theorem Tile.readLine_steady (tl : Tile) (slot l : Nat) : (Tile.readLine tl slot l).1.steady = tl.steady := by
  unfold Tile.readLine
  simp only [Tile.steady_mk, Tile.steady_eta, Tile.steady_ite, ite_self, Tile.readWords_steady]

@[simp] theorem Tile.collision_steady (tl : Tile) (bank : Nat) (eng : Engine) (slot : Nat) : (Tile.collision tl bank eng slot).steady = tl.steady := by
  unfold Tile.collision
  simp only [Tile.steady_mk, Tile.steady_eta, Tile.steady_ite, ite_self, Tile.raise_steady, Tile.event_steady, Tile.orBits_steady]

@[simp] theorem Tile.access_steady (tl : Tile) (a : Access) : (Tile.access tl a).1.steady = tl.steady := by
  unfold Tile.access
  repeat' (first | (simp only [Tile.steady_mk, Tile.steady_eta, Tile.steady_ite, ite_self, Tile.collision_steady]; done) | rfl | split)

@[simp] theorem Tile.setPtr_steady (tl : Tile) (q head tail : Nat) : (Tile.setPtr tl q head tail).steady = tl.steady := by
  unfold Tile.setPtr
  simp only [Tile.steady_mk, Tile.steady_eta, Tile.steady_ite, ite_self, Tile.set_steady]

@[simp] theorem Tile.advHead_steady (tl : Tile) (q k : Nat) : (Tile.advHead tl q k).steady = tl.steady := by
  unfold Tile.advHead
  simp only [Tile.steady_mk, Tile.steady_eta, Tile.steady_ite, ite_self, Tile.event_steady, Tile.bump_steady, Tile.setPtr_steady]

@[simp] theorem Tile.advTail_steady (tl : Tile) (q k : Nat) : (Tile.advTail tl q k).steady = tl.steady := by
  unfold Tile.advTail
  simp only [Tile.steady_mk, Tile.steady_eta, Tile.steady_ite, ite_self, Tile.setPtr_steady]

@[simp] theorem Tile.advPush_steady (tl : Tile) (q k : Nat) : (Tile.advPush tl q k).steady = tl.steady := by
  unfold Tile.advPush
  simp only [Tile.steady_mk, Tile.steady_eta, Tile.steady_ite, ite_self, Tile.event_steady, Tile.bump_steady, Tile.advTail_steady]

@[simp] theorem Tile.hzPop_steady (tl : Tile) (q : Nat) (eng : Engine) (slot : Nat) : (Tile.hzPop tl q eng slot).steady = tl.steady := by
  unfold Tile.hzPop
  simp only [Tile.steady_mk, Tile.steady_eta, Tile.steady_ite, ite_self, Tile.hazard_steady, Tile.setHzQ_steady]

@[simp] theorem Tile.hzPush_steady (tl : Tile) (q : Nat) (eng : Engine) (slot : Nat) (arrived : Bool) : (Tile.hzPush tl q eng slot arrived).steady = tl.steady := by
  unfold Tile.hzPush
  simp only [Tile.steady_mk, Tile.steady_eta, Tile.steady_ite, ite_self, Tile.hazard_steady, Tile.setHzQ_steady]

@[simp] theorem Tile.arriving_steady (tl : Tile) (q : Nat) : (Tile.arriving tl q).steady = tl.steady := by
  unfold Tile.arriving
  repeat' (first | (simp only [Tile.steady_mk, Tile.steady_eta, Tile.steady_ite, ite_self]; done) | rfl | split | simp only [Tile.steady_mk, Tile.steady_eta, Tile.steady_ite, ite_self])

@[simp] theorem Tile.heads_steady (tl : Tile) : (Tile.heads tl).steady = tl.steady := by
  unfold Tile.heads
  exact foldl_steady _ (fun tl e => by split <;> first | rfl | exact Tile.setPtr_steady _ _ _ _) _ _

@[simp] theorem Tile.signal_steady (tl : Tile) (b : Nat) : (Tile.signal tl b).steady = tl.steady := by
  unfold Tile.signal
  simp only [Tile.steady_mk, Tile.steady_eta, Tile.steady_ite, ite_self, Tile.event_steady, Tile.set_steady]

@[simp] theorem Tile.consume_steady (tl : Tile) (b k : Nat) : (Tile.consume tl b k).steady = tl.steady := by
  induction k generalizing tl with
  | zero => rfl
  | succ k ih =>
    rw [Tile.consume, ih]
    split
    · rfl
    · rw [Tile.set_steady]

@[simp] theorem Tile.settle_steady (tl : Tile) : (Tile.settle tl).steady = tl.steady := by
  unfold Tile.settle
  simp only [Tile.steady_mk, Tile.steady_eta, Tile.steady_ite, ite_self, implies_true, foldl_steady, foldlPair_steady, Tile.withhold_steady, Tile.raise_steady, Tile.orBits_steady]

@[simp] theorem Tile.addrBound_steady (tl : Tile) (d : Nat) (eng : Engine) (slot : Nat) : (Tile.addrBound tl d eng slot).steady = tl.steady := by
  unfold Tile.addrBound
  simp only [Tile.steady_mk, Tile.steady_eta, Tile.steady_ite, ite_self, Tile.raise_steady, Tile.event_steady, Tile.orBits_steady]

@[simp] theorem Tile.escape_steady (tl : Tile) (slot word : Nat) : (Tile.escape tl slot word).steady = tl.steady := by
  unfold Tile.escape
  simp only [Tile.steady_mk, Tile.steady_eta, Tile.steady_ite, ite_self, Tile.raise_steady, Tile.event_steady, Tile.bump_steady, Tile.orBits_steady]

@[simp] theorem Tile.holdLine_steady (tl : Tile) (slot l : Nat) : (Tile.holdLine tl slot l).steady = tl.steady := by
  unfold Tile.holdLine
  simp only [Tile.steady_mk, Tile.steady_eta, Tile.steady_ite, ite_self, Tile.raise_steady, Tile.event_steady, Tile.bump_steady, Tile.orBits_steady]

@[simp] theorem Tile.claim_steady (tl : Tile) (eng : Engine) (slot l : Nat) : (Tile.claim tl eng slot l).1.steady = tl.steady := by
  unfold Tile.claim
  simp only [Tile.steady_mk, Tile.steady_eta, Tile.steady_ite, ite_self, Tile.access_steady]

@[simp] theorem Tile.charge_steady (tl : Tile) (eng : Engine) (acct : Nat) (k : Int) : (Tile.charge tl eng acct k).steady = tl.steady := by
  unfold Tile.charge
  simp only [Tile.steady_mk, Tile.steady_eta, Tile.steady_ite, ite_self, Tile.bump64_steady]

@[simp] theorem Tile.chargeSpan_steady (alen t s : Nat) (eng : Engine) (tl : Tile) : (Tile.chargeSpan alen t s eng tl).steady = tl.steady := by
  unfold Tile.chargeSpan
  repeat' (first | (simp only [Tile.steady_mk, Tile.steady_eta, Tile.steady_ite, ite_self, Tile.charge_steady, Tile.event_steady]; done) | rfl | split)

@[simp] theorem Tile.emit_steady (tl : Tile) (n frame kind eng slot data : Nat) : (Tile.emit tl n frame kind eng slot data).steady = tl.steady := by
  unfold Tile.emit
  simp only [Tile.steady_mk, Tile.steady_eta, Tile.steady_ite, ite_self, Tile.event_steady, Tile.bump_steady]

@[simp] theorem Tile.endSlip_steady (tl : Tile) (n frame t : Nat) : (Tile.endSlip tl n frame t).steady = tl.steady := by
  unfold Tile.endSlip
  repeat' (first | (simp only [Tile.steady_mk, Tile.steady_eta, Tile.steady_ite, ite_self, Tile.emit_steady]; done) | rfl | split)

@[simp] theorem Tile.slip_steady (tl : Tile) (k : Nat) : (Tile.slip tl k).steady = tl.steady := by
  unfold Tile.slip
  simp only [Tile.steady_mk, Tile.steady_eta, Tile.steady_ite, ite_self, Tile.event_steady, Tile.orBits_steady, Tile.bump_steady, Tile.set_steady]

@[simp] theorem Tile.traceSlip_steady (tl : Tile) (n frame s t : Nat) : (Tile.traceSlip tl n frame s t).steady = tl.steady := by
  unfold Tile.traceSlip
  repeat' (first | (simp only [Tile.steady_mk, Tile.steady_eta, Tile.steady_ite, ite_self, Tile.endSlip_steady]; done) | rfl | split)

@[simp] theorem Tile.countX_steady (tl : Tile) (k : Nat) : (Tile.countX tl k).steady = tl.steady := by
  unfold Tile.countX
  simp only [Tile.steady_mk, Tile.steady_eta, Tile.steady_ite, ite_self, Tile.event_steady, Tile.bump_steady, Tile.set_steady]

@[simp] theorem Tile.mxCheck_steady (word : Nat) (e : MxFail) (tl : Tile) : (Tile.mxCheck word e tl).steady = tl.steady := by
  unfold Tile.mxCheck
  repeat' (first | (simp only [Tile.steady_mk, Tile.steady_eta, Tile.steady_ite, ite_self, Tile.event_steady, Tile.bump_steady, Tile.set_steady, Tile.orBits_steady]; done) | rfl | split)

@[simp] theorem Tile.mxChecks_steady (tl : Tile) (t : Nat) (q : MxPar) (o : Op) : (Tile.mxChecks tl t q o).steady = tl.steady := by
  unfold Tile.mxChecks
  simp only [Tile.steady_mk, Tile.steady_eta, Tile.steady_ite, ite_self, implies_true, foldl_steady, foldlPair_steady, Tile.mxCheck_steady, Tile.raiseInj_steady]

@[simp] theorem Tile.mmsRecords_steady (tl : Tile) (t : Nat) (o : Op) (q : MxPar) : (Tile.mmsRecords tl t o q).steady = tl.steady := by
  unfold Tile.mmsRecords
  simp only [Tile.steady_mk, Tile.steady_eta, Tile.steady_ite, ite_self, implies_true, foldl_steady, foldlPair_steady, Tile.raise_steady, Tile.orBits_steady, Tile.bump_steady, Tile.event_steady]

@[simp] theorem Tile.windowFault_steady (tl : Tile) (c : Cmd) (slot step q : Nat) : (Tile.windowFault tl c slot step q).steady = tl.steady := by
  unfold Tile.windowFault
  simp only [Tile.steady_mk, Tile.steady_eta, Tile.steady_ite, ite_self, Tile.raise_steady, Tile.event_steady, Tile.set_steady, Tile.orBits_steady, Tile.bump_steady]

@[simp] theorem Tile.hzWindow_steady (tl : Tile) (q pos : Nat) (rel : Int) (slot : Nat) : (Tile.hzWindow tl q pos rel slot).steady = tl.steady := by
  unfold Tile.hzWindow
  simp only [Tile.steady_mk, Tile.steady_eta, Tile.steady_ite, ite_self, Tile.hazard_steady]

@[simp] theorem Tile.vxChecks_steady (tl : Tile) (t : Nat) (o : Op) (steps : List Nat) : (Tile.vxChecks tl t o steps).steady = tl.steady := by
  unfold Tile.vxChecks
  repeat' (first | (simp only [Tile.steady_mk, Tile.steady_eta, Tile.steady_ite, ite_self, Tile.raiseInj_steady, Tile.set_steady, Tile.orBits_steady, Tile.event_steady, Tile.bump_steady]; done) | rfl | split)

@[simp] theorem Tile.redRecords_steady (tl : Tile) (t : Nat) (o : Op) (q : VxPar) : (Tile.redRecords tl t o q).steady = tl.steady := by
  unfold Tile.redRecords
  simp only [Tile.steady_mk, Tile.steady_eta, Tile.steady_ite, ite_self, implies_true, foldl_steady, foldlPair_steady, Tile.event_steady, Tile.raise_steady]

@[simp] theorem Tile.atEnd_steady (tl : Tile) (n frame alen : Nat) : (Tile.atEnd tl n frame alen).steady = tl.steady := by
  unfold Tile.atEnd
  simp only [Tile.steady_mk, Tile.steady_eta, Tile.steady_ite, ite_self, Tile.emit_steady, Tile.endSlip_steady]

@[simp] theorem Tile.fetchWord_steady (tl : Tile) (slot idx : Nat) : (Tile.fetchWord tl slot idx).1.steady = tl.steady := by
  unfold Tile.fetchWord
  repeat' (first | (simp only [Tile.steady_mk, Tile.steady_eta, Tile.steady_ite, ite_self, Tile.readWords_steady, Tile.event_steady]; done) | rfl | split | simp only [Tile.steady_mk, Tile.steady_eta, Tile.steady_ite, ite_self, Tile.readWords_steady, Tile.event_steady])

@[simp] theorem Tile.sqFetch_steady (tl : Tile) (slot : Nat) (defined : Nat → Bool) : (Tile.sqFetch tl slot defined).1.steady = tl.steady := by
  have h1 := Tile.fetchWord_steady tl slot tl.seq.next
  unfold Tile.sqFetch
  generalize tl.fetchWord slot tl.seq.next = r at h1 ⊢
  obtain ⟨tl1, o⟩ := r
  have h2 := Tile.fetchWord_steady tl1 (slot + 1) (tl1.seq.next + 1)
  generalize hr : tl1.fetchWord (slot + 1) (tl1.seq.next + 1) = r2 at h2
  obtain ⟨tl2, o2⟩ := r2
  cases o with
  | none => exact h1
  | some wp =>
    obtain ⟨w, p⟩ := wp
    dsimp only
    rw [hr]
    cases o2 with
    | none =>
      dsimp only
      repeat' split
      all_goals first | exact h1 | exact h2.trans h1
    | some wq =>
      dsimp only
      repeat' split
      all_goals first | exact h1 | exact h2.trans h1

@[simp] theorem Tile.decoded_steady (tl : Tile) (idx k : Nat) : (Tile.decoded tl idx k).steady = tl.steady := by
  unfold Tile.decoded
  simp only [Tile.steady_mk, Tile.steady_eta, Tile.steady_ite, ite_self, Tile.event_steady, Tile.set_steady]

@[simp] theorem Tile.moveRework_steady (tl : Tile) (r : Range) : (Tile.moveRework tl r).steady = tl.steady := by
  unfold Tile.moveRework
  simp only [Tile.steady_mk, Tile.steady_eta, Tile.steady_ite, ite_self, implies_true, foldl_steady, foldlPair_steady, Tile.charge_steady]

@[simp] theorem Tile.hzBack_steady (tl : Tile) (q h0 pops t0 pushes : Nat) : (Tile.hzBack tl q h0 pops t0 pushes).steady = tl.steady := by
  unfold Tile.hzBack
  simp only [Tile.steady_mk, Tile.steady_eta, Tile.steady_ite, ite_self, implies_true, upto_steady, Tile.setHzQ_steady]

@[simp] theorem Tile.restoreQueues_steady (tl : Tile) (r : Range) : (Tile.restoreQueues tl r).steady = tl.steady := by
  unfold Tile.restoreQueues
  refine upto_steady _ (fun q tl => ?_) _ _ _
  split
  · rfl
  · dsimp only
    repeat' (first | (simp only [Tile.set_steady, Tile.setPtr_steady, Tile.hzBack_steady]; done) | split)

@[simp] theorem Tile.restoreBarriers_steady (tl : Tile) (r : Range) : (Tile.restoreBarriers tl r).steady = tl.steady := by
  unfold Tile.restoreBarriers
  simp only [Tile.steady_mk, Tile.steady_eta, Tile.steady_ite, ite_self, implies_true, upto_steady, Tile.event_steady, Tile.bump_steady, Tile.orBits_steady, Tile.set_steady]

@[simp] theorem Tile.entryWord_steady (tl : Tile) (sh : Nat) : (Tile.entryWord tl sh).1.steady = tl.steady := by
  unfold Tile.entryWord
  simp only [Tile.steady_mk, Tile.steady_eta, Tile.steady_ite, ite_self, Tile.readWords_steady]

@[simp] theorem Tile.raiseFlag_steady (tl : Tile) : (Tile.raiseFlag tl).steady = tl.steady := by
  unfold Tile.raiseFlag
  simp only [Tile.steady_mk, Tile.steady_eta, Tile.steady_ite, ite_self, Tile.orBits_steady]

@[simp] theorem Tile.loadQueue_steady (tp : TilePlan) (q : Nat) (tl : Tile) : (Tile.loadQueue tp q tl).steady = tl.steady := by
  unfold Tile.loadQueue
  simp only [Tile.steady_mk, Tile.steady_eta, Tile.steady_ite, ite_self, Tile.set_steady, Tile.setPtr_steady]

/-! A record touches the FL block, the log and what leaves the device, and nothing beside them. -/

/-- What a record leaves alone: what lies beside every tile, the tiles, and the packets on the mesh. -/
def State.aside (s : State) := (s.far, s.tiles, s.pkts, s.pktCtr)

theorem State.aside_same {a b : State} (h : a.aside = b.aside) : a.far = b.far ∧ a.tiles = b.tiles ∧ a.pkts = b.pkts ∧ a.pktCtr = b.pktCtr := by
  simpa only [State.aside, Prod.mk.injEq] using h

theorem State.aside_ite (c : Prop) [Decidable c] (a b : State) : (if c then a else b).aside = if c then a.aside else b.aside := by
  split <;> rfl

theorem foldl_aside {α : Type} (f : State → α → State) (h : ∀ s x, (f s x).aside = s.aside) (l : List α) (s : State) :
    (l.foldl f s).aside = s.aside := by
  induction l generalizing s with
  | nil => rfl
  | cons x l ih => rw [List.foldl_cons, ih, h]

@[simp] theorem State.set_aside (s : State) (off v : Nat) : (s.set off v).aside = s.aside := rfl

@[simp] theorem State.orBits_aside (s : State) (off m : Nat) : (s.orBits off m).aside = s.aside := rfl

@[simp] theorem State.bump_aside (s : State) (off k : Nat) : (s.bump off k).aside = s.aside := rfl

@[simp] theorem State.emit_aside (s : State) (o : Out) : (s.emit o).aside = s.aside := rfl

@[simp] theorem State.frameBit_aside (s : State) (i : Nat) : (s.frameBit i).aside = s.aside := rfl

@[simp] theorem State.raiseVec_aside (s : State) (v : Nat) : (s.raiseVec v).aside = s.aside := by
  unfold State.raiseVec
  repeat' (first | rfl | split)

@[simp] theorem State.fwLog_aside (s : State) (r : FRec) (k : Nat) : (s.fwLog r k).aside = s.aside := by
  unfold State.fwLog
  repeat' (first | rfl | split)

@[simp] theorem length_putRecord (r : FRec) (k : Nat) (l : List FRec) : (putRecord r k l).length = l.length + 1 := by
  induction k, l using putRecord.induct r with
  | case1 k x xs h ih => simp [putRecord, h, ih]
  | case2 k x xs h => simp [putRecord, h]
  | case3 k xs h => cases k <;> cases xs <;> simp_all [putRecord]

@[simp] theorem mem_putRecord (r x : FRec) (k : Nat) (l : List FRec) : x ∈ putRecord r k l ↔ x = r ∨ x ∈ l := by
  induction k, l using putRecord.induct r with
  | case1 k y ys h ih => simp [putRecord, h, ih, or_left_comm]
  | case2 k y ys h => simp [putRecord, h]
  | case3 k ys h => cases k <;> cases ys <;> simp_all [putRecord]

@[simp] theorem State.flStore_aside (s : State) (r : FRec) : (s.flStore r).aside = s.aside := by
  unfold State.flStore
  dsimp only
  split
  · refine (State.fwLog_aside _ _ _).trans ?_
    rfl
  · rfl

@[simp] theorem State.flNotify_aside (s : State) (r : FRec) : (s.flNotify r).aside = s.aside := by
  unfold State.flNotify
  repeat' (first | rfl | exact State.raiseVec_aside _ _ | split)

@[simp] theorem State.flWrite_aside (s : State) (r : FRec) : (s.flWrite r).aside = s.aside := by
  unfold State.flWrite
  split
  · rfl
  · rw [State.flNotify_aside, State.flStore_aside]

@[simp] theorem State.raiseVec_fl (s : State) (v : Nat) : (s.raiseVec v).fl = s.fl := by
  unfold State.raiseVec
  repeat' (first | rfl | split)

@[simp] theorem State.fwLog_fl (s : State) (r : FRec) (k : Nat) : (s.fwLog r k).fl = s.fl := by
  unfold State.fwLog
  repeat' (first | rfl | split)

theorem State.flStore_queue (s : State) (r : FRec) : (s.flStore r).fl.queue = (putRecord r s.flBurst s.fl.queue.reverse).reverse := by
  unfold State.flStore
  dsimp only
  split
  · rw [State.fwLog_fl]; rfl
  · rfl

@[simp] theorem State.flNotify_queue (s : State) (r : FRec) : (s.flNotify r).fl.queue = s.fl.queue := by
  unfold State.flNotify
  repeat' (first | rfl | (rw [State.raiseVec_fl]) | split)

/-- A record written while the queue has room stands in it. -/
theorem State.flWrite_mem (s : State) (r : FRec) (h : s.fl.queue.length < flQueueSize) : r ∈ (s.flWrite r).fl.queue := by
  unfold State.flWrite
  rw [if_neg (Nat.not_le.mpr h), State.flNotify_queue, State.flStore_queue]
  simp

@[simp] theorem State.flRaise_aside (s : State) (r : FRec) (sub : Nat) : (s.flRaise r sub).aside = s.aside := by
  unfold State.flRaise
  dsimp only
  repeat' (first | rfl | exact State.flWrite_aside _ _ | split)

@[simp] theorem State.recordSub_aside (s : State) (cls kind idx detail sub : Nat) : (s.recordSub cls kind idx detail sub).aside = s.aside := State.flRaise_aside _ _ _

@[simp] theorem State.record_aside (s : State) (cls kind idx detail : Nat) : (s.record cls kind idx detail).aside = s.aside := State.flRaise_aside _ _ _

@[simp] theorem State.recordInj_aside (s : State) (cls kind idx detail : Nat) (inj : Bool) : (s.recordInj cls kind idx detail inj).aside = s.aside := State.flRaise_aside _ _ _

theorem State.get_ite (c : Prop) [Decidable c] (a b : State) (off : Nat) : (if c then a else b).get off = if c then a.get off else b.get off := by
  split <;> rfl

/-! A record touches no register outside the FL block. -/

theorem State.set_get (s : State) {r off : Nat} (v : Nat) (hr : isFl r = true) (h : isFl off = false) : (s.set r v).get off = s.get off :=
  State.get_set_other _ _ (fun e => by rw [e, hr] at h; cases h)

@[simp] theorem State.raiseVec_get (s : State) (v off : Nat) : (s.raiseVec v).get off = s.get off := by
  unfold State.raiseVec
  repeat' (first | rfl | split)

@[simp] theorem State.fwLog_get (s : State) (r : FRec) (k off : Nat) : (s.fwLog r k).get off = s.get off := by
  unfold State.fwLog
  repeat' (first | rfl | split)

theorem State.flStore_get (s : State) (r : FRec) {off : Nat} (h : isFl off = false) : (s.flStore r).get off = s.get off := by
  have hb : (s.bump rRecordCnt 1).get off = s.get off := State.set_get s _ rfl h
  unfold State.flStore
  dsimp only
  split
  · exact (State.fwLog_get _ _ _ _).trans hb
  · exact hb

@[simp] theorem State.flNotify_get (s : State) (r : FRec) (off : Nat) : (s.flNotify r).get off = s.get off := by
  unfold State.flNotify
  repeat' (first | rfl | exact State.raiseVec_get _ _ _ | split)

theorem State.flWrite_get (s : State) (r : FRec) {off : Nat} (h : isFl off = false) : (s.flWrite r).get off = s.get off := by
  unfold State.flWrite
  split
  · exact (State.set_get _ _ rfl h).trans (State.set_get s _ rfl h)
  · rw [State.flNotify_get, State.flStore_get _ _ h]

theorem State.flRaise_get (s : State) (r : FRec) (sub : Nat) {off : Nat} (h : isFl off = false) : (s.flRaise r sub).get off = s.get off := by
  have aux : ∀ (k : FKey) (s0 : State), (if s0.fl.keys.contains k then s0.bump rCoalesced 1
      else { s0 with fl := { s0.fl with keys := k :: s0.fl.keys } }.flWrite r).get off = s0.get off := by
    intro k s0
    split
    · exact State.set_get _ _ rfl h
    · rw [State.flWrite_get _ _ h]
      rfl
  unfold State.flRaise
  refine (aux _ _).trans ?_
  split <;> rfl

theorem State.recordInj_get (s : State) (cls kind idx detail : Nat) (inj : Bool) {off : Nat} (h : isFl off = false) :
    (s.recordInj cls kind idx detail inj).get off = s.get off := State.flRaise_get _ _ _ h

theorem State.record_get (s : State) (cls kind idx detail : Nat) {off : Nat} (h : isFl off = false) :
    (s.record cls kind idx detail).get off = s.get off := State.flRaise_get _ _ _ h

theorem State.recordSub_get (s : State) (cls kind idx detail sub : Nat) {off : Nat} (h : isFl off = false) :
    (s.recordSub cls kind idx detail sub).get off = s.get off := State.flRaise_get _ _ _ h

/-! What an event of a tile leaves alone. -/

/-- A line that leaves tile `n` changes no packet but for lines of the tile's own. -/
theorem Packet.past_take (n op i : Nat) (v : Line) (k : Packet) : (k.take n op i v).past n = k.past n := by
  unfold Packet.take
  split
  · rename_i o c h
    split
    · rename_i hc
      unfold Packet.past
      dsimp only
      rw [h]
      simp only [hc.2, if_true]
    · rfl
  · rfl

theorem foldl_take_past (n : Nat) (out : List (Nat × Nat × Line)) (k : Packet) :
    (out.foldl (fun k x => k.take n x.1 x.2.1 x.2.2) k).past n = k.past n := by
  induction out generalizing k with
  | nil => rfl
  | cons x out ih => rw [List.foldl_cons, ih, Packet.past_take]

theorem foldl_recordInj_aside (n : Nat) (rs : List Raised) (s : State) :
    (rs.foldl (fun s r => s.recordInj r.cls uTile n (r.detail + r.slot * 2 ^ 32) r.injected) s).aside = s.aside :=
  foldl_aside _ (fun _ _ => State.recordInj_aside _ _ _ _ _ _) _ _

theorem foldl_recordInj_get (n : Nat) (rs : List Raised) (s : State) {off : Nat} (h : isFl off = false) :
    (rs.foldl (fun s r => s.recordInj r.cls uTile n (r.detail + r.slot * 2 ^ 32) r.injected) s).get off = s.get off := by
  induction rs generalizing s with
  | nil => rfl
  | cons r rs ih => rw [List.foldl_cons, ih, State.recordInj_get _ _ _ _ _ _ h]

theorem foldl_emit_steady (n k : Nat) (rs : List Raised) (tl : Tile) :
    (rs.foldl (fun tl r => tl.emit n k 6 3 r.slot (r.cls % 2 ^ 16 + (r.detail + r.slot * 2 ^ 32) * 2 ^ 64)) tl).steady = tl.steady :=
  foldl_steady _ (fun _ _ => Tile.emit_steady _ _ _ _ _ _ _) _ _

/-- Putting a tile back: the tile, the packets and the records it makes of the device. -/
theorem State.putTile_eq (s : State) (n : Nat) (tl : Tile) :
    ∃ (s1 : State) (tl1 : Tile) (rs : List Raised),
      s.putTile n tl = rs.foldl (fun s r => s.recordInj r.cls uTile n (r.detail + r.slot * 2 ^ 32) r.injected) s1
        ∧ tl1 = rs.foldl (fun tl r => tl.emit n s.frameNo 6 3 r.slot (r.cls % 2 ^ 16 + (r.detail + r.slot * 2 ^ 32) * 2 ^ 64)) { tl with raised := [], outbox := [] }
        ∧ s1.tiles = (s.setTile n tl1).tiles ∧ s1.far = s.far ∧ s1.pktCtr = s.pktCtr ∧ s1.sent n = s.sent n ∧ ∀ off, s1.get off = s.get off := by
  unfold State.putTile
  refine ⟨_, _, tl.raised, rfl, rfl, ?_⟩
  split
  · exact ⟨rfl, rfl, rfl, rfl, fun _ => rfl⟩
  · refine ⟨rfl, rfl, rfl, ?_, fun _ => rfl⟩
    unfold State.sent
    dsimp only
    rw [List.map_map]
    exact List.map_congr_left (fun k _ => foldl_take_past n _ k)

/-- All that putting tile `n` back does outside it. -/
theorem State.putTile_only (s : State) (n : Nat) (tl : Tile) : OnlyTile n s (s.putTile n tl) := by
  obtain ⟨s1, tl1, rs, he, -, ht, hf, hc, hs, hg⟩ := s.putTile_eq n tl
  have ha := State.aside_same (foldl_recordInj_aside n rs s1)
  rw [he]
  refine ⟨⟨fun m hm => ?_, ha.1.trans hf, fun off h => (foldl_recordInj_get n rs s1 h).trans (hg off)⟩, ?_, ha.2.2.2.trans hc⟩
  · unfold State.tile
    rw [ha.2.1, ht]
    exact State.tile_setTile_other s _ hm
  · rw [← hs]
    unfold State.sent
    rw [ha.2.2.1]

theorem State.putTile_tile (s : State) (n : Nat) (tl : Tile) :
    (s.putTile n tl).tile n
      = tl.raised.foldl (fun tl r => tl.emit n s.frameNo 6 3 r.slot (r.cls % 2 ^ 16 + (r.detail + r.slot * 2 ^ 32) * 2 ^ 64)) { tl with raised := [], outbox := [] } := by
  unfold State.putTile State.tile
  dsimp only
  rw [(State.aside_same (foldl_recordInj_aside n _ _)).2.1]
  split <;> exact State.tile_setTile_same s n _

theorem State.putTile_steady (s : State) (n : Nat) (tl : Tile) : ((s.putTile n tl).tile n).steady = tl.steady := by
  rw [State.putTile_tile, foldl_emit_steady]
  rfl

/-- The steps of `afterTile`: the status bits, then the tile put back. -/
theorem State.afterTile_eq (s : State) (n : Nat) (old new : Tile) :
    ∃ (s1 : State) (tl : Tile), s.afterTile n old new = s1.putTile n tl ∧ s1.aside = s.aside ∧ (∀ off, s1.get off = s.get off)
      ∧ (tl = new ∨ ∃ fr k d, tl = new.emit n fr 5 3 k d) := by
  unfold State.afterTile
  refine ⟨_, _, rfl, ?_, ?_, ?_⟩
  · simp only [State.aside_ite, State.frameBit_aside, ite_self]
  · intro off
    have hb : ∀ (x : State) (i : Nat), (x.frameBit i).get off = x.get off := fun _ _ => rfl
    simp only [State.get_ite, hb, ite_self]
  · split
    · exact .inr ⟨_, _, _, rfl⟩
    · exact .inl rfl

theorem State.afterTile_steady (s : State) (n : Nat) (old new : Tile) : ((s.afterTile n old new).tile n).steady = new.steady := by
  obtain ⟨s1, tl, he, -, -, h⟩ := s.afterTile_eq n old new
  rw [he, State.putTile_steady]
  rcases h with rfl | ⟨fr, k, d, rfl⟩
  · rfl
  · exact Tile.emit_steady _ _ _ _ _ _ _

theorem TileAndMesh.refl (n : Nat) (s : State) : TileAndMesh n s s := ⟨fun _ _ => rfl, rfl, fun _ _ => rfl⟩

theorem TileAndMesh.trans {n : Nat} {s u v : State} (h : TileAndMesh n s u) (h' : TileAndMesh n u v) : TileAndMesh n s v :=
  ⟨fun m hm => (h'.1 m hm).trans (h.1 m hm), h'.2.1.trans h.2.1, fun off ho => (h'.2.2 off ho).trans (h.2.2 off ho)⟩

theorem OnlyTile.refl (n : Nat) (s : State) : OnlyTile n s s := ⟨.refl n s, rfl, rfl⟩

theorem OnlyTile.trans {n : Nat} {s u v : State} (h : OnlyTile n s u) (h' : OnlyTile n u v) : OnlyTile n s v :=
  ⟨h.1.trans h'.1, h'.2.1.trans h.2.1, h'.2.2.trans h.2.2⟩

theorem OnlyTile.of_aside {n : Nat} {s u : State} (h : u.aside = s.aside) (hg : ∀ off, isFl off = false → u.get off = s.get off) : OnlyTile n s u := by
  obtain ⟨hf, ht, hp, hc⟩ := State.aside_same h
  exact ⟨⟨fun m _ => by unfold State.tile; rw [ht], hf, hg⟩, by unfold State.sent; rw [hp], hc⟩

theorem State.afterTile_only (s : State) (n : Nat) (old new : Tile) : OnlyTile n s (s.afterTile n old new) := by
  obtain ⟨s1, tl, he, ha, hg, -⟩ := s.afterTile_eq n old new
  rw [he]
  exact (OnlyTile.of_aside ha (fun off _ => hg off)).trans (s1.putTile_only n tl)

/-- An event of a tile that executes and has not passed the slot. -/
theorem State.tileAt_live (s : State) (n t : Nat) (f : Tile → Tile) (h : s.tileRuns n = true) (ht : (s.tile n).now ≤ t) :
    s.tileAt n t f = (s.seen t).afterTile n (s.tile n) (f (s.atSlot n t)) := by
  unfold State.tileAt
  rw [if_pos ⟨h, ht⟩]
  rfl

theorem State.tileEvent_live (s : State) (n t : Nat) (f : Tile → Tile) (h : s.tileLive n t = true) :
    s.tileEvent n t f = (s.seen t).afterTile n (s.tile n) (f (s.atSlot n t)) := by
  simp only [State.tileLive, Bool.and_eq_true, decide_eq_true_eq] at h
  unfold State.tileEvent
  rw [if_pos h.2, State.tileAt_live s n t f h.1.1 h.1.2]

/-- An event of a tile that does not execute, that is past the slot, or whose leap window has ended does nothing. -/
theorem State.tileEvent_idle (s : State) (n t : Nat) (f : Tile → Tile) (h : s.tileLive n t = false) : s.tileEvent n t f = s := by
  unfold State.tileEvent State.tileAt
  split
  · rw [if_neg]
    intro hc
    have : s.tileLive n t = true := by simp only [State.tileLive, Bool.and_eq_true, decide_eq_true_eq]; exact ⟨hc, ‹_›⟩
    rw [this] at h
    cases h
  · rfl

/-- All that an event of tile `n` does outside it. -/
theorem State.tileEvent_only (s : State) (n t : Nat) (f : Tile → Tile) (h : s.tileLive n t = true) : OnlyTile n (s.seen t) (s.tileEvent n t f) := by
  rw [State.tileEvent_live s n t f h]
  exact State.afterTile_only _ _ _ _

/-- What an event makes of its tile, but for counters, status bits and the trace. -/
theorem State.tileEvent_steady (s : State) (n t : Nat) (f : Tile → Tile) (h : s.tileLive n t = true) :
    ((s.tileEvent n t f).tile n).steady = (f (s.atSlot n t)).steady := by
  rw [State.tileEvent_live s n t f h]
  exact State.afterTile_steady _ _ _ _

/-! The memory of a tile keeps its canonical form. -/

theorem Tile.writeLine_memWf (tl : Tile) (l mask data : Nat) (p : Bool) (h : tl.memWf = true) : (tl.writeLine l mask data p).memWf = true := by
  have hm : ∀ (k w : Nat) (x : Tile), x.memWf = true → (upto (fun w tl =>
      if bitAt mask w then
        { tl with
          mem := bytesPut tl.mem (64 * l + 8 * w) 8 (bitsAt data (64 * w) 64)
          wrong := smapPut (fun _ => []) tl.wrong (8 * l + w) [] }
      else tl) w k x).memWf = true := by
    intro k
    induction k with
    | zero => intro w x hx; exact hx
    | succ k ih =>
      intro w x hx
      rw [upto]
      apply ih
      split
      · simp only [Tile.memWf, Bool.and_eq_true] at hx ⊢
        exact ⟨⟨smapWf_bytesPut _ _ _ _ hx.1.1, hx.1.2⟩, hx.2⟩
      · exact hx
  have he : ∀ (x : Tile) (c k : Nat), (x.event c k).memWf = x.memWf := by
    intro x c k
    have hp : ∀ i (y : Tile), (Tile.countAt c k i y).memWf = y.memWf := by
      intro i y
      unfold Tile.countAt
      dsimp only
      repeat' (first | rfl | split)
    have hu : ∀ j lo (y : Tile), (upto (Tile.countAt c k) lo j y).memWf = y.memWf := by
      intro j
      induction j with
      | zero => intro lo y; rfl
      | succ j ih => intro lo y; rw [upto, ih, hp]
    exact hu 64 0 x
  have hs : ∀ (x : Tile) (b : Bool), x.memWf = true → ({ x with poison := ssetSet x.poison l b } : Tile).memWf = true := by
    intro x b hx
    simp only [Tile.memWf, Bool.and_eq_true] at hx ⊢
    exact ⟨⟨hx.1.1, smapWf_put _ _ _ _ hx.1.2⟩, hx.2⟩
  have h8 := hm 8 0 tl h
  unfold Tile.writeLine
  dsimp only
  split
  · exact hs _ _ ((he _ _ _).trans h8)
  · split
    · exact hs _ _ h8
    · exact h8

theorem Tile.setEve_memWf (tl : Tile) (l : Nat) (b : Bool) (h : tl.memWf = true) : (tl.setEve l b).memWf = true := by
  simp only [Tile.memWf, Bool.and_eq_true] at h ⊢
  exact ⟨h.1, smapWf_put _ _ _ _ h.2⟩

theorem Tile.clearSpans_memWf (tl : Tile) (x : List (Nat × Nat)) (h : tl.memWf = true) : (tl.clearSpans x).memWf = true := by
  simp only [Tile.memWf, Bool.and_eq_true] at h ⊢
  exact ⟨h.1, smapWf_drop _ _ _ h.2⟩

end Sys2Proof.Machine
end

