-- ==== Sys2Proof/Laws/Objects.lean ====
section
/-! SUPPORT. What leaves the barriers and queues of a tile alone: one lemma for every operation of a tile that moves none of them. -/

set_option linter.unusedSimpArgs false

namespace Sys2Proof.Machine

theorem isObj_high (off : Nat) (h : 0xA00 ≤ off) : isObj off = false := by
  have a : ¬ off < 0x80 := by omega
  have b : ¬ off < 0xA00 := by omega
  simp only [isObj, decide_eq_false a, decide_eq_false b, Bool.and_false, Bool.or_false]

theorem isObj_evCnt (i : Nat) : isObj (rTlEvCnt i) = false := isObj_high _ (by unfold rTlEvCnt; omega)
theorem isObj_ledger (e k : Nat) : isObj (rTlLedger e k) = false := isObj_high _ (by unfold rTlLedger; omega)
theorem isObj_ledgerHi (e k : Nat) : isObj (rTlLedger e k + 4) = false := isObj_high _ (by unfold rTlLedger; omega)

/-- What the barriers and queues of a tile read as. -/
def Tile.objs (tl : Tile) (off : Nat) : Nat := if isObj off then tl.get off else 0

/-- Tiles with the same barriers and queues read the same there. -/
theorem Tile.sameObjs_of {a b : Tile} (h : a.objs = b.objs) : a.sameObjs b := by
  intro off ho
  have := congrFun h off
  simpa only [Tile.objs, ho, if_true] using this

theorem Tile.objs_of {a b : Tile} (h : a.regs = b.regs) : a.objs = b.objs := by
  funext off
  simp only [Tile.objs, Tile.get, h]

theorem Tile.set_objs (tl : Tile) (off v : Nat) (h : isObj off = false) : (tl.set off v).objs = tl.objs := by
  funext j
  unfold Tile.objs
  split
  · rename_i ho
    exact Tile.get_set_other _ _ (fun e => by rw [e, h] at ho; cases ho)
  · rfl

theorem Tile.orBits_objs (tl : Tile) (off v : Nat) (h : isObj off = false) : (tl.orBits off v).objs = tl.objs := Tile.set_objs _ _ _ h

theorem Tile.bump_objs (tl : Tile) (off v : Nat) (h : isObj off = false) : (tl.bump off v).objs = tl.objs := Tile.set_objs _ _ _ h

theorem Tile.bump64_objs (tl : Tile) (off : Nat) (k : Int) (h : isObj off = false) (h' : isObj (off + 4) = false) : (tl.bump64 off k).objs = tl.objs :=
  (Tile.set_objs _ _ _ h').trans (Tile.set_objs _ _ _ h)

theorem Tile.objs_ite (c : Prop) [Decidable c] (a b : Tile) : (if c then a else b).objs = if c then a.objs else b.objs := by
  split <;> rfl

theorem foldl_objs {α : Type} (f : Tile → α → Tile) (h : ∀ s x, (f s x).objs = s.objs) (l : List α) (s : Tile) :
    (l.foldl f s).objs = s.objs := by
  induction l generalizing s with
  | nil => rfl
  | cons x l ih => rw [List.foldl_cons, ih, h]

theorem upto_objs (f : Nat → Tile → Tile) (h : ∀ i s, (f i s).objs = s.objs) (lo n : Nat) (s : Tile) : (upto f lo n s).objs = s.objs := by
  induction n generalizing lo s with
  | zero => rfl
  | succ n ih => rw [upto, ih, h]

/-- The registers alone decide what the barriers and queues read as. -/
@[simp] theorem Tile.objs_mk (regs mem wrong poison eve sregs routes seq mx vx mv now stop ops signals ovf began outbox accesses dead withheld raised tags ranges openRange reexec rangeCtr again saved redoFrom mvHeld tracker syncWait frozen hz hzFrame trace slipFrom slipCause retired) : Tile.objs ⟨regs, mem, wrong, poison, eve, sregs, routes, seq, mx, vx, mv, now, stop, ops, signals, ovf, began, outbox, accesses, dead, withheld, raised, tags, ranges, openRange, reexec, rangeCtr, again, saved, redoFrom, mvHeld, tracker, syncWait, frozen, hz, hzFrame, trace, slipFrom, slipCause, retired⟩ =
    fun off => if isObj off then (smapGet tlReset regs off).toNat else 0 := Eq.trans rfl rfl

theorem Tile.objs_eta (s : Tile) : (fun off => if isObj off then (smapGet tlReset s.regs off).toNat else 0) = s.objs := Eq.trans rfl rfl

@[simp] theorem Tile.countAt_objs (code k i : Nat) (tl : Tile) : (Tile.countAt code k i tl).objs = tl.objs := by
  unfold Tile.countAt
  dsimp only
  repeat' (first | rfl | rw [Tile.bump_objs _ _ _ (isObj_evCnt _)] | rw [Tile.set_objs _ _ _ (isObj_evCnt _)] | split)

@[simp] theorem Tile.event_objs (tl : Tile) (code k : Nat) : (Tile.event tl code k).objs = tl.objs :=
  upto_objs _ (fun i s => Tile.countAt_objs _ _ i s) _ _ _

@[simp] theorem Tile.conds_objs (tl : Tile) (xs : List Conds) : (Tile.conds tl xs).objs = tl.objs :=
  upto_objs _ (fun _ s => Tile.event_objs s _ _) _ _ _

@[simp] theorem Tile.raiseInj_objs (tl : Tile) (cls slot detail : Nat) (inj : Bool) : (Tile.raiseInj tl cls slot detail inj).objs = tl.objs := by
  unfold Tile.raiseInj
  simp (disch := first | decide | exact isObj_ledger _ _ | exact isObj_ledgerHi _ _) only [Tile.objs_mk, Tile.objs_eta, Tile.objs_ite, ite_self]

@[simp] theorem Tile.raise_objs (tl : Tile) (cls slot detail : Nat) : (Tile.raise tl cls slot detail).objs = tl.objs := by
  unfold Tile.raise
  simp (disch := first | decide | exact isObj_ledger _ _ | exact isObj_ledgerHi _ _) only [Tile.objs_mk, Tile.objs_eta, Tile.objs_ite, ite_self, Tile.raiseInj_objs]

@[simp] theorem Tile.hazard_objs (tl : Tile) (kind x : Nat) (eng : Engine) (slot : Nat) : (Tile.hazard tl kind x eng slot).objs = tl.objs := by
  unfold Tile.hazard
  simp (disch := first | decide | exact isObj_ledger _ _ | exact isObj_ledgerHi _ _) only [Tile.objs_mk, Tile.objs_eta, Tile.objs_ite, ite_self, Tile.orBits_objs, Tile.bump_objs, Tile.event_objs, Tile.set_objs]

@[simp] theorem Tile.withhold_objs (tl : Tile) : (Tile.withhold tl).objs = tl.objs := by
  unfold Tile.withhold
  simp (disch := first | decide | exact isObj_ledger _ _ | exact isObj_ledgerHi _ _) only [Tile.objs_mk, Tile.objs_eta, Tile.objs_ite, ite_self, Tile.set_objs]

@[simp] theorem Tile.setHzQ_objs (tl : Tile) (q : Nat) (h : HzQueue) : (Tile.setHzQ tl q h).objs = tl.objs := by
  unfold Tile.setHzQ
  simp (disch := first | decide | exact isObj_ledger _ _ | exact isObj_ledgerHi _ _) only [Tile.objs_mk, Tile.objs_eta, Tile.objs_ite, ite_self]

@[simp] theorem Tile.checkWord_objs (slot l w : Nat) (tl : Tile) (data : Nat) : (Tile.checkWord slot l w tl data).1.objs = tl.objs := by
  unfold Tile.checkWord
  repeat' (first | (simp (disch := first | decide | exact isObj_ledger _ _ | exact isObj_ledgerHi _ _) only [Tile.objs_mk, Tile.objs_eta, Tile.objs_ite, ite_self, Tile.event_objs, Tile.bump_objs, Tile.raise_objs, Tile.set_objs, Tile.orBits_objs]; done) | rfl | split | simp (disch := first | decide | exact isObj_ledger _ _ | exact isObj_ledgerHi _ _) only [Tile.objs_mk, Tile.objs_eta, Tile.objs_ite, ite_self, Tile.event_objs, Tile.bump_objs, Tile.raise_objs, Tile.set_objs, Tile.orBits_objs])

@[simp] theorem Tile.checkWords_objs (slot l mask k w : Nat) (tl : Tile) (data : Nat) : (Tile.checkWords slot l mask k w tl data).1.objs = tl.objs := by
  induction k generalizing w tl data with
  | zero => rfl
  | succ k ih =>
    rw [Tile.checkWords]
    split
    · show (Tile.checkWords slot l mask k (w + 1) (Tile.checkWord slot l w tl data).1 (Tile.checkWord slot l w tl data).2.1).1.objs = tl.objs
      rw [ih, Tile.checkWord_objs]
    · rw [ih]

@[simp] theorem Tile.readWords_objs (tl : Tile) (slot l mask : Nat) : (Tile.readWords tl slot l mask).1.objs = tl.objs := by
  unfold Tile.readWords
  simp (disch := first | decide | exact isObj_ledger _ _ | exact isObj_ledgerHi _ _) only [Tile.objs_mk, Tile.objs_eta, Tile.objs_ite, ite_self, Tile.checkWords_objs]

@[simp] theorem Tile.readLine_objs (tl : Tile) (slot l : Nat) : (Tile.readLine tl slot l).1.objs = tl.objs := by
  unfold Tile.readLine
  simp (disch := first | decide | exact isObj_ledger _ _ | exact isObj_ledgerHi _ _) only [Tile.objs_mk, Tile.objs_eta, Tile.objs_ite, ite_self, Tile.readWords_objs]

@[simp] theorem Tile.setEve_objs (tl : Tile) (l : Nat) (b : Bool) : (Tile.setEve tl l b).objs = tl.objs := by
  unfold Tile.setEve
  simp (disch := first | decide | exact isObj_ledger _ _ | exact isObj_ledgerHi _ _) only [Tile.objs_mk, Tile.objs_eta, Tile.objs_ite, ite_self]

@[simp] theorem Tile.setEng_objs (tl : Tile) (a : Engine) (a1 : Eng) : (Tile.setEng tl a a1).objs = tl.objs := by
  unfold Tile.setEng
  repeat' (first | (simp (disch := first | decide | exact isObj_ledger _ _ | exact isObj_ledgerHi _ _) only [Tile.objs_mk, Tile.objs_eta, Tile.objs_ite, ite_self]; done) | rfl | split)

@[simp] theorem Tile.collision_objs (tl : Tile) (bank : Nat) (eng : Engine) (slot : Nat) : (Tile.collision tl bank eng slot).objs = tl.objs := by
  unfold Tile.collision
  simp (disch := first | decide | exact isObj_ledger _ _ | exact isObj_ledgerHi _ _) only [Tile.objs_mk, Tile.objs_eta, Tile.objs_ite, ite_self, Tile.raise_objs, Tile.event_objs, Tile.orBits_objs]

@[simp] theorem Tile.access_objs (tl : Tile) (a : Access) : (Tile.access tl a).1.objs = tl.objs := by
  unfold Tile.access
  repeat' (first | (simp (disch := first | decide | exact isObj_ledger _ _ | exact isObj_ledgerHi _ _) only [Tile.objs_mk, Tile.objs_eta, Tile.objs_ite, ite_self, Tile.collision_objs]; done) | rfl | split)

@[simp] theorem Tile.hzPop_objs (tl : Tile) (q : Nat) (eng : Engine) (slot : Nat) : (Tile.hzPop tl q eng slot).objs = tl.objs := by
  unfold Tile.hzPop
  simp (disch := first | decide | exact isObj_ledger _ _ | exact isObj_ledgerHi _ _) only [Tile.objs_mk, Tile.objs_eta, Tile.objs_ite, ite_self, Tile.hazard_objs, Tile.setHzQ_objs]

@[simp] theorem Tile.hzPush_objs (tl : Tile) (q : Nat) (eng : Engine) (slot : Nat) (arrived : Bool) : (Tile.hzPush tl q eng slot arrived).objs = tl.objs := by
  unfold Tile.hzPush
  simp (disch := first | decide | exact isObj_ledger _ _ | exact isObj_ledgerHi _ _) only [Tile.objs_mk, Tile.objs_eta, Tile.objs_ite, ite_self, Tile.hazard_objs, Tile.setHzQ_objs]

@[simp] theorem Tile.arriving_objs (tl : Tile) (q : Nat) : (Tile.arriving tl q).objs = tl.objs := by
  unfold Tile.arriving
  repeat' (first | (simp (disch := first | decide | exact isObj_ledger _ _ | exact isObj_ledgerHi _ _) only [Tile.objs_mk, Tile.objs_eta, Tile.objs_ite, ite_self]; done) | rfl | split)

@[simp] theorem Tile.setS_objs (tl : Tile) (i : Nat) (v : W64) : (Tile.setS tl i v).objs = tl.objs := by
  unfold Tile.setS
  simp (disch := first | decide | exact isObj_ledger _ _ | exact isObj_ledgerHi _ _) only [Tile.objs_mk, Tile.objs_eta, Tile.objs_ite, ite_self]

@[simp] theorem Tile.addrBound_objs (tl : Tile) (d : Nat) (eng : Engine) (slot : Nat) : (Tile.addrBound tl d eng slot).objs = tl.objs := by
  unfold Tile.addrBound
  simp (disch := first | decide | exact isObj_ledger _ _ | exact isObj_ledgerHi _ _) only [Tile.objs_mk, Tile.objs_eta, Tile.objs_ite, ite_self, Tile.raise_objs, Tile.event_objs, Tile.orBits_objs]

@[simp] theorem Tile.escape_objs (tl : Tile) (slot word : Nat) : (Tile.escape tl slot word).objs = tl.objs := by
  unfold Tile.escape
  simp (disch := first | decide | exact isObj_ledger _ _ | exact isObj_ledgerHi _ _) only [Tile.objs_mk, Tile.objs_eta, Tile.objs_ite, ite_self, Tile.raise_objs, Tile.event_objs, Tile.bump_objs, Tile.orBits_objs]

@[simp] theorem Tile.holdLine_objs (tl : Tile) (slot l : Nat) : (Tile.holdLine tl slot l).objs = tl.objs := by
  unfold Tile.holdLine
  simp (disch := first | decide | exact isObj_ledger _ _ | exact isObj_ledgerHi _ _) only [Tile.objs_mk, Tile.objs_eta, Tile.objs_ite, ite_self, Tile.raise_objs, Tile.event_objs, Tile.bump_objs, Tile.orBits_objs]

@[simp] theorem Tile.setRange_objs (tl : Tile) (e : Nat) (r : Option Range) : (Tile.setRange tl e r).objs = tl.objs := by
  unfold Tile.setRange
  simp (disch := first | decide | exact isObj_ledger _ _ | exact isObj_ledgerHi _ _) only [Tile.objs_mk, Tile.objs_eta, Tile.objs_ite, ite_self]

@[simp] theorem Tile.modRange_objs (tl : Tile) (e : Nat) (f : Range → Range) : (Tile.modRange tl e f).objs = tl.objs := by
  unfold Tile.modRange
  repeat' (first | (simp (disch := first | decide | exact isObj_ledger _ _ | exact isObj_ledgerHi _ _) only [Tile.objs_mk, Tile.objs_eta, Tile.objs_ite, ite_self, Tile.setRange_objs]; done) | rfl | split)

@[simp] theorem Tile.notePop_objs (tl : Tile) (c : Cmd) (q : Nat) : (Tile.notePop tl c q).objs = tl.objs := by
  unfold Tile.notePop
  repeat' (first | (simp (disch := first | decide | exact isObj_ledger _ _ | exact isObj_ledgerHi _ _) only [Tile.objs_mk, Tile.objs_eta, Tile.objs_ite, ite_self, Tile.modRange_objs]; done) | rfl | split)

@[simp] theorem Tile.notePush_objs (tl : Tile) (c : Cmd) (q : Nat) : (Tile.notePush tl c q).objs = tl.objs := by
  unfold Tile.notePush
  repeat' (first | (simp (disch := first | decide | exact isObj_ledger _ _ | exact isObj_ledgerHi _ _) only [Tile.objs_mk, Tile.objs_eta, Tile.objs_ite, ite_self, Tile.modRange_objs]; done) | rfl | split)

@[simp] theorem Tile.claim_objs (tl : Tile) (eng : Engine) (slot l : Nat) : (Tile.claim tl eng slot l).1.objs = tl.objs := by
  unfold Tile.claim
  simp (disch := first | decide | exact isObj_ledger _ _ | exact isObj_ledgerHi _ _) only [Tile.objs_mk, Tile.objs_eta, Tile.objs_ite, ite_self, Tile.access_objs]

@[simp] theorem Tile.charge_objs (tl : Tile) (eng : Engine) (acct : Nat) (k : Int) : (Tile.charge tl eng acct k).objs = tl.objs := by
  unfold Tile.charge
  simp (disch := first | decide | exact isObj_ledger _ _ | exact isObj_ledgerHi _ _) only [Tile.objs_mk, Tile.objs_eta, Tile.objs_ite, ite_self, Tile.bump64_objs]

@[simp] theorem Tile.chargeSpan_objs (alen t s : Nat) (eng : Engine) (tl : Tile) : (Tile.chargeSpan alen t s eng tl).objs = tl.objs := by
  unfold Tile.chargeSpan
  repeat' (first | (simp (disch := first | decide | exact isObj_ledger _ _ | exact isObj_ledgerHi _ _) only [Tile.objs_mk, Tile.objs_eta, Tile.objs_ite, ite_self, Tile.charge_objs, Tile.event_objs]; done) | rfl | split)

@[simp] theorem Tile.emit_objs (tl : Tile) (n frame kind eng slot data : Nat) : (Tile.emit tl n frame kind eng slot data).objs = tl.objs := by
  unfold Tile.emit
  simp (disch := first | decide | exact isObj_ledger _ _ | exact isObj_ledgerHi _ _) only [Tile.objs_mk, Tile.objs_eta, Tile.objs_ite, ite_self, Tile.event_objs, Tile.bump_objs]

@[simp] theorem Tile.endSlip_objs (tl : Tile) (n frame t : Nat) : (Tile.endSlip tl n frame t).objs = tl.objs := by
  unfold Tile.endSlip
  repeat' (first | (simp (disch := first | decide | exact isObj_ledger _ _ | exact isObj_ledgerHi _ _) only [Tile.objs_mk, Tile.objs_eta, Tile.objs_ite, ite_self, Tile.emit_objs]; done) | rfl | split)

@[simp] theorem Tile.slip_objs (tl : Tile) (k : Nat) : (Tile.slip tl k).objs = tl.objs := by
  unfold Tile.slip
  simp (disch := first | decide | exact isObj_ledger _ _ | exact isObj_ledgerHi _ _) only [Tile.objs_mk, Tile.objs_eta, Tile.objs_ite, ite_self, Tile.event_objs, Tile.orBits_objs, Tile.bump_objs, Tile.set_objs]

@[simp] theorem Tile.traceSlip_objs (tl : Tile) (n frame s t : Nat) : (Tile.traceSlip tl n frame s t).objs = tl.objs := by
  unfold Tile.traceSlip
  repeat' (first | (simp (disch := first | decide | exact isObj_ledger _ _ | exact isObj_ledgerHi _ _) only [Tile.objs_mk, Tile.objs_eta, Tile.objs_ite, ite_self, Tile.endSlip_objs]; done) | rfl | split)

@[simp] theorem Tile.countX_objs (tl : Tile) (k : Nat) : (Tile.countX tl k).objs = tl.objs := by
  unfold Tile.countX
  simp (disch := first | decide | exact isObj_ledger _ _ | exact isObj_ledgerHi _ _) only [Tile.objs_mk, Tile.objs_eta, Tile.objs_ite, ite_self, Tile.event_objs, Tile.bump_objs, Tile.set_objs]

@[simp] theorem Tile.mxCheck_objs (word : Nat) (e : MxFail) (tl : Tile) : (Tile.mxCheck word e tl).objs = tl.objs := by
  unfold Tile.mxCheck
  repeat' (first | (simp (disch := first | decide | exact isObj_ledger _ _ | exact isObj_ledgerHi _ _) only [Tile.objs_mk, Tile.objs_eta, Tile.objs_ite, ite_self, Tile.event_objs, Tile.bump_objs, Tile.set_objs, Tile.orBits_objs]; done) | rfl | split)

@[simp] theorem Tile.mmsRecords_objs (tl : Tile) (t : Nat) (o : Op) (q : MxPar) : (Tile.mmsRecords tl t o q).objs = tl.objs := by
  unfold Tile.mmsRecords
  simp (disch := first | decide | exact isObj_ledger _ _ | exact isObj_ledgerHi _ _) only [Tile.objs_mk, Tile.objs_eta, Tile.objs_ite, ite_self, implies_true, foldl_objs, Tile.raise_objs, Tile.orBits_objs, Tile.bump_objs, Tile.event_objs]

@[simp] theorem Tile.windowFault_objs (tl : Tile) (c : Cmd) (slot step q : Nat) : (Tile.windowFault tl c slot step q).objs = tl.objs := by
  unfold Tile.windowFault
  simp (disch := first | decide | exact isObj_ledger _ _ | exact isObj_ledgerHi _ _) only [Tile.objs_mk, Tile.objs_eta, Tile.objs_ite, ite_self, Tile.raise_objs, Tile.event_objs, Tile.set_objs, Tile.orBits_objs, Tile.bump_objs]

@[simp] theorem Tile.hzWindow_objs (tl : Tile) (q pos : Nat) (rel : Int) (slot : Nat) : (Tile.hzWindow tl q pos rel slot).objs = tl.objs := by
  unfold Tile.hzWindow
  simp (disch := first | decide | exact isObj_ledger _ _ | exact isObj_ledgerHi _ _) only [Tile.objs_mk, Tile.objs_eta, Tile.objs_ite, ite_self, Tile.hazard_objs]

@[simp] theorem Tile.vxChecks_objs (tl : Tile) (t : Nat) (o : Op) (steps : List Nat) : (Tile.vxChecks tl t o steps).objs = tl.objs := by
  unfold Tile.vxChecks
  repeat' (first | (simp (disch := first | decide | exact isObj_ledger _ _ | exact isObj_ledgerHi _ _) only [Tile.objs_mk, Tile.objs_eta, Tile.objs_ite, ite_self, Tile.raiseInj_objs, Tile.set_objs, Tile.orBits_objs, Tile.event_objs, Tile.bump_objs]; done) | rfl | split)

@[simp] theorem Tile.redRecords_objs (tl : Tile) (t : Nat) (o : Op) (q : VxPar) : (Tile.redRecords tl t o q).objs = tl.objs := by
  unfold Tile.redRecords
  simp (disch := first | decide | exact isObj_ledger _ _ | exact isObj_ledgerHi _ _) only [Tile.objs_mk, Tile.objs_eta, Tile.objs_ite, ite_self, implies_true, foldl_objs, Tile.event_objs, Tile.raise_objs]

@[simp] theorem Tile.atEnd_objs (tl : Tile) (n frame alen : Nat) : (Tile.atEnd tl n frame alen).objs = tl.objs := by
  unfold Tile.atEnd
  simp (disch := first | decide | exact isObj_ledger _ _ | exact isObj_ledgerHi _ _) only [Tile.objs_mk, Tile.objs_eta, Tile.objs_ite, ite_self, Tile.emit_objs, Tile.endSlip_objs]

@[simp] theorem Tile.fetchWord_objs (tl : Tile) (slot idx : Nat) : (Tile.fetchWord tl slot idx).1.objs = tl.objs := by
  unfold Tile.fetchWord
  dsimp only
  split
  · rfl
  · exact (Tile.event_objs _ _ _).trans (Tile.readWords_objs _ _ _ _)

@[simp] theorem Tile.sqFetch_objs (tl : Tile) (slot : Nat) (defined : Nat → Bool) : (Tile.sqFetch tl slot defined).1.objs = tl.objs := by
  have h1 := Tile.fetchWord_objs tl slot tl.seq.next
  unfold Tile.sqFetch
  generalize tl.fetchWord slot tl.seq.next = r at h1 ⊢
  obtain ⟨tl1, o⟩ := r
  have h2 := Tile.fetchWord_objs tl1 (slot + 1) (tl1.seq.next + 1)
  generalize hr : tl1.fetchWord (slot + 1) (tl1.seq.next + 1) = r2 at h2
  obtain ⟨tl2, o2⟩ := r2
  cases o with
  | none => exact h1
  | some wp =>
    obtain ⟨w, p⟩ := wp
    dsimp only
    rw [hr]
    cases o2 with
    | none =>
      dsimp only
      repeat' split
      all_goals first | exact h1 | exact h2.trans h1
    | some wq =>
      dsimp only
      repeat' split
      all_goals first | exact h1 | exact h2.trans h1

@[simp] theorem Tile.seqGo_objs (tl : Tile) (at_ next : Nat) : (Tile.seqGo tl at_ next).objs = tl.objs := by
  unfold Tile.seqGo
  simp (disch := first | decide | exact isObj_ledger _ _ | exact isObj_ledgerHi _ _) only [Tile.objs_mk, Tile.objs_eta, Tile.objs_ite, ite_self]

@[simp] theorem Tile.decoded_objs (tl : Tile) (idx k : Nat) : (Tile.decoded tl idx k).objs = tl.objs := by
  unfold Tile.decoded
  simp (disch := first | decide | exact isObj_ledger _ _ | exact isObj_ledgerHi _ _) only [Tile.objs_mk, Tile.objs_eta, Tile.objs_ite, ite_self, Tile.event_objs, Tile.set_objs]

@[simp] theorem Tile.sqHoldOn_objs (tl : Tile) (h : SqHold) (idx k : Nat) : (Tile.sqHoldOn tl h idx k).objs = tl.objs := by
  unfold Tile.sqHoldOn
  simp (disch := first | decide | exact isObj_ledger _ _ | exact isObj_ledgerHi _ _) only [Tile.objs_mk, Tile.objs_eta, Tile.objs_ite, ite_self, Tile.decoded_objs]

@[simp] theorem Tile.setTag_objs (tl : Tile) (g : Nat) (v : Tag) : (Tile.setTag tl g v).objs = tl.objs := by
  unfold Tile.setTag
  simp (disch := first | decide | exact isObj_ledger _ _ | exact isObj_ledgerHi _ _) only [Tile.objs_mk, Tile.objs_eta, Tile.objs_ite, ite_self]

@[simp] theorem Tile.illegal_objs (tl : Tile) (t idx : Nat) : (Tile.illegal tl t idx).objs = tl.objs := by
  unfold Tile.illegal
  simp (disch := first | decide | exact isObj_ledger _ _ | exact isObj_ledgerHi _ _) only [Tile.objs_mk, Tile.objs_eta, Tile.objs_ite, ite_self, Tile.withhold_objs, Tile.raise_objs, Tile.orBits_objs]

@[simp] theorem Tile.enqueue_objs (tl : Tile) (alen t bits word : Nat) (eng : Engine) : (Tile.enqueue tl alen t bits word eng).objs = tl.objs := by
  unfold Tile.enqueue
  repeat' (first | (simp (disch := first | decide | exact isObj_ledger _ _ | exact isObj_ledgerHi _ _) only [Tile.objs_mk, Tile.objs_eta, Tile.objs_ite, ite_self, Tile.setEng_objs, Tile.modRange_objs, Tile.charge_objs, Tile.slip_objs]; done) | rfl | split | simp (disch := first | decide | exact isObj_ledger _ _ | exact isObj_ledgerHi _ _) only [Tile.objs_mk, Tile.objs_eta, Tile.objs_ite, ite_self, Tile.setEng_objs, Tile.modRange_objs, Tile.charge_objs, Tile.slip_objs])

@[simp] theorem Tile.routineDispatch_objs (tl : Tile) (alen t version : Nat) (len : Nat → Nat) (cmds : Nat → List Nat) : (Tile.routineDispatch tl alen t version len cmds).objs = tl.objs := by
  unfold Tile.routineDispatch
  repeat' (first | (simp (disch := first | decide | exact isObj_ledger _ _ | exact isObj_ledgerHi _ _) only [Tile.objs_mk, Tile.objs_eta, Tile.objs_ite, ite_self, Tile.illegal_objs, Tile.enqueue_objs]; done) | rfl | split | simp (disch := first | decide | exact isObj_ledger _ _ | exact isObj_ledgerHi _ _) only [Tile.objs_mk, Tile.objs_eta, Tile.objs_ite, ite_self, Tile.illegal_objs, Tile.enqueue_objs])

@[simp] theorem Tile.clearSpans_objs (tl : Tile) (spans : List (Nat × Nat)) : (Tile.clearSpans tl spans).objs = tl.objs := by
  unfold Tile.clearSpans
  simp (disch := first | decide | exact isObj_ledger _ _ | exact isObj_ledgerHi _ _) only [Tile.objs_mk, Tile.objs_eta, Tile.objs_ite, ite_self]

@[simp] theorem Tile.redoEnd_objs (tl : Tile) (e : Nat) : (Tile.redoEnd tl e).objs = tl.objs := by
  unfold Tile.redoEnd
  repeat' (first | (simp (disch := first | decide | exact isObj_ledger _ _ | exact isObj_ledgerHi _ _) only [Tile.objs_mk, Tile.objs_eta, Tile.objs_ite, ite_self, Tile.setRange_objs, Tile.clearSpans_objs]; done) | rfl | split)

@[simp] theorem Tile.rangeDone_objs (tl : Tile) (c : Cmd) : (Tile.rangeDone tl c).objs = tl.objs := by
  unfold Tile.rangeDone
  repeat' (first | (simp (disch := first | decide | exact isObj_ledger _ _ | exact isObj_ledgerHi _ _) only [Tile.objs_mk, Tile.objs_eta, Tile.objs_ite, ite_self, Tile.modRange_objs, Tile.redoEnd_objs]; done) | rfl | split | simp (disch := first | decide | exact isObj_ledger _ _ | exact isObj_ledgerHi _ _) only [Tile.objs_mk, Tile.objs_eta, Tile.objs_ite, ite_self, Tile.modRange_objs, Tile.redoEnd_objs])

@[simp] theorem Tile.anchorMiss_objs (tl : Tile) (alen t : Nat) (eng : Engine) (further : Further) : (Tile.anchorMiss tl alen t eng further).objs = tl.objs := by
  unfold Tile.anchorMiss
  repeat' (first | (simp (disch := first | decide | exact isObj_ledger _ _ | exact isObj_ledgerHi _ _) only [Tile.objs_mk, Tile.objs_eta, Tile.objs_ite, ite_self, Tile.setEng_objs, Tile.charge_objs, Tile.raise_objs, Tile.event_objs, Tile.orBits_objs, Tile.withhold_objs]; done) | rfl | split | simp (disch := first | decide | exact isObj_ledger _ _ | exact isObj_ledgerHi _ _) only [Tile.objs_mk, Tile.objs_eta, Tile.objs_ite, ite_self, Tile.setEng_objs, Tile.charge_objs, Tile.raise_objs, Tile.event_objs, Tile.orBits_objs, Tile.withhold_objs])

@[simp] theorem Tile.hzBack_objs (tl : Tile) (q h0 pops t0 pushes : Nat) : (Tile.hzBack tl q h0 pops t0 pushes).objs = tl.objs := by
  unfold Tile.hzBack
  simp (disch := first | decide | exact isObj_ledger _ _ | exact isObj_ledgerHi _ _) only [Tile.objs_mk, Tile.objs_eta, Tile.objs_ite, ite_self, implies_true, upto_objs, Tile.setHzQ_objs]

@[simp] theorem Tile.redoScalar_objs (tl : Tile) (i : SqIns) : (Tile.redoScalar tl i).objs = tl.objs := by
  unfold Tile.redoScalar
  repeat' (first | (simp (disch := first | decide | exact isObj_ledger _ _ | exact isObj_ledgerHi _ _) only [Tile.objs_mk, Tile.objs_eta, Tile.objs_ite, ite_self, Tile.setS_objs]; done) | rfl | split)

@[simp] theorem Tile.entryWord_objs (tl : Tile) (sh : Nat) : (Tile.entryWord tl sh).1.objs = tl.objs := by
  unfold Tile.entryWord
  simp (disch := first | decide | exact isObj_ledger _ _ | exact isObj_ledgerHi _ _) only [Tile.objs_mk, Tile.objs_eta, Tile.objs_ite, ite_self, Tile.readWords_objs]

@[simp] theorem Tile.newFrame_objs (tl : Tile) (ical : Bool) (sh stop : Nat) : (Tile.newFrame tl ical sh stop).objs = tl.objs := by
  unfold Tile.newFrame
  repeat' (first | (simp (disch := first | decide | exact isObj_ledger _ _ | exact isObj_ledgerHi _ _) only [Tile.objs_mk, Tile.objs_eta, Tile.objs_ite, ite_self, Tile.set_objs, Tile.entryWord_objs, Tile.illegal_objs]; done) | rfl | split | simp (disch := first | decide | exact isObj_ledger _ _ | exact isObj_ledgerHi _ _) only [Tile.objs_mk, Tile.objs_eta, Tile.objs_ite, ite_self, Tile.set_objs, Tile.entryWord_objs, Tile.illegal_objs])

@[simp] theorem Tile.raiseFlag_objs (tl : Tile) : (Tile.raiseFlag tl).objs = tl.objs := by
  unfold Tile.raiseFlag
  simp (disch := first | decide | exact isObj_ledger _ _ | exact isObj_ledgerHi _ _) only [Tile.objs_mk, Tile.objs_eta, Tile.objs_ite, ite_self, Tile.orBits_objs]

@[simp] theorem Tile.clearSram_objs (tl : Tile) : (Tile.clearSram tl).objs = tl.objs := by
  unfold Tile.clearSram
  simp (disch := first | decide | exact isObj_ledger _ _ | exact isObj_ledgerHi _ _) only [Tile.objs_mk, Tile.objs_eta, Tile.objs_ite, ite_self]

theorem foldl_emit_objs (n k : Nat) (rs : List Raised) (tl : Tile) :
    (rs.foldl (fun tl r => tl.emit n k 6 3 r.slot (r.cls % 2 ^ 16 + (r.detail + r.slot * 2 ^ 32) * 2 ^ 64)) tl).objs = tl.objs :=
  foldl_objs _ (fun _ _ => Tile.emit_objs _ _ _ _ _ _ _) _ _

theorem State.putTile_objs (s : State) (n : Nat) (tl : Tile) : ((s.putTile n tl).tile n).objs = tl.objs := by
  rw [State.putTile_tile, foldl_emit_objs]
  rfl

theorem State.afterTile_objs (s : State) (n : Nat) (old new : Tile) : ((s.afterTile n old new).tile n).objs = new.objs := by
  obtain ⟨s1, tl, he, -, -, h⟩ := s.afterTile_eq n old new
  rw [he, State.putTile_objs]
  rcases h with rfl | ⟨fr, k, d, rfl⟩
  · rfl
  · exact Tile.emit_objs _ _ _ _ _ _ _

/-- What an event makes of its tile, but for counters, status bits, records, the trace and the slots charged. -/
theorem State.tileEvent_like (s : State) (n t : Nat) (f : Tile → Tile) (h : s.tileLive n t = true) :
    ((s.tileEvent n t f).tile n).like (f (s.atSlot n t)) := by
  refine ⟨State.tileEvent_steady s n t f h, Tile.sameObjs_of ?_⟩
  rw [State.tileEvent_live s n t f h, State.afterTile_objs]

/-- All that an event of tile `n` does. -/
theorem State.tileEvent_does (s : State) (n t : Nat) (f : Tile → Tile) (h : s.tileLive n t = true) : TileDoes n t s (s.tileEvent n t f) f :=
  ⟨State.tileEvent_only s n t f h, State.tileEvent_like s n t f h⟩

end Sys2Proof.Machine
end

