-- ==== Sys2Proof/Laws/PerInstr.lean ====
section
/-! SUPPORT. The family `Wordless`, one lemma per command: spec/opcode_table.json gives a command no bits, so no word spells it. -/

namespace Sys2Proof.Laws.Wordless

open Sys2Proof

/-- No word of the table spells the command. -/
def Statement (i : Instr) : Prop := ∀ nbits w, decodeTableWord nbits w ≠ some i

/-- The decoder answers no command. -/
theorem of_decode (i : Instr) : Statement i := fun _ _ h => nomatch h

theorem frameTick : Statement (.frameTick) := of_decode _
theorem commitPoint : Statement (.commitPoint) := of_decode _
theorem planStart : Statement (.planStart) := of_decode _
theorem commitFlagRaise (n t : Nat) : Statement (.commitFlagRaise n t) := of_decode _
theorem sqNop (n t : Nat) : Statement (.sqNop n t) := of_decode _
theorem sqEnd (n t : Nat) : Statement (.sqEnd n t) := of_decode _
theorem sqLoop (n t : Nat) : Statement (.sqLoop n t) := of_decode _
theorem sqCall (n t : Nat) : Statement (.sqCall n t) := of_decode _
theorem sqCallReturn (n t : Nat) : Statement (.sqCallReturn n t) := of_decode _
theorem sqHold (n t : Nat) : Statement (.sqHold n t) := of_decode _
theorem sqHoldRelease (n t : Nat) : Statement (.sqHoldRelease n t) := of_decode _
theorem sqSeti (n t : Nat) : Statement (.sqSeti n t) := of_decode _
theorem sqSethi (n t : Nat) : Statement (.sqSethi n t) := of_decode _
theorem sqAddi (n t : Nat) : Statement (.sqAddi n t) := of_decode _
theorem sqAdd (n t : Nat) : Statement (.sqAdd n t) := of_decode _
theorem sqSub (n t : Nat) : Statement (.sqSub n t) := of_decode _
theorem sqMul (n t : Nat) : Statement (.sqMul n t) := of_decode _
theorem sqAnd (n t : Nat) : Statement (.sqAnd n t) := of_decode _
theorem sqOr (n t : Nat) : Statement (.sqOr n t) := of_decode _
theorem sqXor (n t : Nat) : Statement (.sqXor n t) := of_decode _
theorem sqShl (n t : Nat) : Statement (.sqShl n t) := of_decode _
theorem sqShr (n t : Nat) : Statement (.sqShr n t) := of_decode _
theorem sqSra (n t : Nat) : Statement (.sqSra n t) := of_decode _
theorem sqPops (n t : Nat) : Statement (.sqPops n t) := of_decode _
theorem sqEveOpen (n t : Nat) : Statement (.sqEveOpen n t) := of_decode _
theorem sqEveClose (n t : Nat) : Statement (.sqEveClose n t) := of_decode _
theorem illegalInstruction (n t : Nat) : Statement (.illegalInstruction n t) := of_decode _
theorem engineCommandDispatch (n t : Nat) : Statement (.engineCommandDispatch n t) := of_decode _
theorem mxNop (n t : Nat) : Statement (.mxNop n t) := of_decode _
theorem mxMm (n : Nat) (w : MxIssue) : Statement (.mxMm n w) := of_decode _
theorem mxMmi (n : Nat) (w : MxIssue) : Statement (.mxMmi n w) := of_decode _
theorem mxMms (n : Nat) (w : MxIssue) : Statement (.mxMms n w) := of_decode _
theorem mxOperationRetire (n t i : Nat) : Statement (.mxOperationRetire n t i) := of_decode _
theorem vxNop (n t : Nat) : Statement (.vxNop n t) := of_decode _
theorem vxEw (n : Nat) (w : VxIssue) : Statement (.vxEw n w) := of_decode _
theorem vxCvt (n : Nat) (w : VxIssue) : Statement (.vxCvt n w) := of_decode _
theorem vxRed (n : Nat) (w : VxIssue) : Statement (.vxRed n w) := of_decode _
theorem vxFn (n : Nat) (w : VxIssue) : Statement (.vxFn n w) := of_decode _
theorem vxStn (n : Nat) (w : VxIssue) : Statement (.vxStn n w) := of_decode _
theorem vxRng (n : Nat) (w : VxIssue) : Statement (.vxRng n w) := of_decode _
theorem vxOperationRetire (n t i : Nat) : Statement (.vxOperationRetire n t i) := of_decode _
theorem mvNop (n t : Nat) : Statement (.mvNop n t) := of_decode _
theorem mvSend (n t : Nat) : Statement (.mvSend n t) := of_decode _
theorem mvOsend (n t : Nat) : Statement (.mvOsend n t) := of_decode _
theorem mvGet (n t : Nat) : Statement (.mvGet n t) := of_decode _
theorem mvPut (n t : Nat) : Statement (.mvPut n t) := of_decode _
theorem mvGather (n t : Nat) : Statement (.mvGather n t) := of_decode _
theorem mvWait (n t : Nat) : Statement (.mvWait n t) := of_decode _
theorem mvSyncSignal (n t : Nat) : Statement (.mvSyncSignal n t) := of_decode _
theorem mvSyncArm (n t : Nat) : Statement (.mvSyncArm n t) := of_decode _
theorem mvSyncPart (n t : Nat) : Statement (.mvSyncPart n t) := of_decode _
theorem mvSyncWait (n t : Nat) : Statement (.mvSyncWait n t) := of_decode _
theorem mvSyncRsignal (n t : Nat) : Statement (.mvSyncRsignal n t) := of_decode _
theorem mvSyncRpart (n t : Nat) : Statement (.mvSyncRpart n t) := of_decode _
theorem mvOperationRetire (n t : Nat) : Statement (.mvOperationRetire n t) := of_decode _
theorem anchorMiss (n t : Nat) (eng : Engine) : Statement (.anchorMiss n t eng) := of_decode _
theorem meshHeadArrival (n t : Nat) (pkt inp : Nat) : Statement (.meshHeadArrival n t pkt inp) := of_decode _
theorem meshLineArrival (n t : Nat) (pkt line : Nat) : Statement (.meshLineArrival n t pkt line) := of_decode _
theorem crossingRelease (n t : Nat) (inp : Nat) : Statement (.crossingRelease n t inp) := of_decode _
theorem hbmCommand (c : Nat) (w : HbmSlot) : Statement (.hbmCommand c w) := of_decode _
theorem requestFlitArrival (c x : Nat) : Statement (.requestFlitArrival c x) := of_decode _
theorem readLineReady (c x i : Nat) (errs : List (Nat × Nat)) : Statement (.readLineReady c x i errs) := of_decode _
theorem hbmDeliverySlot (c x i t : Nat) : Statement (.hbmDeliverySlot c x i t) := of_decode _
theorem lateSlot (c x t : Nat) : Statement (.lateSlot c x t) := of_decode _
theorem lineArrival (n t : Nat) (c x i : Nat) : Statement (.lineArrival n t c x i) := of_decode _
theorem maintenanceSlot (c p : Nat) : Statement (.maintenanceSlot c p) := of_decode _
theorem quietInterval : Statement (.quietInterval) := of_decode _
theorem keepAlive (c : Nat) : Statement (.keepAlive c) := of_decode _
theorem hbmTempSample (c temp : Nat) : Statement (.hbmTempSample c temp) := of_decode _
theorem heatModeExit (c : Nat) : Statement (.heatModeExit c) := of_decode _
theorem heatRefresh (c p : Nat) : Statement (.heatRefresh c p) := of_decode _
theorem adaptiveRfmRequest (c p : Nat) : Statement (.adaptiveRfmRequest c p) := of_decode _
theorem caParityError (c p : Nat) : Statement (.caParityError c p) := of_decode _
theorem portEnable (p : Nat) (a : Agent) (on : Bool) : Statement (.portEnable p a on) := of_decode _
theorem fibreClockLock (p mask : Nat) : Statement (.fibreClockLock p mask) := of_decode _
theorem signalTimeout (p : Nat) : Statement (.signalTimeout p) := of_decode _
theorem alignTimeout (p : Nat) : Statement (.alignTimeout p) := of_decode _
theorem identTimeout (p : Nat) : Statement (.identTimeout p) := of_decode _
theorem alignmentMarker (p f : Nat) (w : MarkerAt) : Statement (.alignmentMarker p f w) := of_decode _
theorem codeword (p : Nat) (cols : List (List Nat)) : Statement (.codeword p cols) := of_decode _
theorem lossOfSignal (p f : Nat) : Statement (.lossOfSignal p f) := of_decode _
theorem feedLoss (p : Nat) (second : Bool) : Statement (.feedLoss p second) := of_decode _
theorem status (p : Nat) : Statement (.status p) := of_decode _
theorem nak (p : Nat) : Statement (.nak p) := of_decode _
theorem abandon (p : Nat) : Statement (.abandon p) := of_decode _
theorem lane (p : Nat) : Statement (.lane p) := of_decode _
theorem ident0 (p : Nat) : Statement (.ident0 p) := of_decode _
theorem ident1 (p : Nat) : Statement (.ident1 p) := of_decode _
theorem calendsMarker (p : Nat) : Statement (.calendsMarker p) := of_decode _
theorem calendsMarkerSend (p : Nat) : Statement (.calendsMarkerSend p) := of_decode _
theorem linkControlSend (p : Nat) : Statement (.linkControlSend p) := of_decode _
theorem packetHeader (w : HeaderAt) : Statement (.packetHeader w) := of_decode _
theorem packetTrailer (p : Nat) : Statement (.packetTrailer p) := of_decode _
theorem packetTransmit (p vc : Nat) : Statement (.packetTransmit p vc) := of_decode _
theorem replayTimeout (p vc : Nat) : Statement (.replayTimeout p vc) := of_decode _
theorem packetReplay (p : Nat) : Statement (.packetReplay p) := of_decode _
theorem regularDelivery (p vc k j : Nat) : Statement (.regularDelivery p vc k j) := of_decode _
theorem noticeConfirm (p vc k : Nat) : Statement (.noticeConfirm p vc k) := of_decode _
theorem noticeFail (p vc k : Nat) : Statement (.noticeFail p vc k) := of_decode _
theorem noticeLeap (p vc k : Nat) : Statement (.noticeLeap p vc k) := of_decode _
theorem noticeDead (p vc k : Nat) : Statement (.noticeDead p vc k) := of_decode _
theorem leapDelivery (p vc k : Nat) : Statement (.leapDelivery p vc k) := of_decode _
theorem rangeResolve (n t e : Nat) : Statement (.rangeResolve n t e) := of_decode _
theorem reexecution (n t : Nat) : Statement (.reexecution n t) := of_decode _
theorem forwardLine (p vc k j : Nat) : Statement (.forwardLine p vc k j) := of_decode _
theorem storeAndForward (p vc k : Nat) : Statement (.storeAndForward p vc k) := of_decode _
theorem deadlineFault (p vc k : Nat) : Statement (.deadlineFault p vc k) := of_decode _
theorem peerVigil (p vc : Nat) : Statement (.peerVigil p vc) := of_decode _
theorem stepRequest (a : Agent) (val : W32) : Statement (.stepRequest a val) := of_decode _
theorem stepChange : Statement (.stepChange) := of_decode _
theorem marginWarning (r m : Nat) : Statement (.marginWarning r m) := of_decode _
theorem marginWarnEpisodeEnd : Statement (.marginWarnEpisodeEnd) := of_decode _
theorem marginCritical (r m : Nat) : Statement (.marginCritical r m) := of_decode _
theorem counterCompare : Statement (.counterCompare) := of_decode _
theorem referenceLoss : Statement (.referenceLoss) := of_decode _
theorem holdoverLimit : Statement (.holdoverLimit) := of_decode _
theorem referenceRecovery : Statement (.referenceRecovery) := of_decode _
theorem timePllLock : Statement (.timePllLock) := of_decode _
theorem ppsEdge : Statement (.ppsEdge) := of_decode _
theorem equinoxStart (a : Agent) (val : W32) : Statement (.equinoxStart a val) := of_decode _
theorem equinoxPpsTimeout : Statement (.equinoxPpsTimeout) := of_decode _
theorem equinoxCorrection : Statement (.equinoxCorrection) := of_decode _
theorem equinoxTrialTimeout : Statement (.equinoxTrialTimeout) := of_decode _
theorem ptpSync (off : W64) : Statement (.ptpSync off) := of_decode _
theorem syDoorbell (a : Agent) (f : Nat) (val : W32) : Statement (.syDoorbell a f val) := of_decode _
theorem vigilExpiry (n : Nat) : Statement (.vigilExpiry n) := of_decode _
theorem hangDump : Statement (.hangDump) := of_decode _
theorem sySet (r : Req) : Statement (.sySet r) := of_decode _
theorem syClear (r : Req) : Statement (.syClear r) := of_decode _
theorem plLoad (r : Req) : Statement (.plLoad r) := of_decode _
theorem plLoadReuse (r : Req) : Statement (.plLoadReuse r) := of_decode _
theorem heldLoadBegin : Statement (.heldLoadBegin) := of_decode _
theorem plVerify (r : Req) : Statement (.plVerify r) := of_decode _
theorem plArm (r : Req) : Statement (.plArm r) := of_decode _
theorem plStop (r : Req) : Statement (.plStop r) := of_decode _
theorem plUnload (r : Req) : Statement (.plUnload r) := of_decode _
theorem plAction (r : Req) : Statement (.plAction r) := of_decode _
theorem intercalaryRequest (a : Agent) (val : W32) : Statement (.intercalaryRequest a val) := of_decode _
theorem gateHold (a : Agent) (half : Nat) (val : W32) : Statement (.gateHold a half val) := of_decode _
theorem manifestCommit (a : Agent) (val : W32) : Statement (.manifestCommit a val) := of_decode _
theorem plCopy (r : Req) : Statement (.plCopy r) := of_decode _
theorem copyComplete : Statement (.copyComplete) := of_decode _
theorem railExcursion (rail : Nat) (above : Bool) : Statement (.railExcursion rail above) := of_decode _
theorem mgmtLockstepMiscompare (sig : W32) : Statement (.mgmtLockstepMiscompare sig) := of_decode _
theorem exchangePacketSend (p : Nat) : Statement (.exchangePacketSend p) := of_decode _
theorem masqueRequest (r : Req) : Statement (.masqueRequest r) := of_decode _
theorem traceRingWrite : Statement (.traceRingWrite) := of_decode _
theorem digestRingWrite : Statement (.digestRingWrite) := of_decode _
theorem watchArm (a : Agent) (f : Nat) (val : W32) : Statement (.watchArm a f val) := of_decode _
theorem watchCopy (g i : Nat) : Statement (.watchCopy g i) := of_decode _
theorem counterWrite (a : Agent) (off : Nat) (val : W32) (incr : Nat) : Statement (.counterWrite a off val incr) := of_decode _
theorem bar0Write (a : Agent) (off size : Nat) (val : W64) (en : Nat) : Statement (.bar0Write a off size val en) := of_decode _
theorem bar2Read (a : Agent) (off len : Nat) : Statement (.bar2Read a off len) := of_decode _
theorem bar2ReadCompletion (a : Agent) : Statement (.bar2ReadCompletion a) := of_decode _
theorem bar2Write (a : Agent) (off : Nat) (data : List (Option Byte)) : Statement (.bar2Write a off data) := of_decode _
theorem mailboxGo (a : Agent) (c : Nat) : Statement (.mailboxGo a c) := of_decode _
theorem mailboxTake (c : Nat) : Statement (.mailboxTake c) := of_decode _
theorem mailboxRelease (a : Agent) (c : Nat) : Statement (.mailboxRelease a c) := of_decode _
theorem mgInfo (r : Req) : Statement (.mgInfo r) := of_decode _
theorem mgSelftest (r : Req) : Statement (.mgSelftest r) := of_decode _
theorem selftestPhaseEnd (fault : Bool) : Statement (.selftestPhaseEnd fault) := of_decode _
theorem mgResetDevice (r : Req) : Statement (.mgResetDevice r) := of_decode _
theorem mgResetManagement (r : Req) : Statement (.mgResetManagement r) := of_decode _
theorem mgShutdown (r : Req) : Statement (.mgShutdown r) := of_decode _
theorem shutdownComplete : Statement (.shutdownComplete) := of_decode _
theorem mgPowerOn (r : Req) : Statement (.mgPowerOn r) := of_decode _
theorem mgFaultlog (r : Req) : Statement (.mgFaultlog r) := of_decode _
theorem mgDescribe (r : Req) : Statement (.mgDescribe r) := of_decode _
theorem mgFwStage (r : Req) : Statement (.mgFwStage r) := of_decode _
theorem mgFwActivate (r : Req) : Statement (.mgFwActivate r) := of_decode _
theorem mgKeyRevokeFirmware (r : Req) : Statement (.mgKeyRevokeFirmware r) := of_decode _
theorem mgKeyWritePlan (r : Req) : Statement (.mgKeyWritePlan r) := of_decode _
theorem mgKeyRevokePlan (r : Req) : Statement (.mgKeyRevokePlan r) := of_decode _
theorem mgKeySetRequired (r : Req) : Statement (.mgKeySetRequired r) := of_decode _
theorem mgKeyHalfTimeout : Statement (.mgKeyHalfTimeout) := of_decode _
theorem mgPlace (r : Req) : Statement (.mgPlace r) := of_decode _
theorem mgConfig (r : Req) : Statement (.mgConfig r) := of_decode _
theorem setEndpointId (eid : Nat) : Statement (.setEndpointId eid) := of_decode _
theorem getEndpointId (body : List Byte) : Statement (.getEndpointId body) := of_decode _
theorem getMctpVersionSupport (body : List Byte) : Statement (.getMctpVersionSupport body) := of_decode _
theorem getMessageTypeSupport (body : List Byte) : Statement (.getMessageTypeSupport body) := of_decode _
theorem getVendorDefinedMessageSupport (body : List Byte) : Statement (.getVendorDefinedMessageSupport body) := of_decode _
theorem pldmBaseDiscovery (body : List Byte) : Statement (.pldmBaseDiscovery body) := of_decode _
theorem pldmSensorRead (body : List Byte) : Statement (.pldmSensorRead body) := of_decode _
theorem pldmFruData (body : List Byte) : Statement (.pldmFruData body) := of_decode _
theorem pldmFirmwareUpdate (image : List Byte) : Statement (.pldmFirmwareUpdate image) := of_decode _
theorem getVersion (body : List Byte) : Statement (.getVersion body) := of_decode _
theorem getCapabilities (body : List Byte) : Statement (.getCapabilities body) := of_decode _
theorem negotiateAlgorithms (body : List Byte) : Statement (.negotiateAlgorithms body) := of_decode _
theorem getDigests (body : List Byte) : Statement (.getDigests body) := of_decode _
theorem getCertificate (body : List Byte) : Statement (.getCertificate body) := of_decode _
theorem challenge (body : List Byte) : Statement (.challenge body) := of_decode _
theorem getMeasurements (body : List Byte) : Statement (.getMeasurements body) := of_decode _
theorem mailboxTunnel (c : Nat) (words : List W32) : Statement (.mailboxTunnel c words) := of_decode _
theorem registerRead (size off : Nat) : Statement (.registerRead size off) := of_decode _
theorem registerWrite (size off : Nat) (val : W64) : Statement (.registerWrite size off val) := of_decode _
theorem auxPowerGood (strap : Nat) : Statement (.auxPowerGood strap) := of_decode _
theorem mainPowerUp : Statement (.mainPowerUp) := of_decode _
theorem perstAssert : Statement (.perstAssert) := of_decode _
theorem pcieHotReset : Statement (.pcieHotReset) := of_decode _
theorem flrPf0 : Statement (.flrPf0) := of_decode _
theorem flrVf (n : Nat) : Statement (.flrVf n) := of_decode _
theorem mainInputLoss : Statement (.mainInputLoss) := of_decode _
theorem auxInputLoss : Statement (.auxInputLoss) := of_decode _
theorem thermalTrip (sensor : Nat) : Statement (.thermalTrip sensor) := of_decode _
theorem coolantExcursion (outlet : Bool) (temp : Int) : Statement (.coolantExcursion outlet temp) := of_decode _
theorem cartridgeLatchLift (c : Nat) : Statement (.cartridgeLatchLift c) := of_decode _
theorem cartridgeStart (c : Nat) : Statement (.cartridgeStart c) := of_decode _
theorem bar0Read (a : Agent) (off size : Nat) : Statement (.bar0Read a off size) := of_decode _
theorem loadCompletion (fault : Bool) : Statement (.loadCompletion fault) := of_decode _
theorem cartridgeLatchClose (c : Nat) : Statement (.cartridgeLatchClose c) := of_decode _

end Sys2Proof.Laws.Wordless
end

