-- ==== Sys2Proof/Tests/Slice0.lean ====
section
/-! SUPPORT. The model's own tests: the well-formedness check on ill-formed commands, small one-step tests whose expected results come from the
spec, and for every obligation with hypotheses a state and operands that meet those of each of its clauses. -/

set_option Elab.async false

namespace Sys2Proof.Tests

open Sys2Proof Sys2Proof.Machine

/-! Helpers. -/

/-- The state that a command leaves. -/
def after (c : Instr) (s : State) : State :=
  match exec c s with
  | .next u => u
  | _ => s

/-- A work frame of 1,000 slots in which tile 0 executes with an instruction region of one line. -/
def onTile (f : Tile → Tile) : State :=
  { State.reset with
    frame := { FrameCtl.idle with running := true, alen := 1000 }
    tiles := [(0, f (({ Tile.reset with seq := ⟨true, false, 2, 0, [], .free⟩, stop := 1000 }.set rTlStatus (2 ^ 31)).set rTlInstr 1))] }

/-- Tile 0 has the words `ws` from the start of its instruction region on and the scalar registers `rs`. -/
def words (ws : List Nat) (rs : SMap W64) : State :=
  onTile (fun tl => { tl with sregs := rs, mem := (ws.foldl (fun (p : SMap Byte × Nat) w => (bytesPut p.1 p.2 8 w, p.2 + 8)) ([], 0)).1 })

/-- Registers written as they stand. -/
def withRegs (rs : List (Nat × Nat)) (s : State) : State := rs.foldl (fun s e => s.set e.1 e.2) s

/-- A sequencer word: opcode in bits 62:56, Sd in 52:48, Sa in 44:40, Sb in 36:32, and an immediate (02 Table 2-3). -/
def sqWord (op d a b imm : Nat) : Nat := op * 2 ^ 56 + d * 2 ^ 48 + a * 2 ^ 40 + b * 2 ^ 32 + imm

/-- An engine's command in its queue: bits, nominal slot. -/
def cmd (bits nominal : Nat) : Cmd := ⟨BitVec.ofNat 128 bits, 0, [], nominal, 0, none, false⟩

/-- A command of the given engine code (0 MX, 1 VX, 2 MV) and opcode, with further bits. -/
def engCmd (eng op bits : Nat) : Cmd := cmd (2 ^ 127 + eng * 2 ^ 125 + op * 2 ^ 96 + bits) 0

/-- An operation in flight that retires in the given slot. -/
def flying (c : Cmd) (retire : Nat) : Op :=
  { cmd := c, id := 7, issued := 0, shift := 0, retire := retire, srcEnd := 0, src := [], descs := [], wrote := [], mx := [], vx := [], head0 := 0, pop0 := 0, retired := false,
    injected := false }

/-! The sequencer. -/

/-- A word of each scalar instruction, written from 02 Table 2-3, decodes to it in slot 2. -/
theorem witness_scalarArithmetic :
    (words [sqWord 0x10 1 2 31 0] []).decodes 0 2 (.alu .add 1 2 31) = true ∧ (words [sqWord 0x11 1 2 3 0] []).decodes 0 2 (.alu .sub 1 2 3) = true
    ∧ (words [sqWord 0x12 1 2 3 0] []).decodes 0 2 (.alu .mul 1 2 3) = true ∧ (words [sqWord 0x13 1 2 3 0] []).decodes 0 2 (.alu .and 1 2 3) = true
    ∧ (words [sqWord 0x14 1 2 3 0] []).decodes 0 2 (.alu .or 1 2 3) = true ∧ (words [sqWord 0x15 1 2 3 0] []).decodes 0 2 (.alu .xor 1 2 3) = true
    ∧ (words [sqWord 0x16 1 2 3 0] []).decodes 0 2 (.alu .shl 1 2 3) = true ∧ (words [sqWord 0x17 1 2 3 0] []).decodes 0 2 (.alu .shr 1 2 3) = true
    ∧ (words [sqWord 0x18 31 0 0 0] []).decodes 0 2 (.alu .sra 31 0 0) = true ∧ (words [0] []).decodes 0 2 .nop = true
    ∧ (words [sqWord 0x08 1 0 0 0x80000000] []).decodes 0 2 (.seti 1 0x80000000) = true
    ∧ (words [sqWord 0x09 1 0 0 0xFFFFFFFF] []).decodes 0 2 (.sethi 1 0xFFFFFFFF) = true
    ∧ (words [sqWord 0x0A 1 2 0 7] []).decodes 0 2 (.addi 1 2 7) = true := by
  decide +kernel

/-- R51, R56, R67, R68, R72: SQ.END, both counts of SQ.LOOP, SQ.HOLD, a release at exactly its count beside an engine that waits for the barrier too, the last barrier, an undefined opcode, a word
past the region, a command of no engine. -/
theorem witness_sequencerControl :
    (words [sqWord 0x01 0 0 0 0] []).decodes 0 2 .endStream = true
    ∧ ((words [sqWord 0x02 1 0 0 65535] []).decodes 0 2 (.loop 1 65535) = true ∧ ((words [sqWord 0x02 1 0 0 65535] []).atSlot 0 2).s 1 = 0)
    ∧ ((words [sqWord 0x02 1 0 0 1] [(1, 1)]).decodes 0 2 (.loop 1 1) = true ∧ ((words [sqWord 0x02 1 0 0 1] [(1, 1)]).atSlot 0 2).s 1 ≠ 0)
    ∧ (words [sqWord 0x04 15 0 0 (7 * 2 ^ 44)] []).decodes 0 2 (.hold 15 7) = true
    ∧ (let s := onTile (fun tl => { tl with seq := { tl.seq with hold := .barrier 15 7 },
                                            mv := { tl.mv with queue := [⟨BitVec.ofNat 128 (2 ^ 127 + 2 * 2 ^ 125 + 2 ^ 111 + 15 * 2 ^ 107 + 2 * 2 ^ 104), 0, [], 0, 0, none, false⟩] } }.set
        (rTlBarrier 15) 9);
      s.tileLive 0 2 = true ∧ (s.atSlot 0 2).seq.hold = .barrier 15 7
        ∧ 7 + (s.atSlot 0 2).takenBefore (s.furtherMet 2) 2 .sq 15 ≤ (s.atSlot 0 2).barrierSeen 15 ∧ (s.atSlot 0 2).seq.at_ ≤ 2 ∧ (s.atSlot 0 2).frozen = false)
    ∧ (15 : Nat) < 16
    ∧ (let s := words [sqWord 0x7F 0 0 0 0] [];
      s.tileLive 0 2 = true ∧ (s.atSlot 0 2).sqReady 2 = true ∧ ((s.atSlot 0 2).sqFetch 2 s.definesRoutine).2 = .illegal)
    ∧ (let s := onTile (fun tl => { tl with seq := { tl.seq with next := 8 } });
      s.tileLive 0 2 = true ∧ (s.atSlot 0 2).sqReady 2 = true ∧ ((s.atSlot 0 2).sqFetch 2 s.definesRoutine).2 = .past)
    ∧ (let s := words [2 ^ 63 + 3 * 2 ^ 61, 0] [];
      s.tileLive 0 3 = true ∧ (s.atSlot 0 3).sqReady (3 - 1) = true ∧ ((s.atSlot 0 3).sqFetch (3 - 1) s.definesRoutine).2 = .second 0 1) := by
  decide +kernel

/-- A library of one routine with the given dispatch list, number 0x2F of class 1 (02 Table 2-10), and a remote-read service, number 0 of class 0, each of 40 cycles; both write S16. -/
def withLibrary (list : List (Nat × Nat)) (s : State) : State := { s with library := [⟨0x2F, 1, 0, 1, 40, list⟩, ⟨0, 0, 0, 1, 40, []⟩] }

/-- Tile 0 is a steward with an SQ.CALL of routine `r` as its first word. -/
def calling (r : Nat) : State := withLibrary [] (onTile (fun tl => { tl with mem := bytesPut [] 0 8 (sqWord 0x03 0 0 0 r) }.set rTlId (2 ^ 30)))

/-- A steward's sequencer in routine 0x2F from slot 2 to slot 42. -/
def inRoutine (list : List (Nat × Nat)) : State := withLibrary list (onTile (fun tl => { tl with seq := { tl.seq with hold := .call 0x2F 42 0 [] } }))

/-- R58, 09 R240: a call on a steward tile of a routine that reads no queue and of a service that reads one, and the return of the first in the slot that ends it. -/
theorem witness_routineCall :
    ((calling 0x2F).decodes 0 2 (.call 0x2F) = true ∧ (calling 0x2F).readQueue 0x2F ((calling 0x2F).atSlot 0 2).args = none)
    ∧ (calling 0).decodes 0 2 (.call 0) = true
    ∧ ((inRoutine []).tileLive 0 42 = true ∧ ((inRoutine []).atSlot 0 42).seq.hold = .call 0x2F 42 0 [] ∧ ((inRoutine []).routineList 0x2F).length ≤ 0
      ∧ ((inRoutine []).atSlot 0 42).frozen = false) := by
  decide +kernel

/-- 09 R240: the same call of the service, where what the library reads its arguments as (a free value, log 82) names queue 63. -/
theorem witness_routineCall_service (free : Config.remoteRead 0 0 ((calling 0).atSlot 0 2).args = some 63) :
    (calling 0).readQueue 0 ((calling 0).atSlot 0 2).args = some 63 := by
  have : (calling 0).storeVersion = 0 := by decide +kernel
  simp [State.readQueue, this, free, classOf]

/-- R54, R45: SQ.POPS of the last word of queue 63's line, alone and beside an engine's pop of the queue. -/
theorem witness_scalarPop :
    let alone := words [sqWord 0x20 1 63 7 0] []
    let beside := onTile (fun tl => { tl with mem := bytesPut [] 0 8 (sqWord 0x20 1 63 7 0), mv := { tl.mv with flight := [flying (engCmd 2 1 (63 * 2 ^ 88)) 90] } })
    let fetched := fun (s : State) => (((s.atSlot 0 2).sqFetch 2 s.definesRoutine).1).decoded (s.atSlot 0 2).seq.next 1
    (alone.decodes 0 2 (.pops 1 63 7) = true ∧ (fetched alone).enginePops 63 2 = false)
    ∧ (beside.decodes 0 2 (.pops 1 63 7) = true ∧ (fetched beside).enginePops 63 2 = true) := by
  decide +kernel

/-- A range in use. -/
def range0 : Range :=
  { order := 0, first := 1, close := 0, closed := false, failed := false, mask := 0, spans := [], sregs := [], queues := [], depth := 0, net := [], popped := [],
    pushed := [], live := 0, slots := [], bases := [] }

/-- R248: SQ.EVE_OPEN with every entry free and with all sixteen in use, SQ.EVE_CLOSE with a range open. -/
theorem witness_eveRangeOpenClose :
    (let s := words [0x30 * 2 ^ 56 + 2 ^ 50 + 63] [];
      s.decodes 0 2 (.eveOpen true 0 63) = true ∧ (s.atSlot 0 2).freeEntry = some 0)
    ∧ (let s := onTile (fun tl => { tl with mem := bytesPut [] 0 8 (0x30 * 2 ^ 56), ranges := (List.range 16).map (fun e => (e, some range0)) });
      s.decodes 0 2 (.eveOpen false 0 0) = true ∧ (s.atSlot 0 2).freeEntry = none)
    ∧ (let s := onTile (fun tl => { tl with mem := bytesPut [] 0 8 (0x31 * 2 ^ 56), ranges := [(15, some range0)], openRange := some 15 });
      s.decodes 0 2 .eveClose = true ∧ (s.atSlot 0 2).openRange = some 15) := by
  decide +kernel

/-- R61: a MX.NOP reaches a queue of 511 commands, and finds one of 512 full. What a routine dispatches is a free value: here is a routine's dispatch that is due (R58). -/
theorem witness_commandDispatch :
    let s := fun (k : Nat) => onTile (fun tl => { tl with mem := bytesPut [] 0 8 (2 ^ 63), mx := { tl.mx with queue := List.replicate k (cmd (2 ^ 127) 900) } })
    let ready := fun (s : State) => s.tileLive 0 4 = true ∧ (s.atSlot 0 4).seq.fetching = true ∧ (s.atSlot 0 4).seq.hold = .free ∧ (s.atSlot 0 4).seq.at_ + 2 = 4
      ∧ (s.atSlot 0 4).frozen = false ∧ ((s.atSlot 0 4).sqFetch 2 s.definesRoutine).2 = .command (2 ^ 127) ∧ cmdEng (2 ^ 127) = some .mx
    (ready (s 511) ∧ ((s 511).atSlot 0 4).mx.queue.length < 512) ∧ (ready (s 512) ∧ 512 ≤ ((s 512).atSlot 0 4).mx.queue.length)
    ∧ (let u := inRoutine [(7, 0)];
      u.tileLive 0 9 = true ∧ (u.atSlot 0 9).seq.hold = .call 0x2F 42 0 [] ∧ (u.routineList 0x2F)[0]? = some 7 ∧ 42 - u.routineLen 0x2F + 7 ≤ 9
        ∧ (u.atSlot 0 9).frozen = false ∧ (u.atSlot 0 9).mx.queue.length < 512) := by
  decide +kernel

/-! The engines. -/

/-- Tile 0 with one command at the head of an engine's queue. -/
def atHead (eng : Engine) (c : Cmd) : State := onTile (fun tl => tl.setEng eng { tl.eng eng with queue := [c] })

/-- The command is the one that can issue in slot 5 of `s`, and the tile executes. -/
def issuesIn (s : State) (eng : Engine) (c : Cmd) : Bool := s.tileLive 0 5 && (s.atSlot 0 5).canIssue (s.furtherMet 5) eng 5 == some c

/-- The command is the one that can issue in slot 5, and the tile executes. -/
def issues (eng : Engine) (c : Cmd) : Bool := issuesIn (atHead eng c) eng c

/-- R102, R104, R108: each MX product can issue with the array free. -/
theorem witness_matrixIssue : ([1, 2, 3].all (fun op => issues .mx (engCmd 0 op 0) && decide (((atHead .mx (engCmd 0 op 0)).atSlot 0 5).mxArrayFree ≤ 5)
    && (engCmd 0 op 0).op == op)) = true := by decide +kernel

/-- R123 to R141: each VX operation can issue with no earlier source phase. -/
theorem witness_vectorIssue : ([1, 2, 3, 4, 5, 6].all (fun op => issues .vx (engCmd 1 op 0) && decide (((atHead .vx (engCmd 1 op 0)).atSlot 0 5).vxSrcBusy ≤ 5 + 3)
    && (engCmd 1 op 0).op == op)) = true := by decide +kernel

/-- Tile 0 with one command at the head of an engine's queue and one operation in flight on it. -/
def behind (eng : Engine) (c : Cmd) (o : Op) : State := onTile (fun tl => tl.setEng eng { tl.eng eng with queue := [c], flight := [o] })

/-- R98, R122, R144: a NOP of each engine, alone and behind an operation. -/
theorem witness_engineNops : ([(Engine.mx, 0), (.vx, 1), (.mv, 2)].all (fun e =>
    issues e.1 (engCmd e.2 0 0) && (((atHead e.1 (engCmd e.2 0 0)).atSlot 0 5).eng e.1).flight.isEmpty)
    && [(Engine.mx, 0), (.vx, 1), (.mv, 2)].all (fun e =>
      let s := behind e.1 (engCmd e.2 0 0) (flying (engCmd e.2 1 0) 90)
      issuesIn s e.1 (engCmd e.2 0 0) && (((s.atSlot 0 5).eng e.1).flight.filter (fun o => o.cmd.op != 0)).length == 1)) = true := by
  decide +kernel

/-- R66: an operation of each engine whose retirement is due; an MV.PUT without HASH or DIGEST. -/
theorem witness_engineRetirement : ([(Engine.mx, 0), (.vx, 1), (.mv, 2)].all (fun e =>
    let s := onTile (fun tl => { tl.setEng e.1 { tl.eng e.1 with flight := [flying (engCmd e.2 1 0) 5] } with now := 5 })
    s.tileLive 0 5 && (((s.atSlot 0 5).eng e.1).retiring 5).map (fun o => o.cmd) == some (engCmd e.2 1 0))) = true
    ∧ (engCmd 2 4 0).f 11 2 = 0 ∧ (15 : Nat) < 16 := by decide +kernel

/-- R64: an anchored command whose nominal slot has passed, and one after a first miss. -/
theorem witness_anchorMiss :
    let c := engCmd 2 1 (2 ^ 124)
    let late := atHead .mv c
    let dead := onTile (fun tl => { tl with dead := true, mv := { tl.mv with queue := [c] } })
    (late.tileLive 0 1 = true ∧ (late.atSlot 0 1).dead = false
      ∧ pickFirst (fun c => c.anchored && decide (c.nominal ≤ 1)) ((late.atSlot 0 1).eng .mv).queue = some (c, []) ∧ (late.atSlot 0 1).canIssue (late.furtherMet 1) .mv 1 ≠ some c)
    ∧ (dead.tileLive 0 0 = true ∧ (dead.atSlot 0 0).dead = true ∧ ((dead.atSlot 0 0).eng .mv).queue = [c] ∧ c.anchored = true ∧ c.nominal ≤ 0) := by
  decide +kernel

/-- R147, R148, R160: MV.SEND, MV.OSEND and MV.PUT can issue; the almanac has no transfer for the last. -/
theorem witness_moveSends : ([1, 2, 4].all (fun op => issues .mv (engCmd 2 op 0) && (engCmd 2 op 0).op == op)) = true
    ∧ (atHead .mv (engCmd 2 4 0)).xferFor 0 8 ⟨false, none, 0, hlaOf (engCmd 2 4 0) 0 19, 1⟩ = none := by decide +kernel

/-- R153, R155, R171: MV.GET and MV.GATHER with 15 tracker entries in use, MV.WAIT at its target of 0. -/
theorem witness_moveReads :
    let s := fun (op : Nat) => onTile (fun tl => { tl with mv := { tl.mv with queue := [engCmd 2 op 0] }, tracker := List.replicate 15 ⟨0, 0, 1, 0, none, []⟩ })
    ([3, 5].all (fun op => issuesIn (s op) .mv (engCmd 2 op 0) && decide (((s op).atSlot 0 5).tracker.length < 16)
      && (engCmd 2 op 0).op == op)) = true
    ∧ issues .mv (engCmd 2 6 0) = true ∧ (engCmd 2 6 0).op = 6 ∧ (((atHead .mv (engCmd 2 6 0)).atSlot 0 5).qPushSeen 0 + 2 ^ 32 - waitTarget (engCmd 2 6 0)) % 2 ^ 32 < 2 ^ 31 := by
  decide +kernel

/-! Sync counters. -/

/-- An MV.SYNC of the given operation and further bits. -/
def sync (sop bits : Nat) : Cmd := engCmd 2 7 (sop * 2 ^ 93 + bits)

/-- Identifier 4095 of context 0 names counter 32767. -/
def withXlate (s : State) : State := { s with sync := { s.sync with xlate := [(4095, some 32767)] } }

/-- Tile 0 with an MV.SYNC at its head that names identifier 4095 of context 0. -/
def syncing (sop : Nat) (bits : Nat) : State := withXlate (atHead .mv (sync sop (4095 * 2 ^ 81 + bits)))

/-- R297, R299: the local signal, arm and part can issue, and their identifier names a counter. -/
theorem witness_syncOperations_local : ([0, 1, 2].all (fun sop =>
    let s := syncing sop 0
    let c := sync sop (4095 * 2 ^ 81)
    s.tileLive 0 5 && (s.atSlot 0 5).mvHead 5 7 == some c && s.xlate s.frame.ctx (syncVid c) == some 32767 && syncSop c == sop)) = true := by decide +kernel

/-- R298, R303: a wait on an unmapped identifier, on a counter with ERR, on one that has reached its count, on one that has not; a vigil that has run out. -/
theorem witness_syncWaitsAndHangs :
    let c := sync 3 (4095 * 2 ^ 81)
    let one := sync 3 (4095 * 2 ^ 81 + 2 ^ 43)
    let none_ := atHead .mv c
    let err := withRegs [(rCounter 32767 3, 2 ^ 31)] (syncing 3 0)
    let due := syncing 3 0
    let not_ := syncing 3 (2 ^ 43)
    let vigil := onTile (fun tl => { tl with mv := { tl.mv with queue := [c] }, syncWait := some 0 })
    (none_.tileLive 0 5 = true ∧ (none_.atSlot 0 5).mvHead 5 7 = some c ∧ syncSop c = 3 ∧ none_.xlate none_.frame.ctx (syncVid c) = none)
    ∧ (err.tileLive 0 5 = true ∧ (err.atSlot 0 5).mvHead 5 7 = some c ∧ err.xlate err.frame.ctx (syncVid c) = some 32767 ∧ (err.counterSeen 32767 5).err = true)
    ∧ (due.tileLive 0 5 = true ∧ (due.atSlot 0 5).mvHead 5 7 = some c ∧ due.xlate due.frame.ctx (syncVid c) = some 32767 ∧ (due.counterSeen 32767 5).err = false
      ∧ ((due.counterSeen 32767 5).value - BitVec.ofNat 32 (syncCount c)).toNat < 2 ^ 31)
    ∧ (not_.tileLive 0 5 = true ∧ (not_.atSlot 0 5).mvHead 5 7 = some one ∧ syncSop one = 3 ∧ not_.xlate not_.frame.ctx (syncVid one) = some 32767
      ∧ (not_.counterSeen 32767 5).err = false ∧ ¬ ((not_.counterSeen 32767 5).value - BitVec.ofNat 32 (syncCount one)).toNat < 2 ^ 31)
    ∧ (let s := { vigil with time := { vigil.time with counter := BitVec.ofNat 64 (vigil.get (rVigil 0)) } };
      s.tileRuns 0 = true ∧ (s.tile 0).syncWait = some 0 ∧ (s.tile 0).mv.queue.head? = some c ∧ s.get (rVigil (syncVigil c)) ≤ (s.time.counter - 0).toNat) := by
  decide +kernel

/-- R300: the remote signal and part can issue. -/
theorem witness_syncOperations_remote : ([4, 5].all (fun sop =>
    let c := sync sop 0
    (atHead .mv c).tileLive 0 5 && ((atHead .mv c).atSlot 0 5).mvHead 5 7 == some c && syncSop c == sop)) = true := by decide +kernel

/-- R301, R307: a doorbell of PF0 that signals and one that arms, through context 0; SY_SET and SY_CLEAR from firmware by physical index. -/
theorem witness_syncByHost :
    let s := withXlate (withRegs [(rCtxBind 0, 2 ^ 31)] State.reset)
    let up := withRegs [(rMgStatus, 2 ^ 28)] s
    ([0, 1].all (fun op =>
      let v := BitVec.ofNat 32 (op * 2 ^ 30 + 4095 * 2 ^ 16 + 65535)
      agentFn .pf0 == some 0 && !s.selftest && s.bound 0 == some 0 && bitsAt v.toNat 0 16 != 0 && bitsAt v.toNat 30 2 == op && bitsAt v.toNat 28 2 == 0
        && s.xlate 0 (bitsAt v.toNat 16 12) == some 32767)) = true
    ∧ ([0x40, 0x41].all (fun op =>
      let r := Req.firm [BitVec.ofNat 32 (op * 2 ^ 24 + 32767), 5, 6, 0x80000001]
      !up.selftest && zeroFrom (up.reqWords r) 4 && onlyBits (word (up.reqWords r) 3) 0xE03FFFFF && up.manualTarget (up.reqSender r) (word (up.reqWords r) 0) == some 32767
        && up.serves r op)) = true := by
  decide +kernel

/-- R306: a hang waits for its dump with a valid base, and with none. -/
theorem witness_syncWaitsAndHangs_dump :
    let s := { State.reset with sync := { State.reset.sync with hung := [⟨0, 1, 0, 0, none, 0, 0⟩] } }
    (s.sync.hung ≠ [] ∧ s.sync.dumpDone = false ∧ s.frame.running = false ∧ s.bit rDumpBase 31 = false) ∧ (s.set rDumpBase (2 ^ 31)).bit rDumpBase 31 = true := by
  decide +kernel

/-! Frames. -/

/-- A running plan of frames of 1,000 ns with a guard of 100, in frame 4, its time counter at `now`. -/
def frame4 (now : Nat) (f : FrameCtl → FrameCtl) : State :=
  withRegs [(rPlState, 4 * 2 ^ 29), (rTmStatus, 2 * 2 ^ 30), (rPeriod, 1000), (rGuard, 100), (rFrameNum, 4)]
    { State.reset with frame := f { FrameCtl.idle with running := true, alen := 100 }, time := { State.reset.time with counter := BitVec.ofNat 64 now } }

/-- R18, R322, R323: the tick of frame 5, the same with a cause, a failed counter, T0 with the counter unset, and T0 with the counter set. -/
theorem witness_framesBegin :
    let c : NextFrame := ⟨false, 0, 0, none, [], []⟩
    let tick := frame4 5000 (fun f => { f with committed := true, next := some c })
    let stop := frame4 5000 (fun f => { f with committed := true, next := some c, causes := [3] })
    let unset := withRegs [(rPlState, 3 * 2 ^ 29)] State.reset
    let lost := withRegs [(rTmStatus, 0)] (frame4 5000 (fun f => { f with causes := [6] }))
    let start := withRegs [(rPlState, 3 * 2 ^ 29), (rTmStatus, 2 * 2 ^ 30), (rT0, 7)] { State.reset with time := { State.reset.time with counter := 7 } }
    (tick.frame.next = some c ∧ tick.frame.running = true ∧ tick.frame.committed = true ∧ tick.planState = 4 ∧ tick.counterState = 2
      ∧ (tick.time.counter.toNat : Int) = tick.tickOf (tick.frameNo + 1 : Nat) ∧ tick.frame.causes = [] ∧ tick.frame.stopAt ≠ some (tick.frameNo + 1)
      ∧ c.actions.any (fun a => bitsAt a.w3.toNat 28 4 == 3) = false ∧ c.writes = [] ∧ c.actions = [] ∧ tick.frameNo + 1 < 2 ^ 64 ∧ tick.workNo + 1 < 2 ^ 64
      ∧ tick.time.marginLow.all (fun e => decide (e.1 < 96)) = true)
    ∧ (stop.frame.next = some c ∧ stop.frame.running = true ∧ stop.frame.committed = true ∧ stop.planState = 4 ∧ stop.counterState = 2
      ∧ (stop.time.counter.toNat : Int) = stop.tickOf (stop.frameNo + 1 : Nat) ∧ stop.frame.causes ≠ [] ∧ stop.workNo + 1 < 2 ^ 64)
    ∧ (lost.planState = 4 ∧ lost.counterState ≠ 2 ∧ lost.frame.causes.contains 6 = true)
    ∧ (unset.planState = 3 ∧ unset.counterState ≠ 2)
    ∧ (start.planState = 3 ∧ start.counterState = 2 ∧ start.time.counter.toNat = start.get64 rT0 ∧ start.shadow = [] ∧ start.loader.actions = [] ∧ start.frame.causes = []
      ∧ start.frame.stopAt ≠ some 0) := by
  decide +kernel

/-- R23, R51: a finished tile, and the commit point of frame 4. -/
theorem witness_commitPoint :
    (let s := onTile (fun tl => { tl with seq := { tl.seq with fetching := false, ended := true } });
      s.tileLive 0 5 = true ∧ (s.atSlot 0 5).finished = true ∧ (s.atSlot 0 5).withheld = false)
    ∧ (let s := frame4 4900 id;
      s.frame.running = true ∧ s.frame.committed = false ∧ s.counterState = 2 ∧ (s.time.counter.toNat : Int) = s.commitOf s.frameNo) := by
  decide +kernel

/-! The mesh. -/

/-- A packet of three lines from tile 0, two hops east to queue 63 of virtual tile 2; its lines have been handed over. -/
def east2 : Packet := ⟨9, .mv 7 7, 0, 0x42, 2, .queue 63, 3, lineMap [⟨1, false⟩, ⟨2, true⟩, ⟨3, false⟩], 10, 0, none, []⟩

/-- Tiles 0 and 2 execute, and the packet has passed `hop` routers. -/
def meshing (hop : Nat) : State :=
  let s := onTile id
  { s.setTile 2 ((s.tile 0).set rTlId (2 * 2 ^ 8)) with pkts := [{ east2 with hop := hop }] }

/-- R180, R182, R184, R185: the head of a packet at its injection, its second line in its destination router, a crossing whose front flit is due. -/
theorem witness_meshMoves :
    (let s := meshing 0;
      s.meshSlot 10 = true ∧ s.pkt? 9 = some east2 ∧ (s.wayOf east2)[0]? = some ⟨0, 4, 0, some 1, none⟩ ∧ (s.wayOf east2)[1]? = some ⟨1, 3, 2, some 1, none⟩
      ∧ 10 = east2.t0 + 0 ∧ east2.headLost = false ∧ s.handed east2 0 = true ∧ s.crossingHas 0 4 9 0 = false ∧ (s.router 0).holder 1 10 = none
      ∧ (s.router 0).holder (4 + 1) 10 = none)
    ∧ (let s := meshing 2;
      let k := { east2 with hop := 2 };
      let r := s.readFor k 1 14;
      let k' := (r.pkt? 9).getD k;
      let tl := r.atSlot 2 15;
      s.meshSlot 14 = true ∧ s.pkt? 9 = some k ∧ (s.wayOf k)[2]? = some ⟨2, 3, 4, none, none⟩ ∧ k.hop + 1 = (s.wayOf k).length ∧ 1 < k.len
      ∧ ssetHas k.pushed 1 = false ∧ 14 = k.t0 + 1 / 2 + 4 ∧ k.alive 1 = true ∧ s.handed k (1 / 2) = true ∧ s.crossingHas 2 3 9 (1 / 2) = false
      ∧ r.pkt? 9 = some k' ∧ k'.line? 1 = some ⟨2, true⟩ ∧ k'.dest = .queue 63 ∧ r.owns 2 k' = true ∧ r.tileRuns 2 = true ∧ (r.tile 2).now ≤ 14 + 1
      ∧ (tl.access ⟨15, tl.qLine 63 (tl.qTail 63) % 32, tl.qLine 63 (tl.qTail 63), .mv, false, none⟩).2 = false)
    ∧ (let s := (meshing 0).setRouter 5 ⟨[], [(2, [⟨60, 60, 9, 0⟩, ⟨61, 61, 9, 1⟩])]⟩;
      s.meshSlot 66 = true ∧ (s.router 5).queue 2 = ⟨60, 60, 9, 0⟩ :: [⟨61, 61, 9, 1⟩] ∧ (66 : Nat) ≤ 60 + 6 ∧ 66 % 64 = (60 + 6) % 64
      ∧ ([⟨61, 61, 9, 1⟩] : List Crossing).all (fun x => decide ((x.stamp + 64 - 60 % 64) % 64 < 32)) = true) := by
  decide +kernel

/-! HBM. -/

/-- A loaded plan of one shape. -/
def plan1 (f : ShapePlan → ShapePlan) : Plan :=
  { head := ⟨1, 0, 1, false, 0, 1, 1000, 100, 0⟩, tiles := [], sram := [], routes := [], seq := [⟨0, 0⟩],
    almanac := ⟨[f ⟨1000, [], [], [], [], [], [], []⟩], [], [], 0, 0, 4, 0, 0⟩, hbm := ⟨100, 0, 0x5F⟩, hbmInit := [], ranks := [], ports := [], optical := [],
    time := none, contexts := [], sync := ⟨[], [], 0⟩, actions := [], signed := false }

/-- A device that runs a frame of that plan. -/
def running (f : ShapePlan → ShapePlan) : State := { onTile id with loader := { Loader.reset with plan := some (plan1 f) } }

/-- A read of three lines from phase 1,023 on for tile 0, with two late slots, whose request reaches its edge in slot 4. -/
def xfer0 : Xfer := ⟨true, 0, 0, 4, 5, 1023, 3, none, 0, 0, [5, 5, 6], [8, 9], none, []⟩

/-- Controller 7's transfer 0 as the plan and as the frame have it, and the commands that the almanac places at slot 5. -/
def withXfer (p : Xfer) (r : XferRun) : State :=
  { running (fun h => { h with xfers := [(7, [p])], cmds := [(7, [⟨5, .rd 0 2⟩, ⟨5, .wr 0 0⟩, ⟨5, .index 0 0⟩, ⟨5, .act 1 2⟩, ⟨5, .pre 1 2⟩, ⟨5, .refab 3⟩, ⟨5, .rfm 4⟩])] }) with
    hbmCtl := [(7, { HbmCtl.idle with xfers := [r] })] }

/-- HLA of the last line of stack 7's first 1,024. -/
def hla0 : Nat := 7 * 2 ^ 30 + 1023

/-- An accepted transfer from that line on. -/
def accepted : XferRun := { XferRun.fresh with state := .accepted, hla := hla0 }

/-- R160: a request flit that agrees, one that disagrees in its tag, none. Virtual tile 1,182 is one hop west of an edge tile of controller 7. -/
theorem witness_hbmRequest :
    let f : ReqFlit := ⟨true, none, 5, hla0, 3⟩
    let p := { xfer0 with tile := 1182, route := 0x41, reqSlot := 13 }
    let k := fun (f : ReqFlit) => (⟨9, .mv 0 7, 1182, 0x41, 1183, .edge f, 1, [(0, some .zero)], 10, 1, none, [(0, true)]⟩ : Packet)
    let s := (withXfer p .fresh).setTile 1182 (Tile.reset.set rTlId (36 * 2 ^ 13 + 30 * 2 ^ 8))
    (s.xfer 7 0 = some (p, .fresh) ∧ XferRun.fresh.state = .waiting)
    ∧ ({ s with pkts := [k f] }.flitFor 7 p = some (k f, f) ∧ flitFits 7 p f = true)
    ∧ ({ s with pkts := [k { f with tag := 6 }] }.flitFor 7 p = some (k { f with tag := 6 }, { f with tag := 6 }) ∧ flitFits 7 p { f with tag := 6 } = false)
    ∧ s.flitFor 7 p = none := by
  decide +kernel

/-- A window of context 0 on controller 7 that admits the line's segment for reads and writes. -/
def windowed (s : State) : State := withRegs [(rWinBase 7 0 7, 3 * 2 ^ 30 + hla0 / 16), (rWinLimit 7 0 7, hla0 / 16)] s

/-- R151, R158, R171: a command in its slot and in another; a write inside and outside the windows, a read, a gather's read, an index read. -/
theorem witness_hbmCommands :
    let wr : Xfer := { xfer0 with read := false }
    let ga : Xfer := { xfer0 with gather := some (2, 1), entryPhases := [0, 0] }
    let runs := fun (s : State) (op : HbmOp) => s.frame.running = true ∧ s.frame.committed = false ∧ s.cmdListed 7 5 op = true
    (withXfer wr accepted).cmdListed 7 6 (.wr 0 0) = false
    ∧ (∀ op ∈ [HbmOp.act 1 2, .pre 1 2, .refab 3, .rfm 4], runs (withXfer wr accepted) op)
    ∧ ((withXfer wr accepted).xfer 7 0 = some (wr, accepted) ∧ accepted.state = .accepted ∧ runs (withXfer wr accepted) (.wr 0 0) ∧ wr.read = false ∧ 0 < wr.len
      ∧ smapGet (fun _ => none) accepted.sent 0 = none ∧ (windowed (withXfer wr accepted)).windowHas 7 0 ((accepted.hla + 0) % 2 ^ 33) true = true
      ∧ (withXfer wr accepted).windowHas 7 0 ((accepted.hla + 0) % 2 ^ 33) true = false)
    ∧ ((withXfer xfer0 accepted).xfer 7 0 = some (xfer0, accepted) ∧ runs (withXfer xfer0 accepted) (.rd 0 2) ∧ xfer0.read = true ∧ 2 < xfer0.len
      ∧ smapGet (fun _ => none) accepted.read 2 = none ∧ xfer0.gather = none)
    ∧ ((withXfer ga accepted).xfer 7 0 = some (ga, accepted) ∧ runs (withXfer ga accepted) (.rd 0 2) ∧ ga.read = true ∧ 2 < ga.len
      ∧ smapGet (fun _ => none) accepted.read 2 = none ∧ ga.gather ≠ none)
    ∧ (let s := windowed (withXfer ga accepted);
      runs s (.index 0 0) ∧ ga.gather = some (2, 1) ∧ s.windowHas 7 s.frame.ctx ((accepted.hla + 0) % 2 ^ 33) false = true ∧ (accepted.hla + 0) % 2 ^ 33 / 2 ^ 30 = 7
      ∧ (s.hbmRead ((accepted.hla + 0) % 2 ^ 33)).2 = .good ∧ (s.hbmRead ((accepted.hla + 0) % 2 ^ 33)).1.poison = false) := by
  decide +kernel

/-- R161, R166, R167: a line that has been read, found good, corrected and bad, with a late slot left and with none. -/
theorem witness_hbmReadLine :
    let r := { accepted with read := [(2, some (⟨5, false⟩, []))] }
    let s := withXfer xfer0 r
    let none_ := { xfer0 with lates := [] }
    s.xfer 7 0 = some (xfer0, r) ∧ r.state = .accepted ∧ smapGet (fun _ => none) r.read 2 = some (⟨5, false⟩, []) ∧ smapGet (fun _ => none) r.ready 2 = none
      ∧ r.late.contains 2 = false ∧ r.lineAt xfer0 2 = some (hla0 + 2) ∧ s.masqueOf 0x06 (uHbm * 4096 + 7) = none
      ∧ (decodeLine ⟨5, false⟩ ([] ++ [])).2 = .good ∧ (decodeLine ⟨5, false⟩ ([] ++ [(67, 0xFF)])).2 = .corrected
      ∧ (decodeLine ⟨5, false⟩ ([] ++ [(0, 0xFF), (1, 0xFF)])).2 = .bad ∧ s.canRetry 7 xfer0 r (hla0 + 2) = true
      ∧ (withXfer none_ r).canRetry 7 none_ r (hla0 + 2) = false := by
  decide +kernel

/-- R161, R162, R153: a ready line, a refused transfer, a line not ready with a late slot, with none and waiting already, a late slot with a line and with none. -/
theorem witness_hbmDelivery :
    let good : Line := ⟨5, false⟩
    let set_ := { accepted with ready := [(2, some good)] }
    let late := { accepted with ready := [(2, some good)], late := [2], lateUsed := 1 }
    let base : XferRun → Bool := fun r => (withXfer xfer0 r).meshSlot 6 && (withXfer xfer0 r).xfer 7 0 == some (xfer0, r) && xfer0.read && decide (2 < xfer0.len)
      && xfer0.slots[2]? == some 6 && smapGet (fun _ => none) r.sent 2 == none
    (base set_ = true ∧ set_.state = .accepted ∧ smapGet (fun _ => none) set_.ready 2 = some good ∧ set_.late.contains 2 = false)
    ∧ base { accepted with state := .refused } = true
    ∧ (base { accepted with late := [2] } = true ∧ ([2] : List Nat).contains 2 = true)
    ∧ (base { accepted with lateUsed := 1 } = true ∧ smapGet (fun _ => none) accepted.ready 2 = none ∧ accepted.late.length + 1 < xfer0.lw)
    ∧ (base { accepted with lateUsed := 2 } = true ∧ xfer0.lw ≤ accepted.late.length + 2)
    ∧ ((withXfer xfer0 late).meshSlot 9 = true ∧ (withXfer xfer0 late).xfer 7 0 = some (xfer0, late) ∧ late.state = .accepted ∧ xfer0.lates[late.lateUsed]? = some 9
      ∧ late.late = 2 :: [] ∧ smapGet (fun _ => none) late.ready 2 = some good ∧ accepted.late = [] ∧ xfer0.lates[accepted.lateUsed]? = some 8) := by
  decide +kernel

/-- R153, R161: a line of a transfer that reaches its tile in the cycle before. -/
theorem witness_hbmDelivery_arrival :
    let good : Line := ⟨5, false⟩
    let sent := { accepted with sent := [(2, some (good, false))] }
    (let a : Arrival := ⟨63, 1, 3, 7, some 0, []⟩;
      let k : Packet := ⟨9, .hbm, 0, 0, 0, .hbm 7 0 2 false, 1, lineMap [good], 8, 0, none, [(0, true)]⟩;
      let s := { withXfer xfer0 sent with tiles := (onTile (fun tl => { tl with tracker := [a] })).tiles, pkts := [k] };
      let tl := s.atSlot 0 9;
      s.xfer 7 0 = some (xfer0, sent)
      ∧ s.pkts.find? (fun k => (match k.dest with
          | .hbm c' x' i' _ => c' == 7 && x' == 0 && i' == 2
          | _ => false) && ssetHas k.pushed 0 && k.t0 + (s.wayEnd k.src k.route).2 + 1 == 9) = some k
      ∧ (s.wayEnd k.src k.route).1 = 0 ∧ k.line? 0 = some good ∧ s.tileRuns 0 = true ∧ (s.tile 0).now ≤ 9 ∧ 9 ≤ s.frame.alen
      ∧ tl.tracker.find? (fun a => a.ctl == 7 && a.xfer == some 0 && decide (2 < a.count) && !ssetHas a.done 2) = some a ∧ a.queue < 64
      ∧ (tl.access ⟨9, tl.qLine 63 ((1 + 2) % tl.qDepth 63) % 32, tl.qLine 63 ((1 + 2) % tl.qDepth 63), .mv, false, none⟩).2 = false) := by
  decide +kernel

/-- R163, R165, R169: heat mode, heat mode that may end, a maintenance slot in a running frame. -/
theorem witness_hbmUpkeep :
    let hot := withRegs [(rHbStatus 7, 2 ^ 26)] { onTile id with hbmCtl := [(7, { HbmCtl.idle with coolSince := some 0 })], now := 1000000 }
    let s := onTile id
    (hot.heat 7 = true ∧ (hot.ctl 7).coolSince = some 0 ∧ 0 + 1000000 ≤ hot.now ∧ hot.frame.running = true ∧ hot.masqueOf 0x11 (uHbm * 4096 + 7) = none)
    ∧ (s.heat 7 = false ∧ s.frame.running = true ∧ s.masqueOf 0x11 (uHbm * 4096 + 7) = none ∧ 0 < s.fuse.rows ∧ s.fuse.rows ≤ 65536 ∧ s.get (rScrubPtr 7 63) < 48 * s.fuse.rows) := by
  decide +kernel

/-! The optical link. -/

/-- Port 15 in training state `st` with fibres 0 to 12 locked and the full lane map, over the device `s`. -/
def linked (st : Nat) (q : Port) (s : State) : State :=
  withRegs [(rLkState 15, st * 2 ^ 28 + 2 ^ 26 + 0x1FFF), (rLaneLo 15, 0x76543210), (rLaneHi 15, 0xCBA98)] { s with ports := [(15, q)] }

/-- R206, R259, R260: the port off and idle, the port with RWL locked, SIGNAL, and each state a nanosecond before and at its limit, IDENT with both identities and with one. -/
theorem witness_portTraining :
    (isPf0OrFw .firmware = true ∧ State.reset.planRuns = false ∧ State.reset.selftest = false ∧ State.reset.train 15 = trDisabled ∧ (linked 1 .fresh State.reset).train 15 ≠ trDisabled)
    ∧ isPf0OrFw (.vf 1) = false ∧ (frame4 0 id).planRuns = true ∧ (withRegs [(rMgStatus, 2 ^ 26)] State.reset).selftest = true
    ∧ (linked 1 .fresh State.reset).train 15 = trSignal ∧ 12 ≤ (fibresOf 0xFFF).length ∧ (fibresOf 0x7FF).length < 12
    ∧ ([(trSignal, 5000000), (trAlign, 1000000), (trIdent, 100000)].all (fun (e : Nat × Nat) =>
      let before := { linked e.1 .fresh State.reset with now := e.2 - 1 }
      let at_ := { linked e.1 { Port.fresh with fails := 2, idGot := 3 } State.reset with now := e.2 }
      before.train 15 == e.1 && decide (before.now < (before.port 15).since + e.2) && at_.train 15 == e.1 && decide ((at_.port 15).since + e.2 ≤ at_.now)
        && ((at_.port 15).fails + 1) % 3 == 0 && (at_.port 15).idGot == 3)) = true
    ∧ (let s := { linked trIdent { Port.fresh with idGot := 1 } State.reset with now := 100000 };
      s.train 15 = trIdent ∧ (s.port 15).since + 100000 ≤ s.now ∧ (s.port 15).idGot ≠ 3) := by
  decide +kernel

/-- R204, R207, R208, R210, R199: an erased fibre; an invalid marker on an unlocked one, on a locked one away from its place, at its place before and at the third; a valid one on an unlocked and
on a locked fibre, at its place and away from it, with a lane map wanted; lost light, lost feeds. -/
theorem witness_fibreMarkers :
    let port := fun (x : Fibre) => { Port.fresh with fibres := [(12, x)], mapWant := some (0x1FFF, 1) }
    let bad := List.replicate 23 0
    let good := markerOf 0x1FFF 15 12 7 1
    let up := fun (x : Fibre) => linked trUp (port x) State.reset
    let al := fun (x : Fibre) => linked trAlign (port x) State.reset
    let dark := withRegs [(rLkState 15, trAlign * 2 ^ 28)] { State.reset with ports := [(15, port ⟨4, 0, some 0, false⟩)] }
    let place := fun (s : State) (x : Fibre) => x.last.getD 0 + (x.bad + 1) * periodSymbols (s.rxMask 15)
    let fib := fun (s : State) => smapGet (fun _ => Fibre.fresh) (s.port 15).fibres 12
    let feed := fun (st k : Nat) => linked st { Port.fresh with feedLost := k } State.reset
    (up .fresh).linkOn 15 = true ∧ (al .fresh).linkOn 15 = true ∧ dark.linkOn 15 = true ∧ markerRead bad = none
    ∧ (fib (up ⟨0, 0, none, true⟩)).erased = true ∧ (fib (up .fresh)).erased = false
    ∧ bitAt (dark.lockMask 15) 12 = false ∧ (fib dark).erased = false ∧ bitAt ((up .fresh).lockMask 15) 12 = true
    ∧ place (up .fresh) (fib (up .fresh)) = 371371
    ∧ (fib (up ⟨0, 1, none, false⟩)).bad < 2 ∧ 2 ≤ (fib (up ⟨0, 2, none, false⟩)).bad ∧ 2 ≤ (fib (al ⟨0, 2, none, false⟩)).bad ∧ bitAt ((al .fresh).lockMask 15) 12 = true
    ∧ (al .fresh).train 15 ≠ trUp ∧ (up .fresh).train 15 = trUp
    ∧ markerRead good = some (markerSyms 0x1FFF 15 12 7 1 ++ rsParity (markerSyms 0x1FFF 15 12 7 1)) ∧ (fib dark).last = some (371371 - 371371)
    ∧ (up .fresh).markerDue 15 (fib (up .fresh)) 371372 = false ∧ (up .fresh).markerDue 15 (fib (up .fresh)) 371371 = true
    ∧ ((up .fresh).port 15).mapWant = some (0x1FFF, 1) ∧ bitsAt (good.getD 7 0) 0 2 = 1
    ∧ (bitAt ((feed trUp 3).port 15).feedLost 1 = true ∧ bitAt ((feed trUp 1).port 15).feedLost 1 = false ∧ ((feed trUp 1).port 15).feedLost ||| 2 ^ 1 = 3
      ∧ (feed trUp 1).train 15 = trUp ∧ ((feed trUp 0).port 15).feedLost ||| 2 ^ 1 ≠ 3) := by
  decide +kernel

set_option maxRecDepth 100000 in
/-- R200, R202, R203: a port that is off; with too few lane positions; the codeword of all zeros, and one in which twelve symbols are not 0. -/
theorem witness_codewords :
    let s := linked trUp .fresh State.reset
    let zeros := List.replicate 23 (List.replicate 13 0)
    let spoilt := List.range 13 :: List.replicate 22 (List.replicate 13 0)
    State.reset.linkOn 15 = false ∧ s.linkOn 15 = true ∧ (s.port 15).mapWant = none ∧ (s.rxFibres 15).length = 12 ∧ colsOf 12 0 = 23
    ∧ (s.tryMap 15 zeros = s ∧ s.tryMap 15 spoilt = s)
    ∧ rsFix (s.unstripe 15 (s.rxFibres 15) 0 zeros) = some (List.replicate 272 0, 0) ∧ rsFix (s.unstripe 15 (s.rxFibres 15) 0 spoilt) = none := by
  decide +kernel

/-- A packet of one line in a transmitter or a replay buffer: its identifier and its number. -/
def txPkt (seq : Nat) : TxPkt := { txOf 0 (header 1 0 1 0 1 0 0 9 4) [7] [] (some 0) false with seq := seq, sentAt := some 0 }

/-- Port 15 with a link-control message of the given kind and bits in front. -/
def lcPort (kind bits : Nat) (c : Chan) : Port := { Port.fresh with lcIn := [BitVec.ofNat 64 (kind * 2 ^ 56 + bits)], chans := [(0, c)] }

/-- R208, R214, R229, R255, R259, R261: each link-control message in front, in the states in which it acts: acknowledgements that cover, repeat and break the window, the three classes of an
ABANDON's number, both outcomes of the identity check. -/
theorem witness_linkMessages :
    let up := fun (k bits : Nat) (c : Chan) => linked trUp (lcPort k bits c) State.reset
    let one := { Chan.fresh with next := 1, replay := [txPkt 0] }
    ([1, 2, 4, 6, 7, 8].all (fun k => ((up k 0 .fresh).lcFront 15 k).isSome && (up k 0 .fresh).train 15 == trUp)) = true
    ∧ ([(one, 0, true, false), ({ one with acked := true }, 65535, false, true), (one, 2, false, false)].all (fun (x : Chan × Nat × Bool × Bool) =>
      let s := up 1 (x.2.1 * 2 ^ 40 + 2 ^ 23) x.1
      let c := (s.port 15).chan 0
      let k := (x.2.1 + 65536 - c.oldest) % 65536
      decide (k < c.unacked) == x.2.2.1 && (k == 65535 && c.acked) == x.2.2.2 && c.replay.all (fun x => x.sentAt.isSome)))
    ∧ (let s := linked trIdent { lcPort 1 (2 ^ 17) .fresh with idOk := true } State.reset;
      s.train 15 = trIdent ∧ (s.port 15).idOk = true ∧ (s.lcFront 15 1).map (fun m => bitAt m.toNat 17) = some true)
    ∧ (let s := up 2 0 one;
      (0 + 65536 - ((s.port 15).chan 0).oldest) % 65536 < 16384 ∧ ((s.port 15).chan 0).replay.find? (fun x => x.seq == 0) = some (txPkt 0) ∧ (txPkt 0).abandoned = false
      ∧ (txPkt 0).replayedAt = none)
    ∧ (let s := up 6 (0x1FFF * 2 ^ 43 + 2 ^ 41) .fresh;
      (s.lcFront 15 6).map (fun m => (fibresOf (bitsAt m.toNat 43 13)).length) = some 13 ∧ (s.lcFront 15 6).map (fun m => bitsAt m.toNat 41 2) = some 1
        ∧ s.linkOn 15 = true ∧ (s.port 15).txGen ≠ 1)
    ∧ (let d := fun (n : Nat) => (n + 65536 - (((up 4 0 .fresh).port 15).chan 0).e) % 65536;
      let had := { Chan.fresh with ahead := ssetSet [] 7 true }
      49152 ≤ d 49152 ∧ (d 16384 < 49152 ∧ 16384 ≤ d 16384) ∧ (d 7 < 49152 ∧ ssetHas had.ahead 7 = true ∧ ssetHas had.gone 7 = false)
        ∧ d 16383 < 16384 ∧ ssetHas Chan.fresh.ahead 16383 = false ∧ ssetHas { had with gone := ssetSet [] 7 true }.gone 7 = true)
    ∧ (let s := linked trIdent { lcPort 8 0 .fresh with idGot := 1 } State.reset;
      s.latching 15 = true ∧ s.train 15 = trIdent ∧ (s.port 15).idGot ||| 2 = 3 ∧ (s.port 15).idOk = false ∧ (after (.ident1 15) s).idReason 15 = 0
        ∧ (after (.ident1 15) (withRegs [(rPlanId, 1)] s)).idReason 15 ≠ 0) := by
  decide +kernel

/-- The plan of a device of rank 1, whose partner on port 15 has rank 0: route 9 ends here, and serves entry 0 of channel 0. -/
def arriving : State :=
  let s := running (fun h => { h with arrivals := [(30, [⟨9, 1, 1, 900, 0, 0, 0, false, [5], 6, 7⟩])] })
  { s with loader := { s.loader with plan := s.loader.plan.map (fun p =>
      { p with ranks := [(0, 2 ^ 31), (1, 2 ^ 31 + 1)], optical := [(9, 2 ^ 95 + 3 * 2 ^ 93 + 15 * 2 ^ 89 + 2 ^ 32)] }) } }

/-- The header of number `seq` from rank 0 to rank `drank` on that route. -/
def rxHeader (seq drank : Nat) : Nat := setBitsAt (header 1 0 1 0 drank 0 0 9 0) 96 16 seq

/-- A packet that has arrived whole, of a zero line, with its trailer right or wrong. -/
def rxWhole (h : Nat) (good : Bool) : RxPkt :=
  { header := h, marks := [], body := List.replicate 64 (some 0) ++ (bigBytes 8 (if good then packetCrc h [0] else packetCrc h [0] + 1)).map some, state := .arriving,
    discard := false, bad := false, dropped := false, overflow := false, taken := 0, entry := some 0, leap := false }

/-- R220, R221, R228, R237, R238: a header, a spoilt header and none; numbers at the edges of the three classes, with a gap before one; the three outcomes of the checks; whole packets, of an entry and of
none, with the outcome told and not. -/
theorem witness_packetsReceived :
    let hdr := fun (n : Nat) => bigBytes 14 (rxHeader n 1 / 65536) ++ bigBytes 2 (crc16 (bigBytes 14 (rxHeader n 1 / 65536)))
    let port := fun (bs : List Byte) => { Port.fresh with hunting := false, rx := [⟨1, 0, bytesLine bs⟩] }
    let scan := fun (bs : List Byte) => Port.scan (9 * 1 + 9) (port bs)
    let s := linked trUp .fresh arriving
    let whole : Bool → Option Nat → RxPkt := fun good e => { rxWhole (rxHeader 0 1) good with entry := e }
    let d := fun (n : Nat) => (hdrSeq (rxHeader n 1) + 65536 - ((s.port 15).chan 0).e) % 65536
    (s.train 15 = trUp ∧ (s.port 15).cur = none)
    ∧ ([0, 2, 16384, 49152].all (fun n => (scan (hdr n)).2.1.map (fun h => h / 65536) == some (rxHeader n 1 / 65536) && (scan (hdr n)).2.2 == false)) = true
    ∧ (d 2 < 16384 ∧ 1 < d 2 ∧ ssetHas ((s.port 15).chan 0).ahead 1 = false) ∧ (16384 ≤ d 16384 ∧ d 16384 < 49152) ∧ 49152 ≤ d 49152
    ∧ ((scan (0x01 :: List.replicate 15 0)).2.1 = none ∧ (scan (0x01 :: List.replicate 15 0)).2.2 = true ∧ (scan []).2.1 = none ∧ (scan []).2.2 = false)
    ∧ s.peerCheck 15 (rxHeader 0 1) = 0 ∧ s.peerCheck 15 (rxHeader 0 2) = 1 ∧ 1 < s.peerCheck 15 (rxHeader 0 0) ∧ s.entryFor 15 (rxHeader 0 1) = some (0, false)
    ∧ ([some 0, none].all (fun (e : Option Nat) => [true, false].all (fun (g : Bool) => decide ((whole g e).extent ≤ (whole g e).body.length) && (whole g e).sound == g && !(whole g e).discard
      && !(whole g e).overflow && !(whole g e).dropped))) = true
    ∧ { rxWhole (rxHeader 0 1) true with discard := true }.discard = true ∧ ((s.port 15).entry 0 0).notice = .none ∧ EntryRun.fresh.confirmed = false := by
  decide +kernel

/-- R215, R227, R229, R256, R260, 01 R27, R30: a port that sends; a packet held back by a full window, one that goes, one in an intercalary frame; a leap copy outside the leap window, in it, and beyond
its budget; a timeout that has run out of a packet and of an abandoned one; marked packets on both channels, in the leap window and outside; a vigil that has run out. -/
theorem witness_linkTransmit :
    let up := fun (c : Chan) (s : State) => linked trUp { Port.fresh with chans := [(0, c)] } s
    let full := up { Chan.fresh with egress := [txPkt 0], next := 16384 } State.reset
    let free := up { Chan.fresh with egress := [txPkt 0], next := 16383 } State.reset
    let ical := { free with frame := { free.frame with running := true, ical := true } }
    let copy := { txPkt 0 with leap := true }
    let late : TxPkt → State := fun x => { up { Chan.fresh with next := 1, replay := [x] } State.reset with now := 65535 }
    let window := running (fun h => { h with links := [(15, ⟨0, 1000, []⟩)] })
    let budget := fun (k : Nat) (s : State) => { s with loader := { s.loader with plan := s.loader.plan.map (fun p => { p with ports := List.replicate 16 ⟨0, true, false, 0, k, 0⟩ }) } }
    let marked := { txPkt 0 with marked := true }
    let both := linked trUp { Port.fresh with chans := [(0, { Chan.fresh with next := 1, replay := [marked] }), (1, { Chan.fresh with next := 1, replay := [{ marked with order := 1 }] })] }
    let off := { up { Chan.fresh with offSince := some 0 } State.reset with now := 2 ^ 24 }
    (full.linkOn 15 = true ∧ full.train 15 = trUp ∧ full.bit (rLkState 15) (lkOffRx 0) = false ∧ ((full.port 15).chan 0).egress = txPkt 0 :: [] ∧ full.frame.running = false
      ∧ ¬ ((full.port 15).chan 0).unacked < 16384)
    ∧ (free.train 15 = trUp ∧ free.bit (rLkState 15) (lkOffRx 0) = false ∧ ((free.port 15).chan 0).egress = txPkt 0 :: [] ∧ ((free.port 15).chan 0).unacked < 16384
      ∧ (free.port 15).replayBytes + (txPkt 0).size ≤ 768 * 1024 ∧ free.fl.masques = [] ∧ (txPkt 0).leap = false)
    ∧ (ical.frame.running = true ∧ ical.frame.ical = true ∧ ((ical.port 15).chan 0).egress = txPkt 0 :: [])
    ∧ (copy.leap = true ∧ free.inLeap 15 = false ∧ (up { Chan.fresh with egress := [copy] } (budget 0 window)).inLeap 15 = true
      ∧ (up { Chan.fresh with egress := [copy] } (budget 0 window)).leapBudget 15 ≤ 0 ∧ 0 < (up { Chan.fresh with egress := [copy] } (budget 1 window)).leapBudget 15
      ∧ (up { Chan.fresh with egress := [copy] } window).frame.ical = false)
    ∧ ([txPkt 0, { txPkt 0 with abandoned := true }].all (fun (x : TxPkt) => (late x).train 15 == trUp && (((late x).port 15).chan 0).waiting == [x] && x.sentAt == some 0 && !x.marked
      && decide (0 + (late x).field (rReplayTimeout 15) 0 16 ≤ (late x).now))) = true
    ∧ (late (txPkt 0)).inLeap 15 = false
    ∧ ((both (budget 1 window)).train 15 = trUp ∧ (both (budget 1 window)).inLeap 15 = true ∧ (both (budget 1 window)).markedOf 15 0 = some marked
      ∧ (both (budget 1 window)).markedOf 15 1 = some { marked with order := 1 } ∧ marked.order ≤ 1 ∧ 0 < (both (budget 1 window)).leapBudget 15
      ∧ (both (budget 0 window)).leapBudget 15 ≤ 0)
    ∧ (((off.port 15).chan 0).offSince = some 0 ∧ ((off.port 15).chan 0).offNoted = false ∧ off.train 15 = trUp ∧ 0 + off.field (rLkVigil 15) 0 24 ≤ off.now)
    ∧ { Chan.fresh with offNoted := true }.offNoted = true := by
  decide +kernel

/-! Eve delivery and routing. -/

/-- Entry 0 of channel 0 of port 15, of the given type and of `len` lines on route 9 of the given role, has come as far as `r`; `held` waits in the ingress queue. Its regular slots are 5 and 6, its
notice's 7, and its repair is in slots 8 and on. -/
def entry (role typ len : Nat) (r : EntryRun) (held : List RxPkt) : State :=
  let s := running (fun h => { h with arrivals := [(30, [⟨9, typ, len, 900, 0, 1, 0, false, [5, 6], 7, 8⟩])] })
  linked trUp { Port.fresh with entries := [(0, r)], chans := [(0, { Chan.fresh with held := held })] }
    { s with loader := { s.loader with plan := s.loader.plan.map (fun p => { p with optical := [(9, 2 ^ 95 + role * 2 ^ 93 + 15 * 2 ^ 89 + 2 ^ 32)] }) } }

/-- That entry, its route and its run are what `arrival` finds. -/
def found (role typ len : Nat) (r : EntryRun) (held : List RxPkt) : Bool :=
  ((entry role typ len r held).arrival 15 0 0 role).map (fun x => (x.1.typ, x.1.len, x.1.slots, x.1.notice, x.1.leap, x.2.2)) == some (typ, len, [5, 6], 7, 8, r)
    && [5, 6, 7, 8, 9, 10].all (entry role typ len r held).slotOpen

/-- A packet that the port tile of another place has injected for tile 2, two hops east of tile 0, with a destination of its own. -/
def delivered (dest : PktDest) : Packet := ⟨9, .port, 0, 0x42, 2, dest, 3, lineMap [⟨1, false⟩, ⟨2, true⟩, ⟨3, false⟩], 10, 2, none, []⟩

/-- R241, R242: a regular delivery of a DATA entry, a leap delivery of a failed one, a READ line whose notice is known; the last line of a delivery, of a leap delivery, and a notice at their tile; a
tile with a FREE, an EVE and a FAILED tag. -/
theorem witness_eveDelivery :
    found 3 1 4 { EntryRun.fresh with sent := [true, false] } [] = true ∧ [true, false].length ≤ 2 * 1 ∧ 2 * 1 < 4
    ∧ found 3 1 4 { EntryRun.fresh with notice := .fail } [] = true
    ∧ ([Notice.confirm, .fail].all (fun x => found 3 4 1 { EntryRun.fresh with notice := x } [])) = true
    ∧ ([PktDest.eve 15 63 7 0, .leap 15, .notice 15 1].all (fun (x : PktDest) =>
      let k := delivered x
      let s : State := { meshing 0 with pkts := [k] }
      s.meshSlot 14 && s.pkt? 9 == some k && (s.wayOf k)[k.hop]? == some ⟨2, 3, 4, none, none⟩ && k.hop + 1 == (s.wayOf k).length && decide (1 < k.len) && !ssetHas k.pushed 1
        && 14 == k.t0 + 1 / 2 + 4 && k.alive 1 && !s.crossingHas 2 3 9 (1 / 2) && k.line? 1 == some ⟨2, true⟩ && s.owns 2 k && s.tileRuns 2 && decide ((s.tile 2).now ≤ 14 + 1))) = true
    ∧ (let tl := fun (x : TagState) => (onTile (fun tl => { tl with tags := if x = .free then [] else [(15, ⟨x, 63, 0, 2, 7⟩)] })).tile 0;
      ((tl .free).access ⟨5, (tl .free).qLine 63 ((tl .free).qTail 63) % 32, (tl .free).qLine 63 ((tl .free).qTail 63), .mv, false, none⟩).2 = false
        ∧ ((tl .free).tag 15).state = .free ∧ ((tl .eve).tag 15).state = .eve ∧ ((tl .eve).tag 15).owner = 7 ∧ ((tl .eve).tag 15).count = 2
        ∧ ((tl .failed).tag 15).state = .failed ∧ 1 < ((tl .failed).tag 15).count
        ∧ ((tl .failed).access ⟨5, (tl .failed).qLine 63 (0 + 1) % 32, (tl .failed).qLine 63 (0 + 1), .mv, false, none⟩).2 = false) := by
  decide +kernel

/-- R241, R242, R250, R300: a notice due that is good and that is bad, for a DATA, a SYNC and an exchange entry; a repair that succeeds and one that fails; a SYNC packet that is confirmed; tags EVE
and FAILED. -/
theorem witness_eveNotices :
    let due := fun (typ : Nat) (ok : Bool) => { EntryRun.fresh with confirmed := ok, sent := if typ = 1 then [ok] else [] }
    let rep := fun (typ : Nat) (ok : Bool) => { EntryRun.fresh with notice := .fail, confirmed := ok, leapDone := if typ = 1 then some ok else none }
    let a := fun (typ : Nat) => (⟨9, typ, 1, 900, 0, 1, 0, false, [5, 6], 7, 8⟩ : ArrEntry)
    let sig := { rxWhole (rxHeader 0 1) true with state := .confirmed, body := (lineBytes (BitVec.ofNat 512 (2 ^ 16 + 2 ^ 64))).map some }
    ([1, 2, 3].all (fun t => [true, false].all (fun ok =>
      found 3 t 1 (due t ok) [] && (entry 3 t 1 (due t ok) []).noticeDue (a t) (due t ok) && noticeGood (a t) (due t ok) == ok
      && found 3 t 1 (rep t ok) [] && (entry 3 t 1 (rep t ok) []).leapDue (a t) (rep t ok) && leapGood (a t) (rep t ok) == ok))) = true
    ∧ (let s := { entry 3 2 1 (due 2 true) [sig] with sync := { State.reset.sync with xlate := [(0, some 32767)] } };
      (s.port 15).confirmed 0 0 = some sig ∧ syncFields (sig.payload.getD 0 0).toNat = some (0, 1, 0, false, 1) ∧ s.xlate s.frame.ctx 0 = some 32767)
    ∧ ((entry 3 3 1 (due 3 true) [sig]).port 15).confirmed 0 0 = some sig ∧ { EntryRun.fresh with late := true }.late = true
    ∧ (let tl := fun (x : TagState) => (onTile (fun tl => { tl with tags := [(15, ⟨x, 63, 0, 2, 7⟩)], ranges := [(15, some range0)] })).tile 0;
      ((tl .eve).tag 15).state = .eve ∧ ((tl .failed).tag 15).state = .failed ∧ (tl .eve).range 15 = some range0) := by
  decide +kernel

/-- R250, R251: closed ranges, not failed and failed, an open one, the place of a range among the re-executions, the head of the re-executions, and an OPEN's copy of a queue. -/
theorem witness_rangesResolve :
    let closed := { range0 with closed := true }
    let s := fun (r : Range) (q : List Nat) => onTile (fun tl => { tl with ranges := [(15, some r)], reexec := q })
    let snap : QSnap := ⟨2 ^ 14 - 1, 0, 2 ^ 32 - 1, 0⟩
    ([closed, { closed with failed := true }, range0].all (fun r => (s r []).tileLive 0 5 && ((s r []).atSlot 0 5).range 15 == some r)) = true
    ∧ closed.closed = true ∧ closed.mask = 0 ∧ closed.live = 0 ∧ ((s closed []).atSlot 0 5).reexec.contains 15 = false ∧ ((s closed []).atSlot 0 5).again ≠ some 15
    ∧ range0.closed = false
    ∧ (let order := fun (x : Nat) => ((((s { closed with order := 1 } []).atSlot 0 5).range x).map (fun r => r.order)).getD 0;
      (∀ x ∈ [14, 13], order x ≤ order 15) ∧ ∀ x ∈ ([] : List Nat), order 15 < order x)
    ∧ ((s { closed with failed := true } [15]).tileLive 0 5 = true ∧ ((s { closed with failed := true } [15]).atSlot 0 5).reexec = 15 :: []
      ∧ ((s { closed with failed := true } [15]).atSlot 0 5).again = none ∧ ((s { closed with failed := true } [15]).atSlot 0 5).frozen = false)
    ∧ ({ range0 with queues := List.replicate 64 snap }).queues[63]? = some snap ∧ snap.head < 2 ^ 14 ∧ snap.tail < 2 ^ 14 ∧ snap.push < 2 ^ 32 ∧ snap.pop < 2 ^ 32 := by
  decide +kernel

/-- R253, R254, R256, R258, 01 R39: a forwarded line that has come, and one that is absent from a copy under way; a confirmed leap packet; a deadline of the frame that has passed, one of the frame
before, one that is noted. -/
theorem witness_forwarding :
    let x := { rxWhole (rxHeader 0 1) true with state := .confirmed, leap := true }
    let begun := { EntryRun.fresh with fwd := 1, hdr := some (rxHeader 0 1), out := some 0 }
    let timed := fun (s : State) => withRegs [(rTmStatus, 2 * 2 ^ 30)] { s with time := { State.reset.time with counter := 900 } }
    let late := timed (entry 3 1 1 .fresh [])
    let before := { late with frame := { late.frame with was := some ⟨3, 0, 0, 0⟩ } }
    (found 2 1 2 .fresh [x] = true ∧ EntryRun.fresh.fwd = 0 ∧ EntryRun.fresh.broken = false ∧ (((entry 2 1 2 .fresh [x]).port 15).serving 0 0).isSome = true
      ∧ ((((entry 2 1 2 .fresh [x]).port 15).serving 0 0).bind (fun x => x.line 0)).isSome = true)
    ∧ (let s := (entry 2 1 2 begun []).updChan 0 0 (fun c => { c with replay := [txPkt 5] });
      found 2 1 2 begun [] = true ∧ ((s.port 15).serving 0 0).bind (fun x => x.line 1) = none ∧ begun.fwd = 1 ∧ begun.hdr = some (rxHeader 0 1) ∧ begun.out = some 0
        ∧ orOut (s.optRoute (hdrRoute (rxHeader 0 1))) = 0 ∧ ((s.port 0).chan 0).replay.find? (fun x => x.id == 0) = some (txPkt 5) ∧ (txPkt 5).abandoned = false)
    ∧ (((entry 2 1 1 .fresh [x]).port 15).confirmed 0 0 = some x ∧ EntryRun.fresh.forwarded = false ∧ x.leap = true ∧ found 2 1 1 .fresh [x] = true)
    ∧ ([late, before].all (fun s => s.frame.running && ((s.arrivals 15 0)[0]?).map (fun a => s.missed a ((s.port 15).entry 0 0) s.frame.tickAt.toNat) == some true)) = true
    ∧ (late.frame.was = none ∧ ((before.arrivalsWas 15 0)[0]?).map (fun a => before.missed a .fresh 0) = some true)
    ∧ (let s := timed (entry 3 1 1 { EntryRun.fresh with late := true } []);
      s.frame.running = true ∧ s.frame.was = none ∧ ((s.arrivals 15 0)[0]?).map (fun a => s.missed a ((s.port 15).entry 0 0) s.frame.tickAt.toNat) = some false)
    ∧ ((late.arrivals 15 0)[0]?).map (fun a => orRole (late.optRoute a.route)) = some 3 := by
  decide +kernel

/-! Time. -/

/-- R268: a request by PF0, and the outcome of each row of Table 10-3 that can be told without a plan: step 5, an accepted step 4, BUSY; with a plan, a target too near. -/
theorem witness_stepRequestOutcome :
    isPf0OrFw .pf0 = true ∧ bitAt (0x80000005 : W32).toNat 31 = true ∧ bitsAt (0x80000005 : W32).toNat 0 3 = 5
    ∧ (withRegs [(rTmStatus, 4 * 2 ^ 16)] State.reset).field rTmStatus 16 3 = 4 ∧ (frame4 4000 id).planRuns = true
    ∧ (frame4 4900 id).pastCommit 5 = true ∧ (withRegs [(rT0, 10 ^ 6)] (frame4 4900 id)).pastCommit 9 = false := by
  decide +kernel

/-- R267, R272 to R274: an accepted change without a plan, and none; a calibrated region and its thresholds; a warning that ends, one that does not yet. -/
theorem witness_stepsAndMargins :
    let s := { State.reset with time := { TimeBlock.reset with step := some ⟨4, 0, 0, false⟩ } }
    let on := withRegs [(rTmStatus, 2 ^ 25)] State.reset
    let warned := { State.reset with time := { TimeBlock.reset with warning := true, okSince := some 0 }, now := 1000000 }
    (s.time.step = some ⟨4, 0, 0, false⟩ ∧ s.planRuns = false) ∧ State.reset.time.step = none ∧ isPf0OrFw .bmc = false
    ∧ State.reset.marginOn 95 = false ∧ on.marginOn 95 = true ∧ on.marginOn 96 = false
    ∧ on.field rMarginWarn 0 8 = 0x14 ∧ on.field rMarginCrit 0 8 = 8 ∧ on.frame.running = false ∧ on.time.warning = false
    ∧ (let run := withRegs [(rTmStatus, 2 * 2 ^ 30 + 2 ^ 25)] (frame4 4000 id); run.marginOn 0 = true ∧ run.frame.running = true ∧ run.planRuns = true)
    ∧ warned.time.okSince = some 0 ∧ warned.time.warning = true ∧ 0 + 1000000 ≤ warned.now ∧ ({ warned with now := 999999 }).now < 0 + 1000000 := by
  decide +kernel

/-- R277, R280, R290: copies that differ and that agree; holdover at its limit and before; a reference in use, and none; a reference lost; a time PLL that locks. -/
theorem witness_timeCounter :
    let s := withRegs [(rTmStatus, 2 ^ 31)] { State.reset with time := { TimeBlock.reset with counter := 5 } }
    let hold := withRegs [(rTmStatus, 2 ^ 31 + 2 ^ 28)] { State.reset with time := { TimeBlock.reset with holdSince := some 0 }, now := 10000000 }
    let refs := fun (k : Nat) => withRegs [(rTmStatus, 2 ^ 29 + k * 2 ^ 26), (rTmRef, 0)] State.reset
    (s.counterState ≠ 0 ∧ s.time.counter ≠ s.time.twin) ∧ State.reset.counterState = 0
    ∧ (hold.time.holdSince = some 0 ∧ hold.bit rTmStatus 28 = true ∧ hold.counterState ≠ 0 ∧ 0 + 1000 * hold.field rHoldover 0 24 ≤ hold.now)
    ∧ ({ hold with now := 9999999 }).now < 0 + 1000 * hold.field rHoldover 0 24
    ∧ (s.time.twinInj = false ∧ State.reset.time.counter = State.reset.time.twin)
    ∧ ([1, 2, 3].all (fun k => (refs k).bit rTmStatus 29 && !(refs k).bit rTmStatus 28 && (refs k).refNow == k && (refs k).refSecondary == 0)) = true ∧ State.reset.refNow = 0
    ∧ (let x := withRegs [(rTmRef, 2 * 2 ^ 24 + 15 * 2 ^ 20)] (refs 1);
      x.refSecondary = 2 ∧ x.field rTmRef 20 4 = 15 ∧ 12 ≤ (fibresOf ({ x with ports := [(15, { Port.fresh with clock := 0xFFF })] }.port 15).clock).length)
    ∧ bitAt ({ TimeBlock.reset with refLost := 1 }).refLost 0 = true ∧ bitAt TimeBlock.reset.refLost 0 = false
    ∧ ((withRegs [(rMgStatus, 2 ^ 21)] State.reset).bit rMgStatus 21 = true ∧ State.reset.refPrimary ≠ 2)
    ∧ (let x := withRegs [(rMgStatus, 2 ^ 21), (rTmRef, 2 ^ 31 + 15 * 2 ^ 26)] State.reset; x.refPrimary = 2 ∧ (fibresOf (x.port (x.field rTmRef 26 4)).clock).length < 12)
    ∧ (withRegs [(rMgStatus, 2 ^ 28)] State.reset).fwUp = true ∧ (2 : Nat) < 3 := by
  decide +kernel

/-- A loaded plan that uses port 15. -/
def onPorts (s : State) : State :=
  { s with loader := { s.loader with plan := some { plan1 id with ports := List.replicate 15 ⟨0, false, false, 0, 0, 0⟩ ++ [⟨0, true, false, 15, 1, 100⟩] } } }

/-- R285 to R287: the start in self-test, refused, at a root with and without the wait for an edge, at another device; an edge waited for; the two timeouts; the last exchange. -/
theorem witness_equinox :
    let locked := fun (r : Nat) => withRegs [(rTmStatus, 2 ^ 29), (rTmRef, r)] State.reset
    let leaf := withRegs [(rTmRef, 2 ^ 31)] (onPorts State.reset)
    let late := { State.reset with time := { TimeBlock.reset with eqxPps := true, eqxSince := some 0 }, now := 1500000000 }
    let trial := withRegs [(rTmStatus, 2 ^ 30), (rEqxStatus, 256)] { State.reset with time := { TimeBlock.reset with eqxSince := some 0 }, now := 100000000 }
    isPf0OrFw .firmware = true ∧ bitAt (2 ^ 31 : W32).toNat 31 = true ∧ (withRegs [(rMgStatus, 2 ^ 26)] State.reset).selftest = true
    ∧ (State.reset.selftest = false ∧ State.reset.bit rTmStatus 29 = false)
    ∧ ([0, 2 ^ 19].all (fun r => !(locked r).selftest && !(locked r).planRuns && (locked r).bit rTmStatus 29)) = true
    ∧ (locked 0).eqxRoot = true ∧ (locked 0).bit rTmRef 19 = false ∧ (locked (2 ^ 19)).bit rTmRef 19 = true ∧ leaf.eqxRoot = false
    ∧ (late.time.eqxPps = true ∧ late.eqxOver 1500000000 = true) ∧ ({ late with now := 1499999999 }).eqxOver 1500000000 = false ∧ State.reset.time.eqxPps = false
    ∧ (trial.counterState = 1 ∧ trial.eqxOver 100000000 = true ∧ trial.field rEqxStatus 0 9 = 256) ∧ State.reset.counterState ≠ 1 := by
  decide +kernel

/-- A calends flit whose echo names the marker sent at 7, received by the partner at 9; its CRC-16 is right when `good`. -/
def calFlit (good : Bool) : LineBits :=
  let bs := bigBytes 8 100 ++ bigBytes 2 0 ++ bigBytes 8 7 ++ bigBytes 8 9 ++ List.replicate 36 0
  bytesLine (bs ++ bigBytes 2 (crc16 bs + if good then 0 else 1))

/-- R282, R283: a port that may not send, one that may; no marker received, one with a bad CRC-16, and one that echoes a marker sent. -/
theorem witness_calendsMarkers :
    let s := fun (q : Port) => withRegs [(rTmStatus, 2 ^ 31)] (linked trUp q State.reset)
    State.reset.train 15 ≠ trUp ∧ ((s .fresh).counterState = 2 ∧ (s .fresh).train 15 = trUp ∧ ((s .fresh).port 15).marks = []) ∧ Port.fresh.calIn = []
    ∧ (let x := { s { Port.fresh with marks := [⟨10, 0, 0⟩] } with time := State.reset.time };
      (x.port 15).marks.head?.map (fun m => decide ((m.t3.toNat - 10) / x.calPeriod = x.clock / x.calPeriod)) = some true)
    ∧ (let x := withRegs [(rMgStatus, 2 ^ 28)] (s .fresh); x.fwUp = true ∧ x.planRuns = false)
    ∧ (let x := withRegs [(rTmStatus, 2 ^ 30), (rTmRef, 2 ^ 31 + 15 * 2 ^ 26), (rEqxStatus, 2 ^ 26)] (s .fresh); x.counterState = 1 ∧ x.upstream 15 = true ∧ x.field rEqxStatus 26 2 = 1)
    ∧ crc16 ((lineBytes (calFlit false)).take 62) ≠ bigNum ((lineBytes (calFlit false)).drop 62)
    ∧ crc16 ((lineBytes (calFlit true)).take 62) = bigNum ((lineBytes (calFlit true)).drop 62)
    ∧ (let q := { Port.fresh with calIn := [(calFlit true, 12)], marks := [⟨7, 3, 4⟩] };
      bigNum (((lineBytes (calFlit true)).drop 10).take 8) = 7 ∧ q.marks.find? (fun m => m.t3.toNat == 7) = some ⟨7, 3, 4⟩ ∧ Port.fresh.marks.find? (fun m => m.t3.toNat == 7) = none
        ∧ bigNum (((lineBytes (calFlit true)).drop 18).take 8) = 9 ∧ bigNum ((lineBytes (calFlit true)).take 8) = 100) := by
  decide +kernel

/-! The loader. -/

/-- Firmware runs, and the plan is in the given state. -/
def planState (st : Nat) (s : State) : State := withRegs [(rMgStatus, 2 ^ 28), (rPlState, st * 2 ^ 29)] s

/-- A request of firmware's own: its opcode and words from 1 on. -/
def firm (op : Nat) (ws : List W32) : Req := .firm (BitVec.ofNat 32 (op * 2 ^ 24) :: ws)

/-- R13, R316, R318, R319: a load and a reuse load turned away, held, found busy, and failing the check of the staged image; a completion and none; a verification; a held load that begins.
That an image passes rests on SHA-384 and the sections' layouts, which are opaque. -/
theorem witness_loadRequests :
    let up := planState 0 State.reset
    let test := withRegs [(rMgStatus, 2 ^ 28 + 2 ^ 26)] State.reset
    let plain := firm 0x20 []
    let reuse := Req.firm [0x20000002]
    (up.serves plain 0x20 = true ∧ up.serves reuse 0x20 = true ∧ reuseBit (up.reqWords plain) = false ∧ reuseBit (up.reqWords reuse) = true)
    ∧ (planState 4 State.reset).loadGate plain (up.reqWords plain) false = some (5, 0) ∧ up.loadGate plain (up.reqWords plain) false = none
    ∧ (test.serves plain 0x20 = true ∧ test.selftest = true ∧ test.loadGate plain (test.reqWords plain) false = none ∧ test.loader.held = none)
    ∧ ({ Loader.reset with held := some plain }).held ≠ none
    ∧ (up.selftest = false ∧ (up.checkImage 0 0 false).2 = .bad rsStage 0)
    ∧ (let s := { onPorts (planState 1 State.reset) with loader := { (onPorts State.reset).loader with loading := some ⟨plain, false, 5⟩ } };
      s.loader.loading = some ⟨plain, false, 5⟩ ∧ s.loader.plan.isSome = true)
    ∧ State.reset.loader.loading = none
    ∧ (up.serves (firm 0x21 []) 0x21 = true ∧ up.loadGate (firm 0x21 []) (up.reqWords (firm 0x21 [])) true = none
      ∧ (planState 1 State.reset).loadGate (firm 0x21 []) (up.reqWords (firm 0x21 [])) true = some (1, 0) ∧ test.serves (firm 0x21 []) 0x21 = true)
    ∧ ((withRegs [(rMgStatus, 2 ^ 28 + 2 ^ 24)] State.reset).bit rMgStatus 24 = true ∧ State.reset.selftest = false) := by
  decide +kernel

/-- R320, R321, R323: PL_ARM refused and accepted 200,000 ns before T0, PL_STOP in each state and from a function, PL_UNLOAD refused and accepted. -/
theorem witness_armStopUnload :
    let loaded := withRegs [(rTmStatus, 2 * 2 ^ 30)] (planState 2 { State.reset with loader := { Loader.reset with plan := some (plan1 id) } })
    let arm := firm 0x22 [200000]
    let stop := firm 0x23 []
    let armed := withRegs [(rTmStatus, 2 * 2 ^ 30), (rT0, 1000), (rGuard, 100)] (planState 3 { State.reset with time := { TimeBlock.reset with counter := 899 } })
    (loaded.selftest = false ∧ loaded.serves arm 0x22 = true ∧ loaded.armGate arm (loaded.reqWords arm) = (0, 0, 0) ∧ loaded.loader.plan = some (plan1 id))
    ∧ (planState 0 State.reset).armGate arm (loaded.reqWords arm) = (4, rsState, 0)
    ∧ ([0, 1, 3, 4].all (fun st => (planState st State.reset).serves stop 0x23 && (planState st State.reset).planState == st
      && [0x00, 0x10, 0x11].contains ((planState st State.reset).reqSender stop) && onlyBits (word (loaded.reqWords stop) 0) 0xFF000000 && zeroFrom (loaded.reqWords stop) 1)) = true
    ∧ (armed.planState = psArmed ∧ armed.shadow = [] ∧ armed.counterState = 2 ∧ (armed.clock : Int) < armed.tickOf 0 - armed.get rGuard)
    ∧ (loaded.set rTmRef 1).get rTmRef ≠ 0
    ∧ (let s := withRegs [(rMbxBind 2, 2 ^ 31 + 1)] (planState 0 { State.reset with host := { State.reset.host with chans := [(2, { Chnl.idle with words := [0x23000000], service := true })] } });
      s.serves (.chan 2) 0x23 = true ∧ [0x00, 0x10, 0x11].contains (s.reqSender (.chan 2)) = false)
    ∧ (loaded.serves (firm 0x24 []) 0x24 = true ∧ loaded.plainGate (firm 0x24 []) (loaded.reqWords (firm 0x24 [])) = (0, 0)
      ∧ armed.plainGate (firm 0x24 []) (loaded.reqWords (firm 0x24 [])) = (5, 0)) := by
  decide +kernel

/-- R325, R327, 00 R13: an action in self-test, from a function not bound, with no plan running, ill formed, late, one too many, accepted; an intercalary request of each outcome. -/
theorem witness_actionsAndIntercalary :
    let test := withRegs [(rMgStatus, 2 ^ 28 + 2 ^ 26)] State.reset
    let run := withXlate (withRegs [(rMgStatus, 2 ^ 28), (rT0, 0)] (frame4 4000 id))
    let act := fun (f : W32) => firm 0x25 [f, 0, 0x10000000, 4095, 1]
    let parts := fun (r : Req) => (⟨word (run.reqWords r) 1 + 2 ^ 32 * word (run.reqWords r) 2, (run.reqWords r).getD 3 0, (run.reqWords r).getD 4 0, (run.reqWords r).getD 5 0⟩ : Action)
    ([0x22, 0x23, 0x24, 0x25].all (fun op => test.serves (firm op []) op)) = true ∧ test.selftest = true
    ∧ (run.serves (act 7) 0x25 = true ∧ run.selftest = false ∧ run.actionSender (act 7) (parts (act 7)) = true ∧ run.planRuns = true)
    ∧ (onlyBits (word (run.reqWords (act 7)) 0) 0xFF000000 && zeroFrom (run.reqWords (act 7)) 6 && actionOk (fun c v => (run.xlate c v).isSome) (parts (act 7))) = true
    ∧ actionOk (fun c v => (run.xlate c v).isSome) (parts (firm 0x25 [7, 0, 0x50000000])) = false
    ∧ run.pastHorizon 5 = true ∧ run.pastHorizon 7 = false ∧ run.loader.actions.length < 256
    ∧ 256 ≤ ({ Loader.reset with actions := List.replicate 256 (parts (act 7)) }).actions.length
    ∧ (let s := withRegs [(rMbxBind 2, 2 ^ 31 + 1)] { run with host := { State.reset.host with chans := [(2, { Chnl.idle with words := run.reqWords (act 7), service := true })] } };
      s.serves (.chan 2) 0x25 = true ∧ s.actionSender (.chan 2) (parts (act 7)) = false)
    ∧ ((planState 0 State.reset).planState ≠ psLoading ∧ (planState 0 State.reset).planRuns = false)
    ∧ isPf0OrFw .pf0 = true ∧ bitAt (0x80000001 : W32).toNat 31 = true ∧ bitAt (1 : W32).toNat 31 = false ∧ isPf0OrFw (.vf 15) = false
    ∧ run.pastCommit 0 = true ∧ (withRegs [(rIcalFirst, 6)] run).pastCommit 6 = false ∧ run.frame.icalRun.isSome = false := by
  decide +kernel

/-! HBM service time, BAR2 and serving. -/

/-- The device with HBM ready and the given BAR2 requests waiting. -/
def served (q : List HostReq) : State := withRegs [(rMgStatus, 2 ^ 28 + 2 ^ 24)] { State.reset with host := { State.reset.host with queue := q } }

/-- R163, R345, R397 to R400: writes and reads by PF0 and by a function without a binding, inside and outside service time; a closed manifest slot; a served read; service time with one
fault record copied, with the ring on, full and off; the write buffer and the reads below and at their limits. -/
theorem witness_hostWindow :
    let s := served []
    let busy := { served [] with frame := { FrameCtl.idle with running := true, alen := 1000 } }
    let closed := withRegs [(rMgStatus, 2 ^ 28 + 2 ^ 24), (rMfBase, 2 ^ 31), (rT0, 0)] (frame4 4000 (fun f => { f with alen := 0, tickAt := 4000 }))
    let q : HostReq := ⟨.pf0, 0, 0, true, 1, [some 7], true, false, false⟩
    let ring := withRegs [(rRingBase, 2 ^ 31), (rRingSize, 8)] (served [])
    (agentFn .pf0 = some 0 ∧ agentFn (.vf 15) = some 15 ∧ s.hbmReady = true ∧ s.serviceTime = true ∧ s.host.queue = [] ∧ 63 + [some (5 : Byte)].length ≤ 64)
    ∧ (s.slotClosed 0 = false ∧ s.hostMay .pf0 0 true = true ∧ ssetHas s.hbm.poison 0 = false ∧ s.hbm.wrong = []) ∧ s.hostMay (.vf 15) 0 true = false
    ∧ (closed.hbmReady = true ∧ closed.serviceTime = true ∧ closed.slotClosed 64 = true) ∧ (busy.hbmReady = true ∧ busy.serviceTime = false)
    ∧ s.hostMay .pf0 0 false = true ∧ s.hostMay (.vf 15) 0 false = false
    ∧ (busy.postedBytes + [some (5 : Byte)].length ≤ 4 * 2 ^ 20 ∧ busy.readsHeld < 1024
      ∧ 4 * 2 ^ 20 < (served [{ q with isRead := false, len := 4 * 2 ^ 20 }]).postedBytes + [some (5 : Byte)].length)
    ∧ 1024 ≤ (served (List.replicate 1024 q)).readsHeld
    ∧ ((served [q]).host.queue = [q] ∧ q.isRead = true ∧ q.served = true ∧ q.who = .pf0)
    ∧ (s.serve.copy = none ∧ s.serve.hashes = [])
    ∧ (ring.ringOn faultRing = true ∧ ring.ringFull faultRing = false ∧ (withRegs [(rRingTail, 256)] ring).ringFull faultRing = true ∧ s.ringOn faultRing = false)
    ∧ (let r : FRec := ⟨0, 0, 0x0101, 0, 0, 0, 0, 0⟩;
      ({ s.fl with queue := [r], copied := 1 }).queue.take 1 = [r]) := by
  decide +kernel

/-- R336, R341, R345: a gate half by PF0 and by the BMC; a commit of each outcome; PL_COPY turned away, busy and accepted; a copy that ends. -/
theorem witness_gatesAndCopies :
    let up := planState 0 State.reset
    let good := firm 0x26 [0, 0, 64, 0, 64]
    let run := withRegs [(rMfBase, 2 ^ 31), (rT0, 0)] (frame4 4000 id)
    let copying := { served [] with serve := { ServeBlock.reset with copy := some ⟨0, 64, 64, 3, some 32767, false⟩ } }
    (isPf0OrFw .pf0 = true ∧ isPf0OrFw .bmc = false ∧ State.reset.selftest = false ∧ (1 : Nat) < 2)
    ∧ (bitAt (2 ^ 31 : W32).toNat 31 = true ∧ bitAt (0 : W32).toNat 31 = false ∧ State.reset.planRuns = false)
    ∧ (run.planRuns = true ∧ run.bit rMfBase 31 = true ∧ run.pastHorizon 5 = true ∧ run.pastHorizon 7 = false ∧ ¬ (run.clock : Int) < run.tickOf ((7 : Int) - 3)
      ∧ run.pastHorizon 8 = false ∧ (run.clock : Int) < run.tickOf ((8 : Int) - 3))
    ∧ (up.serves good 0x26 = true ∧ up.copySignal (word (up.reqWords good) 6) = some none ∧ up.loaderSender good = true ∧ up.rangeInHbm 0 64 = true
      ∧ up.rangeInHbm 64 64 = true ∧ meets 0 64 64 64 = false ∧ up.meetsDump 0 64 = false ∧ zeroFrom (up.reqWords good) 7 = true ∧ up.serve.copy = none)
    ∧ up.copySignal (2 ^ 31) = none ∧ copying.serve.copy ≠ none
    ∧ (copying.sync.hist.any (fun x => x.ctr == 32767) = false ∧ State.reset.serve.copy = none)
    ∧ (copying.serviceTime = true ∧ copying.hbm.wrong = [] ∧ meets 0 64 64 64 = false ∧ State.reset.serviceTime = false) := by
  decide +kernel

/-! Faults, masques and observation. -/

/-- R357, R364, R368: a rail excursion with and without a plan; an exchange packet of a used port; a masque request of each outcome. -/
theorem witness_faultsAndMasques :
    let run := withRegs [(rMgStatus, 2 ^ 28), (rT0, 0), (rMasqueCtrl, 2 ^ 31)] (onPorts (frame4 4000 id))
    let req := fun (f : W32) => firm 0x50 [f, 0, 0x01000001, BitVec.ofNat 32 (uPort * 4096 + 15)]
    let exch := onPorts (frame4 4000 id)
    let p := { plan1 (fun h => { h with exch := [(15, (2, 9))] }) with ports := List.replicate 15 ⟨0, false, false, 0, 0, 0⟩ ++ [⟨0, true, false, 15, 1, 100⟩] }
    let s := { exch with loader := { exch.loader with plan := some p } }
    (State.reset.planRuns = false ∧ run.planRuns = true ∧ run.frame.running = true ∧ run.frame.committed = false)
    ∧ (let g := frame4 4950 (fun f => { f with committed := true }); g.planRuns = true ∧ g.frame.running = true ∧ g.frame.committed = true)
    ∧ (s.shapeNow = p.almanac.shapes[0]? ∧ (p.almanac.shapes[0]?).map (fun h => smapGet (fun _ => (0, 0)) h.exch 15) = some (2, 9) ∧ 15 ∈ s.usedPorts
      ∧ ssetHas s.fl.exchSent 15 = false ∧ s.frame.committed = false ∧ s.frame.shape < 256 ∧ s.frame.ctx < 256)
    ∧ (run.serves (req 7) 0x50 = true ∧ run.selftest = false ∧ run.bit rMasqueCtrl 31 = true ∧ [0x00, 0x10, 0x11].contains (run.reqSender (req 7)) = true
      ∧ masqueKinds.any (fun k => k.kind == 1 && run.masqueOk k 1 (uPort * 4096 + 15) 0 0) = true ∧ run.pastHorizon 7 = false ∧ run.fl.masques.length < 64)
    ∧ run.pastHorizon 5 = true ∧ masqueKinds.any (fun k => k.kind == 1 && run.masqueOk k 9 (uPort * 4096 + 15) 0 0) = false := by
  decide +kernel

/-- R361: a record of rail 3 and then one of port 2, raised in one nanosecond, are written in the order of their unit kinds. -/
theorem test_record_order :
    let s := (State.reset.record 0x0802 uRail 3 3).record 0x0402 uPort 2 0
    s.fl.queue.map (fun r => r.cls) = [0x0402, 0x0802] ∧ s.fl.recent.map (fun r => r.cls) = [0x0802, 0x0402] := by
  decide +kernel

/-- R383, R387, R389, R390: rings on, full and off with one record waiting; a watch arm from its own function and for another; a watch point at its slot in a tile that
executes and in a frozen one, its group armed and not, and one with no frame. -/
theorem witness_observation :
    let ready := served []
    let on := withRegs [(rTraceBase, 2 ^ 31), (rTraceSize, 8), (rDigBase, 2 ^ 31), (rDigSize, 8)] (served [])
    let full := withRegs [(rTraceTail, 256), (rDigTail, 256)] on
    let p := plan1 id
    let x : WatchPoint := ⟨0, 0, 2, 5, 2, 1⟩
    let g : WatchGroup := ⟨0, 3, [x]⟩
    let on1 := fun (f : Tile → Tile) => { onTile f with loader := { Loader.reset with plan := some { p with almanac := { p.almanac with watch := [g] } } } }
    let s := on1 id
    let cold := on1 (fun tl => { tl with frozen := true })
    let armed := { s with ob := { s.ob with runs := [⟨0, 0, 0, 0, 0⟩] } }
    State.reset.hbmReady = false ∧ ready.hbmReady = true ∧ State.reset.serviceTime = false ∧ ready.serviceTime = true
    ∧ ready.ringOn traceRing = false ∧ (on.ringOn traceRing = true ∧ on.ringFull traceRing = false) ∧ full.ringFull traceRing = true
    ∧ 0 < ({ on with loader := { Loader.reset with plan := some p } }).traceRoom
    ∧ (on.ringOn digRing = true ∧ on.ringFull digRing = false) ∧ full.ringFull digRing = true
    ∧ (agentFn .pf0 = some 0 ∧ bitAt (2 ^ 31 : W32).toNat 31 = true ∧ agentFn .pf0 ≠ some 1)
    ∧ (s.watchGroup 0 = some g ∧ g.points[0]? = some x ∧ s.slotOpen x.slot = true ∧ x.shape = s.frame.shape ∧ s.ob.copied = [] ∧ s.tileRuns 0 = true ∧ (s.tile 0).now ≤ x.slot
      ∧ (s.atSlot 0 x.slot).wrong = [] ∧ s.ob.runs.find? (fun r => r.group == 0) = none)
    ∧ (cold.slotOpen x.slot = true ∧ cold.tileRuns 0 = false ∧ (cold.tile 0).wrong = []) ∧ (armed.ob.runs.find? (fun r => r.group == 0)).isSome = true
    ∧ State.reset.slotOpen x.slot = false := by
  decide +kernel

/-! BAR0 and the mailboxes. -/

/-- Tile 0 with its event counters 0 and 1 chained (15 R378). -/
def chained : State := { State.reset with tiles := [(0, Tile.reset.set 0x1104 (2 ^ 31))] }

/-- R10: a counter on its own, both halves of a 64-bit pair, and the even counter of a chained pair of an enabled tile. -/
theorem witness_counterWriteWins :
    (rRwlIgnored % 4 = 0 ∧ isCounter rRwlIgnored = true ∧ ¬ TLW 0 0 ≤ rRwlIgnored ∧ counterPair rRwlIgnored = none ∧ State.reset.chainLo rRwlIgnored = false)
    ∧ (OB 0x200 % 4 = 0 ∧ isCounter (OB 0x200) = true ∧ counterPair (OB 0x200) = some true)
    ∧ (OB 0x224 % 4 = 0 ∧ isCounter (OB 0x224) = true ∧ counterPair (OB 0x224) = some false)
    ∧ (TLW 0 0x1000 % 4 = 0 ∧ isCounter (TLW 0 0x1000) = true ∧ chained.enabled ((TLW 0 0x1000 - TLW 0 0) / 0x10000) = true ∧ counterPair (TLW 0 0x1000) = none
      ∧ chained.chainLo (TLW 0 0x1000) = true) := by
  decide +kernel

/-- R276, R398, R421, R424 to R426: registers of 4 bytes, of a latched pair, of 8 bytes and not aligned; a counter, a register that the sender may not write, and one of each access type,
without and with a plan running. -/
theorem witness_bar0Access :
    let s := State.reset
    let run := withRegs [(rPlState, 4 * 2 ^ 29)] State.reset
    let row := fun (u : State) (a : Agent) (off : Nat) => aligned off 4 && inBlock off && decide (¬ TLW 0 0 ≤ off) && byteBits (15 % 16) != 0
      && ((u.touch a).rowWrite a off (7 % 2 ^ 32) (byteBits 15)).isNone
    (aligned rHwinDeny 4 = true ∧ pairLo rHwinDeny = false ∧ s.chainLo rHwinDeny = false ∧ pairLo (rHwinDeny - 4) = false ∧ s.chainLo (rHwinDeny - 4) = false)
    ∧ (aligned rTmTime 4 = true ∧ pairLo rTmTime = true ∧ pairLo (rTmTime + 4) = false ∧ s.chainLo (rTmTime + 4) = false)
    ∧ aligned (OB 0x220) 8 = true ∧ aligned rTmTime 2 = false
    ∧ (row s (.vf 3) rRwlIgnored = true ∧ (regRow rRwlIgnored).acc = .counter)
    ∧ (row s (.vf 3) (rHwinBase 0) = true ∧ mayWrite (.vf 3) (rHwinBase 0) (regRow (rHwinBase 0)) = false ∧ (regRow (rHwinBase 0)).acc ≠ .counter)
    ∧ (row s (.vf 3) (rHwinBase 3) = true ∧ mayWrite (.vf 3) (rHwinBase 3) (regRow (rHwinBase 3)) = true ∧ s.selftest = false ∧ (regRow (rHwinBase 3)).acc = .rw)
    ∧ (row s .pf0 rMgStatus = true ∧ mayWrite .pf0 rMgStatus (regRow rMgStatus) = true ∧ (regRow rMgStatus).acc = .w1c)
    ∧ (row s .pf0 rResetPolicy = true ∧ mayWrite .pf0 rResetPolicy (regRow rResetPolicy) = true ∧ (regRow rResetPolicy).acc = .rwl ∧ s.planRuns = false)
    ∧ (row run .pf0 rResetPolicy = true ∧ run.planRuns = true ∧ run.selftest = false)
    ∧ (row s .pf0 (PL 0x43C) = true ∧ mayWrite .pf0 (PL 0x43C) (regRow (PL 0x43C)) = true ∧ (regRow (PL 0x43C)).acc = .rwf ∧ row run .pf0 (PL 0x43C) = true) := by
  decide +kernel

/-- Channel `c` is bound to identity `id`, the bindings are locked and firmware is up. -/
def bound (c id : Nat) (s : State) : State := withRegs [(rMgStatus, 2 ^ 28), (rMbxLock, 2 ^ 31), (rMbxBind c, 2 ^ 31 + id)] s

/-- R408 to R410, R448: a GO by one who does not own the channel, by its owner into an idle and a full channel and before the bindings are locked; a request taken, one that no row serves, firmware down; the
BMC's tunnel of each outcome. -/
theorem witness_mailboxes :
    let idle := bound 7 0 State.reset
    let full := idle.set (rMbxCtrl 7) (2 ^ 30)
    let down := full.set rMgStatus 0
    let info := full.set (rMbxReq 7 0) 0x01000000
    let tunnel := bound 0 0x10 State.reset
    let first := fun (s : State) => s.reqFull 7 && !(s.chnl 7).service && (List.range 7).all (fun i => !s.reqFull i)
    let ws := fun (s : State) => (List.range 16).map (fun w => BitVec.ofNat 32 (s.get (rMbxReq 7 w)))
    (idle.owns_ (agentId (.vf 1)) 7 = false ∧ idle.owns_ (agentId .pf0) 7 = true ∧ idle.bit rMbxLock 31 = true ∧ idle.chanFull 7 = false ∧ full.chanFull 7 = true)
    ∧ (let s := idle.set rMbxLock 0; s.owns_ (agentId .pf0) 7 = true ∧ s.bit rMbxLock 31 = false)
    ∧ (info.fwUp = true ∧ first info = true ∧ info.unserved 7 (ws info) = false)
    ∧ (full.fwUp = true ∧ first full = true ∧ full.unserved 7 (ws full) = true ∧ (full.chnl 7).discard = false ∧ full.chanOwner 7 ≠ 0x10)
    ∧ (down.fwUp = false ∧ down.recovery = false)
    ∧ (tunnel.fwUp = true ∧ idle.owns_ 0x10 7 = false ∧ tunnel.owns_ 0x10 0 = true ∧ tunnel.bit rMbxLock 31 = true ∧ tunnel.chanFull 0 = false
      ∧ (tunnel.set (rMbxCtrl 0) (2 ^ 29)).chanFull 0 = true) := by
  decide +kernel

/-- R276, R423: the first of the pairs, and the empty offsets at both ends of their ranges. -/
theorem witness_latchedTimePairs : rTmTime ∈ [rTmTime, rEqxOffset, rPpsCapture, rWallOffset] := by decide

theorem witness_emptyOffsets : ([0x800000, 0xFFFFF8, 0x7000000, 0xFFFFFF8].all (fun off => !inBlock off && aligned off 4 && aligned off 8)) = true := by decide +kernel

/-! Management, power and light. -/

/-- A request of opcode `op` with the words `ws` from 1 on is in service on channel 0, which is bound to identity `id`. -/
def asking (id op : Nat) (ws : List W32) (s : State) : State :=
  let b := bound 0 id s
  b.setChnl 0 ⟨BitVec.ofNat 32 (op * 2 ^ 24) :: ws, true, false, false, none⟩

/-- R403, R406, R408, R411, R412: requests that fit and that do not, in and out of self-test, of the rows whose words decide their outcome. -/
theorem witness_mgRequests :
    let r := Req.chan 0
    let s := fun op ws => asking 0 op ws State.reset
    let b := fun op ws => asking 0x10 op ws State.reset
    let test := fun op => (s op []).set rMgStatus (2 ^ 28 + 2 ^ 26)
    let place := [0, 0, 0]
    let ids : List W32 := [0x10, 0x10, 0]
    ((s 0x01 [1]).serves r 0x01 = true ∧ (s 0x01 [1]).selftest = false ∧ (s 0x01 [1]).mgFits r [] [] = false ∧ (s 0x04 []).mgFits r [0x10] [] = false)
    ∧ ((test 0x07).serves r 0x07 = true ∧ (test 0x07).selftest = true ∧ servedInTest 0x07 = false)
    ∧ ((s 0x01 []).serves r 0x01 = true ∧ (s 0x01 []).mgFits r [] [] = true) ∧ ((s 0x06 [5]).serves r 0x06 = true ∧ (s 0x06 [5]).mgFits r [] [0xFFF] = true)
    ∧ ((s 0x07 [0]).serves r 0x07 = true ∧ (s 0x07 [0]).mgFits r [] [allBits] = true ∧ (s 0x07 [0]).mg.descr.length ≤ 60 * word ((s 0x07 [0]).reqWords r) 1)
    ∧ (let d := { s 0x07 [0] with mg := { State.reset.mg with descr := [1] } }; d.serves r 0x07 = true ∧ d.mgFits r [] [allBits] = true ∧ 60 * word (d.reqWords r) 1 < d.mg.descr.length)
    ∧ ((b 0x0B place).serves r 0x0B = true ∧ (b 0x0B place).selftest = false ∧ (b 0x0B place).mgFits r [0x10] [0xFFFF, allBits, 0xFFFF] = true
      ∧ (b 0x0B place).planState = psEmpty)
    ∧ (let a := asking 0x10 0x0B place (State.reset.set rPlState (3 * 2 ^ 29));
      a.serves r 0x0B = true ∧ a.mgFits r [0x10] [0xFFFF, allBits, 0xFFFF] = true ∧ a.planState ≠ psEmpty ∧ a.planState ≠ psLoaded ∧ a.planState ≠ psStopped)
    ∧ ((s 0x0C ids).serves r 0x0C = true ∧ (s 0x0C ids).mgFits r [0] [0x3FFFFFFF, 0x3FF, 1] = true)
    ∧ ((List.range 8).map (fun c => if c < 6 then bitsAt 0x10 (5 * c) 5 else bitsAt 0x10 (5 * (c - 6)) 5)).all (fun i => decide (i ≤ 0x10) || i == 0x1F) = true
    ∧ ((List.range 8).map (fun c => if c < 6 then bitsAt 0x11 (5 * c) 5 else bitsAt 0 (5 * (c - 6)) 5)).all (fun i => decide (i ≤ 0x10) || i == 0x1F) = false := by
  decide +kernel

/-- R411: the four items of MG_KEY with slots that exist and that do not, a key's halves, and a state that is not EMPTY. A second half that completes a key rests on `Config.validP384`, which is opaque. -/
theorem witness_mgKeys :
    let r := Req.chan 0
    let s := fun ws => asking 0 0x0A ws State.reset
    let keyed := fun (h : Option (Nat × List W32 × Nat)) ws => let x := s ws; x.setChnl 0 { x.chnl 0 with half := h }
    ((s [1]).planState = psEmpty ∧ (s [1]).serves r 0x0A = true ∧ keyItem ((s [1]).reqWords r) = 1 ∧ (s [1]).mgFits r [0, 0x10] [0xF0F] = true
      ∧ keySlot ((s [1]).reqWords r) < 2 ∧ bitsAt ((s [1]).mg.otp.fwRevoked ||| 2 ^ 0) 0 2 ≠ 3)
    ∧ (keyItem ((s [0xF01]).reqWords r) = 1 ∧ (s [0xF01]).mgFits r [0, 0x10] [0xF0F] = true ∧ 2 ≤ keySlot ((s [0xF01]).reqWords r))
    ∧ (keyItem ((s [0x303]).reqWords r) = 3 ∧ (s [0x303]).mgFits r [0, 0x10] [0xF0F] = true ∧ keySlot ((s [0x303]).reqWords r) < 4
      ∧ 4 ≤ keySlot ((s [0xF03]).reqWords r) ∧ keyItem ((s [4]).reqWords r) = 4 ∧ (s [4]).mgFits r [0, 0x10] [0xF0F] = true)
    ∧ (keyItem ((keyed none [2]).reqWords r) = 2 ∧ (keyed none [2]).mgFits r [0, 0x10] (0x1F0F :: List.replicate 12 allBits) = true ∧ keyHalf ((keyed none [2]).reqWords r) = false)
    ∧ (let x := keyed none [0x1002]; keyHalf (x.reqWords r) = true ∧ (x.chnl 0).half = none ∧ x.mgFits r [0, 0x10] (0x1F0F :: List.replicate 12 allBits) = true)
    ∧ (let x := keyed (some (1, [], 0)) [0x1002]; keyHalf (x.reqWords r) = true ∧ (x.chnl 0).half = some (1, [], 0) ∧ ¬ (1 : Nat) = keySlot (x.reqWords r))
    ∧ (asking 0 0x0A [0xF01] (State.reset.set rPlState (2 * 2 ^ 29))).planState ≠ psEmpty := by
  decide +kernel

/-- R402, R405, R413 to R419, R417: self-test asked for in EMPTY and in another state; each phase's end; both resets; a shutdown asked for once and again, without and with a plan running; its completion; power-on;
an image too long, and one staged. That a staged image is valid rests on `Config.fwImage`, which is opaque; the shipped bank A is valid. -/
theorem witness_testsAndResets :
    let r := Req.chan 0
    let s := fun op ws => asking 0 op ws State.reset
    let st := fun (u : State) (v : Nat) => u.set rMgStatus v
    let armed := asking 0 0x02 [] (State.reset.set rPlState (3 * 2 ^ 29))
    let phase := fun (k : Nat) => withRegs [(rMgStatus, 2 ^ 28 + 2 ^ 26), (rSelftest, k * 2 ^ 28)] State.reset
    let run := asking 0 0x04 [] (State.reset.set rPlState (4 * 2 ^ 29))
    let act := { st (s 0x09 []) (2 ^ 28) with mg := { State.reset.mg with bankB := ⟨true, 1, 0, false, 0, 0⟩ } }
    State.reset.loader.loading = none
    ∧ ((s 0x02 []).selftest = false ∧ (s 0x02 []).serves r 0x02 = true ∧ (s 0x02 []).mgFits r [0, 0x10] [] = true ∧ (s 0x02 []).planState = psEmpty)
    ∧ (armed.serves r 0x02 = true ∧ armed.mgFits r [0, 0x10] [] = true ∧ armed.planState ≠ psEmpty ∧ armed.planState ≠ psLoaded ∧ armed.planState ≠ psStopped)
    ∧ ([1, 2, 3, 4, 5].all (fun k => (phase k).selftest && (phase k).field rSelftest 28 4 == k) = true)
    ∧ ((s 0x03 [0]).serves r 0x03 = true ∧ (s 0x03 [0]).mgFits r [0, 0x10] [1] = true ∧ bitAt (word ((s 0x03 [0]).reqWords r) 1) 0 = false)
    ∧ ((s 0x03 [1]).serves r 0x03 = true ∧ (s 0x03 [1]).mgFits r [0, 0x10] [1] = true ∧ bitAt (word ((s 0x03 [1]).reqWords r) 1) 0 = true)
    ∧ ((s 0x04 []).serves r 0x04 = true ∧ (s 0x04 []).mgFits r [0, 0x10] [] = true ∧ (s 0x04 []).fwUp = true ∧ (s 0x04 []).bit rMgStatus 23 = false ∧ (s 0x04 []).shadow = []
      ∧ (s 0x04 []).planRuns = false) ∧ (run.serves r 0x04 = true ∧ run.planState = psRunning)
    ∧ (let x := st (s 0x04 []) (2 ^ 28 + 2 ^ 23); x.serves r 0x04 = true ∧ x.mgFits r [0, 0x10] [] = true ∧ x.bit rMgStatus 23 = true)
    ∧ (let x := st (s 0x04 []) (2 ^ 28 + 2 ^ 23 + 2 ^ 21); x.bit rMgStatus 23 = true ∧ x.planRuns = false ∧ x.frame.running = false ∧ x.bit rDumpStatus 31 = false ∧ x.ringsWait = false ∧ x.bit rMgStatus 21 = true)
    ∧ (let x := asking 0x10 0x05 [] State.reset; x.serves r 0x05 = true ∧ x.selftest = false ∧ x.mgFits r [0x10] [] = true ∧ x.bit rMgStatus 23 = false)
    ∧ (let x := s 0x08 [0, 0, 0]; x.serves r 0x08 = true ∧ x.selftest = false ∧ x.recovery = false ∧ x.mgFits r [0] [allBits, 1, allBits] = true)
    ∧ (let x := s 0x08 [64, 0, 100]; x.serves r 0x08 = true ∧ x.mgFits r [0] [allBits, 1, allBits] = true ∧ 100 ≤ fwLimit ∧ x.rangeInHbm 64 ((100 + 63) / 64) = true)
    ∧ ((s 0x09 []).serves r 0x09 = true ∧ (s 0x09 []).mgFits r [0, 0x10] [] = true
      ∧ ({ s 0x09 [] with mg := { State.reset.mg with bankB := ⟨false, 1, 0, false, 0, 0⟩ } }).bankOk true = false ∧ (s 0x09 []).inactive = true)
    ∧ (act.serves r 0x09 = true ∧ act.mgFits r [0, 0x10] [] = true ∧ act.inactive = true ∧ act.bankOk act.inactive = true) := by
  decide +kernel

/-- R402, R413, R414, R434 to R438, R445: power as it comes and goes, PERST# with each policy, and a cartridge that waits, starts and lifts. -/
theorem witness_powerAndLight :
    let s := State.reset
    let on := { withRegs [(rMgStatus, 2 ^ 28 + 2 ^ 21)] s with power := { s.power with auxIn := true, mainIn := true, rails := 2 ^ 16 - 1 } }
    let up := withRegs [(rMgStatus, 2 ^ 28)] { s with power := { s.power with auxIn := true, held := false } }
    let dark := { s with power := { s.power with carts := [(3, { s.cart 3 with latched := false })] } }
    let shut := { on with now := 5000000000, power := { on.power with carts := [(3, { s.cart 3 with closedAt := some 0 })] } }
    (s.power.auxIn = false ∧ on.power.auxIn = true)
    ∧ (up.fwUp = true ∧ up.bit rMgStatus 21 = false ∧ up.bit rMgStatus 23 = false ∧ up.power.held = false)
    ∧ on.bit rMgStatus 21 = true ∧ on.power.rails &&& mainRails ≠ 0 ∧ on.fwUp = true
    ∧ s.bit rResetPolicy 0 = false ∧ ((s.set rResetPolicy 1).bit rResetPolicy 0 = true ∧ (s.set rResetPolicy 1).loader.loading = none)
    ∧ ((bound 0 15 s).chanOwner 0 = 15 ∧ (bound 0 15 s).chanOwner 0 < 16 ∧ s.chanOwner 7 ≠ 15)
    ∧ (dark.cart 3).latched = false
    ∧ ((shut.cart 3).closedAt = some 0 ∧ shut.fwUp = true ∧ 0 + 5000000000 ≤ shut.now) ∧ ¬ 0 + 5000000000 ≤ ({ shut with now := 4999999999 }).now
    ∧ ((s.cart 3).latched = true ∧ (s.cart 3).feeding = false)
    ∧ (let lit := linked trUp { Port.fresh with feedLost := 2 } { s with power := { s.power with carts := [(3, { s.cart 3 with feeding := true })] } };
      (lit.cart 3).latched = true ∧ (lit.cart 3).feeding = true ∧ 15 % 4 = 3 ∧ (lit.port 15).feedLost = 2 ∧ lit.train 15 = trUp
        ∧ (14 + 1) % 4 = 3 ∧ bitAt (lit.port 14).feedLost 1 = false) := by
  decide +kernel

/-- R404, R407, R413, R448: firmware up, recovery, and neither; vendor reads and writes that are refused, of a plain register, of a counter and of 8 bytes. -/
theorem witness_bmcMessages :
    let up := State.reset.set rMgStatus (2 ^ 28)
    let rec_ := State.reset.set rMgStatus (2 ^ 27)
    (up.fwUp = true ∧ up.recovery = false ∧ up.selftest = false ∧ rec_.recovery = true ∧ State.reset.fwUp = false)
    ∧ (let x := State.reset.set rMgStatus (2 ^ 28 + 2 ^ 26); x.fwUp = true ∧ x.recovery = false ∧ x.selftest = true)
    ∧ ((bound 0 0x10 up).chanOwner 0 = 0x10 ∧ up.chanOwner 1 ≠ 0x10)
    ∧ (0 < [(0 : Byte)].length ∧ [(0 : Byte)].length ≤ fwLimit)
    ∧ vendorOk 4 2 = false ∧ vendorOk 4 (2 ^ 28) = false ∧ vendorOk 8 (OB 0x220) = true ∧ vendorOk 4 rHwinDeny = true
    ∧ (pairLo rHwinDeny = false ∧ up.chainLo rHwinDeny = false ∧ pairLo (rHwinDeny - 4) = false ∧ up.chainLo (rHwinDeny - 4) = false)
    ∧ isCounter rPlState = false ∧ (isCounter rHwinDeny = true ∧ counterPair rHwinDeny = none ∧ ¬ TLW 0 0 ≤ rHwinDeny) := by
  decide +kernel

/-! The block itself. -/

/-- A queue with a command at its front, and one with none. -/
theorem witness_stepRunsFront : ({ State.reset with pending := [.keepAlive 3] }).pending = [.keepAlive 3] ∧ State.reset.pending = [] := by decide +kernel

/-- A command that answers a next state, and a state whose maps are canonical: the premises of the two invariants. -/
theorem witness_commandsKeepOneTimeStorage : exec (.keepAlive 3) State.reset = .next (after (.keepAlive 3) State.reset) := by rfl

theorem witness_stepKeepsMemoryCanonical : State.reset.memWf = true
    ∧ step { State.reset with pending := [.keepAlive 3] } = .next (after (.keepAlive 3) State.reset) := by
  constructor
  · decide +kernel
  · rfl

/-! Ill-formed commands, one for each check of WellFormed. -/

theorem test_illFormed_units :
    Instr.wf (.sqNop 1536 2) = false ∧ Instr.wf (.status 16) = false ∧ Instr.wf (.lossOfSignal 0 13) = false ∧ Instr.wf (.replayTimeout 0 2) = false
    ∧ Instr.wf (.keepAlive 8) = false ∧ Instr.wf (.maintenanceSlot 0 64) = false ∧ Instr.wf (.syDoorbell .pf0 16 0) = false ∧ Instr.wf (.flrVf 0) = false
    ∧ Instr.wf (.marginWarning 96 0) = false ∧ Instr.wf (.railExcursion 16 true) = false ∧ Instr.wf (.cartridgeStart 4) = false ∧ Instr.wf (.thermalTrip 4) = false
    ∧ Instr.wf (.bar0Write .pf0 2 4 0 15) = false ∧ Instr.wf (.alignmentMarker 0 0 ⟨0, [1024]⟩) = false ∧ Instr.wf (.codeword 0 []) = false
    ∧ Instr.wf (.ptpSync 0) = true ∧ Instr.wf (.gateHold (.vf 16) 0 0) = false ∧ Instr.wf (.plArm (.chan 8)) = false
    ∧ Instr.wf (.plArm (.firm (List.replicate 17 0))) = false ∧ Instr.wf (.sqNop 1535 2) = true := by
  decide +kernel

/-! The manual's worked figures. -/

/-- R218, R219: the CRCs over the ASCII string "123456789". -/
theorem test_crcs : let bs : List Byte := [0x31, 0x32, 0x33, 0x34, 0x35, 0x36, 0x37, 0x38, 0x39]
    crc16 bs = 0x29B1 ∧ crc64 bs = 0x6C40DF5F0B497347 := by decide +kernel

/-- 05 Table 5-11: the last row of the generator's trace. -/
theorem test_generatorTrace :
    rng 1 2 3 4 1 7 0x500000001 = (0xAF7D1372, 0x52026623, 0x077C4C06, 0xF1DDD6CD) := by decide +kernel

/-- 03, the example of R82: 13.0, −2.75, 0.3 and 29 zeros as an MXFP4 block under RNE. -/
theorem test_packMxfp4 :
    let xs := [0x41500000, 0xC0300000, 0x3E99999A].map (decodeNum .b32) ++ List.replicate 29 (decodeNum .b32 0)
    let b := packBlock .e2m1 0 xs
    b.1 = 0x80 ∧ b.2.1.take 3 = [7, 0xB, 0] := by decide +kernel

/-- 03, the example of R89: 2^24, 1, −2^24 and 2^−20 with anchor −149 sum to 1 + 2^−20, which is 0x3F800008. -/
theorem test_exactSum :
    ([0x4B800000, 0x3F800000, 0xCB800000, 0x35800000].foldl (fun (a : Acc) b => (a.add (decodeNum .b32 b) false).1) (Acc.fresh (-149))).round .b32 0 = (0x3F800008, 0) := by
  decide +kernel

/-- 04, the example of R105: MX.MM with MODE 0, CFMT 1, M = 128 and K = 4,096 retires 16,707 cycles after its issue in cycle 1,000. -/
theorem test_mxRetirement :
    ((Tile.reset.mxIssue 0 0 20000 1000 false [] (cmd (2 ^ 127 + 2 ^ 96 + 2 ^ 87 + 127 * 2 ^ 75 + 127 * 2 ^ 63) 0)).mx.flight.map (fun o => o.retire)) = [17707] := by decide +kernel

/-- 17, its example: the push count of Q9 and the VX HELD_BARRIER account of the tile at (7, 23). -/
theorem test_tileAddresses : TLW 743 (rTlQPush 9) = 0x03E7032C ∧ TLW 743 0x1258 = 0x03E71258 := by decide +kernel

/-- 17, its example: PF0 writes 0 to TL_SLIP_CNT in the cycle in which it grows by 1; the register then reads 1 (R10). -/
theorem test_counterWrite :
    (after (.counterWrite .pf0 (TLW 743 0x18) 0 1) { State.reset with tiles := [(743, Tile.reset.set 0x18 77)] }).raw (TLW 743 0x18) = 1 := by decide +kernel

/-! One step of the sequencer and of the block. -/

/-- R54: 2^64 − 1 plus 1 wraps to 0, with the destination a source. -/
theorem test_addWraps : ((after (.sqAdd 0 2) (words [sqWord 0x10 1 1 2 0] [(1, 2 ^ 64 - 1), (2, 1)])).tile 0).s 1 = 0 := by decide +kernel

/-- R54: an arithmetic shift uses the low six bits of its count and keeps the sign. -/
theorem test_shiftKeepsSign : ((after (.sqSra 0 2) (words [sqWord 0x18 1 2 3 0] [(2, 2 ^ 63), (3, 65)])).tile 0).s 1 = 0xC000000000000000 := by decide +kernel

/-- 02 Table 2-3: SQ.SETHI replaces the upper half and keeps the lower. -/
theorem test_sethi : ((after (.sqSethi 0 2) (words [sqWord 0x09 1 0 0 0xFFFFFFFF] [(1, 0x1234567800000005)])).tile 0).s 1 = 0xFFFFFFFF00000005 := by decide +kernel

/-- An empty queue: a nanosecond passes. -/
theorem test_idle : (match step State.reset with | .next u => u.now | _ => 0) = 1 := by decide +kernel


end Sys2Proof.Tests
end

section
/-! PROOF SUPPORT. What an issue makes of its tile (02 R62, R65, R67): the head leaves its queue, the wait takes its count, and the operation joins the
flight. -/

namespace Sys2Proof.Machine.EngineIssue

/-! What a tile holds beside counters, records and ranges. -/

/-- The memory, the sequencer and the engines of a tile. -/
def works (tl : Tile) : SMap Byte × Seq × (Engine → Eng) := (tl.mem, tl.seq, tl.eng)

/-- What an issue leaves alone but for its engine: `works`, the eve bits, the scalar registers, the tags and the tracker. -/
def core (tl : Tile) := (works tl, tl.eve, tl.sregs, tl.tags, tl.tracker)

theorem core_of_steady {a b : Tile} (h : a.steady = b.steady) : core a = core b := by
  simp only [Tile.steady, Prod.mk.injEq] at h
  obtain ⟨hmem, heve, hsregs, -, hseq, hmx, hvx, hmv, htags, -, -, htracker, -, -⟩ := h
  have heng : a.eng = b.eng := by
    funext e
    cases e <;> simp only [Tile.eng, hmx, hvx, hmv]
  simp only [core, works, hmem, heve, hsregs, hseq, heng, htags, htracker]

theorem works_of_core {a b : Tile} (h : core a = core b) : works a = works b := congrArg Prod.fst h

theorem eng_of_works {a b : Tile} (h : works a = works b) : a.eng = b.eng := congrArg (fun w => w.2.2) h

theorem core_ite (p : Prop) [Decidable p] (a b : Tile) : core (if p then a else b) = if p then core a else core b := by
  split <;> rfl

@[simp] theorem event_core (tl : Tile) (code k : Nat) : core (tl.event code k) = core tl := core_of_steady (Tile.event_steady _ _ _)

@[simp] theorem charge_core (tl : Tile) (eng : Engine) (acct : Nat) (k : Int) : core (tl.charge eng acct k) = core tl :=
  core_of_steady (Tile.charge_steady _ _ _ _)

@[simp] theorem emit_core (tl : Tile) (n frame kind eng slot data : Nat) : core (tl.emit n frame kind eng slot data) = core tl :=
  core_of_steady (Tile.emit_steady _ _ _ _ _ _ _)

@[simp] theorem consume_core (tl : Tile) (b k : Nat) : core (tl.consume b k) = core tl := core_of_steady (Tile.consume_steady _ _ _)

@[simp] theorem signal_core (tl : Tile) (b : Nat) : core (tl.signal b) = core tl := core_of_steady (Tile.signal_steady _ _)

@[simp] theorem modRange_core (tl : Tile) (e : Nat) (f : Range → Range) : core (tl.modRange e f) = core tl := by
  unfold Tile.modRange
  split <;> rfl

@[simp] theorem mvHeld_core (tl : Tile) (b : Bool) : core { tl with mvHeld := b } = core tl := rfl

/-! Replacing an engine. -/

@[simp] theorem eng_setEng_same (tl : Tile) {eng : Engine} (e : Eng) (h : eng ≠ .sq) : (tl.setEng eng e).eng eng = e := by
  cases eng
  case sq => exact absurd rfl h
  all_goals rfl

theorem eng_setEng_other (tl : Tile) {eng x : Engine} (e : Eng) (h : x ≠ eng) : (tl.setEng eng e).eng x = tl.eng x := by
  cases eng <;> cases x <;> first | rfl | exact absurd rfl h

@[simp] theorem setEng_setEng (tl : Tile) (eng : Engine) (a b : Eng) : (tl.setEng eng a).setEng eng b = tl.setEng eng b := by
  cases eng <;> rfl

/-- With one engine replaced the memory, the sequencer and the other engines stay. -/
theorem works_setEng {u tl : Tile} {eng : Engine} {e : Eng} (hne : eng ≠ .sq) (h : works u = works (tl.setEng eng e)) :
    u.eng eng = e ∧ (∀ x, x ≠ eng → u.eng x = tl.eng x) ∧ u.seq = tl.seq ∧ u.mem = tl.mem := by
  have heng := eng_of_works h
  simp only [works, Prod.mk.injEq] at h
  obtain ⟨hmem, hseq, -⟩ := h
  refine ⟨?_, fun x hx => ?_, hseq.trans ?_, hmem.trans ?_⟩
  · rw [heng, eng_setEng_same tl e hne]
  · rw [heng, eng_setEng_other tl e hx]
  all_goals cases eng <;> rfl

theorem core_setEng {u tl : Tile} {eng : Engine} {e : Eng} (h : core u = core (tl.setEng eng e)) :
    u.eve = tl.eve ∧ u.sregs = tl.sregs ∧ u.tags = tl.tags ∧ u.tracker = tl.tracker := by
  simp only [core, Prod.mk.injEq] at h
  obtain ⟨-, heve, hsregs, htags, htracker⟩ := h
  refine ⟨heve.trans ?_, hsregs.trans ?_, htags.trans ?_, htracker.trans ?_⟩
  all_goals cases eng <;> rfl

theorem setEng_core_congr {a b : Tile} (eng : Engine) (e : Eng) (h : core a = core b) : core (a.setEng eng e) = core (b.setEng eng e) := by
  have heng := eng_of_works (works_of_core h)
  simp only [core, works, Prod.mk.injEq] at h
  obtain ⟨⟨hmem, hseq, -⟩, heve, hsregs, htags, htracker⟩ := h
  have hset : (a.setEng eng e).eng = (b.setEng eng e).eng := by
    funext x
    by_cases hx : x = eng
    · subst hx
      cases x <;> rfl
    · rw [eng_setEng_other a e hx, eng_setEng_other b e hx, heng]
  simp only [core, works, hset, Prod.mk.injEq, and_true]
  cases eng <;> exact ⟨⟨hmem, hseq⟩, heve, hsregs, htags, htracker⟩

/-! Barriers: a wait's count and a signal. -/

/-- The tile when the wait of command `c` has taken its count (R67). -/
def waited (tl : Tile) (c : Cmd) : Tile := if c.waitEn then tl.consume c.waitB c.waitCnt else tl

theorem consume_regs_congr {a b : Tile} (x k : Nat) (hregs : a.regs = b.regs) (hovf : a.ovf = b.ovf) : (a.consume x k).regs = (b.consume x k).regs := by
  induction k generalizing a b with
  | zero => exact hregs
  | succ k ih =>
    rw [Tile.consume, Tile.consume, hovf]
    split
    · exact ih hregs rfl
    · refine ih ?_ hovf
      simp only [Tile.set, Tile.barrier, Tile.get, hregs]

theorem waited_regs_congr {a b : Tile} (c : Cmd) (hregs : a.regs = b.regs) (hovf : a.ovf = b.ovf) : (waited a c).regs = (waited b c).regs := by
  unfold waited
  split
  · exact consume_regs_congr _ _ hregs hovf
  · exact hregs

theorem isObj_barrier {b : Nat} (h : b < 16) : isObj (rTlBarrier b) = true := by
  unfold isObj rTlBarrier
  rw [decide_eq_true (by omega : 0x40 ≤ 0x40 + 4 * b), decide_eq_true (by omega : 0x40 + 4 * b < 0x80)]
  rfl

/-- What barriers and queues read as with one more on barrier `b`, which stays at 65,535. -/
def oneMore (objs : Nat → Nat) (b off : Nat) : Nat := if off = rTlBarrier b ∧ objs off < 65535 then objs off + 1 else objs off

/-- One more on a barrier, which stays at 65,535, moves no other barrier or queue. -/
theorem raiseBarrier_objs (tl : Tile) (ovf : List Nat) {b : Nat} (h : b < 16) :
    (if tl.barrier b < 65535 then tl.set (rTlBarrier b) (tl.barrier b + 1) else { tl with ovf := ovf }).objs = oneMore tl.objs b := by
  have hget : tl.objs (rTlBarrier b) = tl.barrier b := if_pos (isObj_barrier h)
  by_cases hlow : tl.barrier b < 65535
  · rw [if_pos hlow]
    funext off
    by_cases hoff : off = rTlBarrier b
    · subst hoff
      rw [oneMore, hget, if_pos ⟨rfl, hlow⟩, Tile.objs, if_pos (isObj_barrier h), Tile.get_set_same]
      omega
    · rw [oneMore, if_neg (fun hc => hoff hc.1), Tile.objs, Tile.objs, Tile.get_set_other _ _ hoff]
  · rw [if_neg hlow]
    funext off
    have hfull : ¬ (off = rTlBarrier b ∧ tl.objs off < 65535) := fun ⟨hoff, hc⟩ => hlow (by rwa [hoff, hget] at hc)
    rw [oneMore, if_neg hfull]
    rfl

/-- A signal adds 1 to its barrier (R67). -/
theorem signal_objs (tl : Tile) {b : Nat} (h : b < 16) : (tl.signal b).objs = oneMore tl.objs b := by
  have hevent : ({ tl.event 0x11 1 with signals := b :: tl.signals } : Tile).objs = tl.objs := (Tile.objs_of rfl).trans (Tile.event_objs _ _ _)
  rw [← hevent]
  exact raiseBarrier_objs _ _ h

theorem sigB_lt (c : Cmd) : c.sigB < 16 := Nat.mod_lt _ (by decide)

/-! The head leaves its queue. -/

/-- The engine in slot `t` without the command `c` that issues: at its head, or at the head of the re-execution (09 R251). -/
def dequeued (e : Eng) (t : Nat) (c : Cmd) : Eng :=
  if c.again then { e with redo := e.redo.tail, issuedAt := some t } else { e with queue := e.queue.tail, issuedAt := some t }

@[simp] theorem dequeued_queue (e : Eng) (t : Nat) (c : Cmd) : (dequeued e t c).queue = if c.again then e.queue else e.queue.tail := by
  unfold dequeued
  split <;> rfl

@[simp] theorem dequeued_redo (e : Eng) (t : Nat) (c : Cmd) : (dequeued e t c).redo = if c.again then e.redo.tail else e.redo := by
  unfold dequeued
  split <;> rfl

@[simp] theorem dequeued_issuedAt (e : Eng) (t : Nat) (c : Cmd) : (dequeued e t c).issuedAt = some t := by
  unfold dequeued
  split <;> rfl

@[simp] theorem dequeued_flight (e : Eng) (t : Nat) (c : Cmd) : (dequeued e t c).flight = e.flight := by
  unfold dequeued
  split <;> rfl

theorem takeHead_core (tl : Tile) (n frame alen : Nat) (eng : Engine) (t : Nat) (c : Cmd) :
    core (tl.takeHead n frame alen eng t c) = core (tl.setEng eng (dequeued (tl.eng eng) t c)) := by
  unfold Tile.takeHead dequeued
  dsimp only
  split <;> simp only [modRange_core, core_ite, emit_core, charge_core, event_core, consume_core, mvHeld_core, ite_self]

/-- Of the barriers and queues a departing head moves only what its wait takes. -/
theorem takeHead_objs (tl : Tile) (n frame alen : Nat) (eng : Engine) (t : Nat) (c : Cmd) :
    (tl.takeHead n frame alen eng t c).objs = (waited tl c).objs := by
  have hset : ∀ e : Eng, (tl.setEng eng e).regs = tl.regs ∧ (tl.setEng eng e).ovf = tl.ovf := fun e => by
    cases eng <;> exact ⟨rfl, rfl⟩
  have hwait : ∀ a : Tile, a.regs = tl.regs → a.ovf = tl.ovf → (if c.waitEn then a.consume c.waitB c.waitCnt else a).objs = (waited tl c).objs :=
    fun a hregs hovf => Tile.objs_of (waited_regs_congr c hregs hovf)
  have htrace : ∀ (a : Tile) (p : Prop) [Decidable p] (k e slot d : Nat), (if p then a.emit n frame k e slot d else a).objs = a.objs :=
    fun a p _ k e slot d => by rw [Tile.objs_ite, Tile.emit_objs, ite_self]
  unfold Tile.takeHead
  dsimp only
  split <;> simp only [Tile.modRange_objs, htrace, Tile.charge_objs, Tile.event_objs] <;>
    exact hwait _ (by split <;> exact (hset _).1) (by split <;> exact (hset _).2)

theorem takeHead_eng (tl : Tile) (n frame alen : Nat) {eng : Engine} (t : Nat) (c : Cmd) (hne : eng ≠ .sq) :
    (tl.takeHead n frame alen eng t c).eng eng = dequeued (tl.eng eng) t c :=
  (works_setEng hne (works_of_core (takeHead_core tl n frame alen eng t c))).1

/-! An operation joins the flight. -/

theorem readDescs_cons (tl : Tile) (slot d : Nat) (ds : List Nat) :
    (tl.readDescs slot (d :: ds)).1 = ((tl.readLine slot (tl.descLine d)).1.readDescs slot ds).1 := by
  rw [Tile.readDescs]

theorem readDescs_steady (slot : Nat) (ds : List Nat) (tl : Tile) : (tl.readDescs slot ds).1.steady = tl.steady := by
  induction ds generalizing tl with
  | nil => rfl
  | cons d ds ih => rw [readDescs_cons, ih, Tile.readLine_steady]

theorem readDescs_objs (slot : Nat) (ds : List Nat) (tl : Tile) : (tl.readDescs slot ds).1.objs = tl.objs := by
  induction ds generalizing tl with
  | nil => rfl
  | cons d ds ih => rw [readDescs_cons, ih, Tile.readLine_objs]

/-- The operation `o` with the descriptors that its command names as they read on the tile. -/
def withDescs (tl : Tile) (eng : Engine) (o : Op) : Op := { o with descs := (tl.readDescs o.issued (cmdDescs eng o.cmd)).2 }

theorem fly_core (tl : Tile) (eng : Engine) (o : Op) :
    core (tl.fly eng o) = core (tl.setEng eng { tl.eng eng with flight := (tl.eng eng).flight ++ [withDescs tl eng o] }) := by
  have hcore := core_of_steady (readDescs_steady o.issued (cmdDescs eng o.cmd) tl)
  rw [← setEng_core_congr eng _ hcore, ← eng_of_works (works_of_core hcore)]
  rfl

theorem fly_objs (tl : Tile) (eng : Engine) (o : Op) : (tl.fly eng o).objs = tl.objs :=
  calc (tl.fly eng o).objs
      = ((tl.readDescs o.issued (cmdDescs eng o.cmd)).1.setEng eng _).objs := Tile.objs_of rfl
    _ = tl.objs := (Tile.setEng_objs _ _ _).trans (readDescs_objs _ _ _)

/-- An issue that puts an operation in flight changes its engine alone: the head is gone and the operation is last. -/
theorem takeHead_fly_core (tl : Tile) (n frame alen : Nat) {eng : Engine} (t : Nat) (c : Cmd) (o : Op) (hne : eng ≠ .sq) :
    core ((tl.takeHead n frame alen eng t c).fly eng o) = core (tl.setEng eng { dequeued (tl.eng eng) t c with
      flight := (tl.eng eng).flight ++ [withDescs (tl.takeHead n frame alen eng t c) eng o] }) := by
  rw [fly_core, setEng_core_congr eng _ (takeHead_core tl n frame alen eng t c), setEng_setEng, takeHead_eng tl n frame alen t c hne, dequeued_flight]

/-- What an issue that puts an operation in flight does to the device. -/
theorem issueFrame_of_fly {n t frame alen : Nat} {s u : State} {f : Tile → Tile} {eng : Engine} {c : Cmd} {o : Op} (hne : eng ≠ .sq)
    (h : TileDoes n t s u f) (hf : f (s.atSlot n t) = ((s.atSlot n t).takeHead n frame alen eng t c).fly eng o) :
    IssueFrame n t eng c s u ∧ OnlyTile n (s.seen t) u ∧ ((u.tile n).eng eng).flight
      = ((s.atSlot n t).eng eng).flight ++ [withDescs ((s.atSlot n t).takeHead n frame alen eng t c) eng o] := by
  obtain ⟨honly, hsteady, hobjs⟩ := h
  rw [hf] at hsteady hobjs
  have hcore := (core_of_steady hsteady).trans (takeHead_fly_core (s.atSlot n t) n frame alen t c o hne)
  obtain ⟨heng, hother, hseq, hmem⟩ := works_setEng hne (works_of_core hcore)
  obtain ⟨heve, hsregs, htags, htracker⟩ := core_setEng hcore
  have hwaited : (u.tile n).sameObjs (waited (s.atSlot n t) c) := fun off ho =>
    (hobjs off ho).trans (Tile.sameObjs_of ((fly_objs _ _ _).trans (takeHead_objs _ _ _ _ _ _ _)) off ho)
  refine ⟨⟨honly.1, ?_, ?_, ?_, hother, hseq, hsregs, hmem, heve, htags, htracker, hwaited⟩, honly, ?_⟩
  all_goals rw [heng]
  · exact dequeued_queue _ _ _
  · exact dequeued_redo _ _ _
  · exact dequeued_issuedAt _ _ _

end Sys2Proof.Machine.EngineIssue
end

section
/-! PROOF. The issue of a product on MX (04 R102 to R108), with and without a MATRIX masque. -/

namespace Sys2Proof.Machine.EngineIssue

/-! A masque that fires moves nothing but the FL block. -/

theorem masqueDone_aside (s : State) (m : Masque) : (s.masqueDone m).aside = s.aside := by
  unfold State.masqueDone
  rw [State.orBits_aside, State.flRaise_aside]

theorem masqueDone_get (s : State) (m : Masque) {off : Nat} (h : isFl off = false) : (s.masqueDone m).get off = s.get off :=
  (State.set_get _ _ rfl h).trans (State.flRaise_get _ _ _ h)

theorem masqueFire_aside (s : State) (m : Masque) : (s.masqueFire m).aside = s.aside := by
  unfold State.masqueFire
  dsimp only
  split
  · exact masqueDone_aside _ _
  · rfl

theorem masqueFire_get (s : State) (m : Masque) {off : Nat} (h : isFl off = false) : (s.masqueFire m).get off = s.get off := by
  have hcount : (s.bump rMasqueFired 1).get off = s.get off := State.set_get s _ rfl h
  unfold State.masqueFire
  dsimp only
  split
  · exact (masqueDone_get _ _ h).trans hcount
  · exact hcount

theorem masqueFire_does {n t : Nat} {s u : State} {f : Tile → Tile} (m : Masque) (h : TileDoes n t s u f) : TileDoes n t s (u.masqueFire m) f := by
  obtain ⟨honly, hlike⟩ := h
  have htiles : (u.masqueFire m).tiles = u.tiles := (State.aside_same (masqueFire_aside u m)).2.1
  refine ⟨honly.trans (OnlyTile.of_aside (masqueFire_aside u m) (fun off ho => masqueFire_get u m ho)), ?_⟩
  rw [State.tile, htiles]
  exact hlike

/-- An issue that a masque may corrupt does what the tile makes of it with the masque's upset; the masque's own records lie in the FL block. -/
theorem injectIssue_does (s : State) (n t kind : Nat) (f : Bool → Tile → Tile) (h : s.tileLive n t = true) :
    TileDoes n t s (s.injectIssue n t kind f) (f (s.masqueOf kind (uTile * 4096 + n)).isSome) := by
  unfold State.injectIssue
  cases s.masqueOf kind (uTile * 4096 + n) with
  | none => exact s.tileEvent_does n t _ h
  | some m =>
    dsimp only
    split
    · exact s.tileEvent_does n t _ h
    · exact masqueFire_does m (s.tileEvent_does n t _ h)

/-! The product issues. -/

theorem mxStart_of_canIssue {tl : Tile} {further : Further} {t op : Nat} {c : Cmd} (n frame alen : Nat) (ups : List MxUpset) (inj : Bool)
    (hc : tl.canIssue further .mx t = some c) (hfree : tl.mxArrayFree ≤ t) (hop : c.op = op) :
    tl.mxStart further n frame alen t op ups inj = tl.mxIssue n frame alen t inj ups c := by
  unfold Tile.mxStart
  rw [hc]
  exact if_pos ⟨hop, hfree⟩

/-- An event in which a product can issue puts it in flight, in the cycles of Table 4-6 (R105, R107). -/
theorem mxStart_issues {n t frame alen op : Nat} {s u : State} {further : Further} {c : Cmd} {ups : List MxUpset} {inj : Bool}
    (h : TileDoes n t s u (fun tl => tl.mxStart further n frame alen t op ups inj)) (hc : (s.atSlot n t).canIssue further .mx t = some c)
    (hfree : (s.atSlot n t).mxArrayFree ≤ t) (hop : c.op = op) :
    let tl := s.atSlot n t
    let q := mxPar c.bits.toNat
    let first := t + 44 + q.w + q.p * q.t
    let start := if first < tl.mxWriteFree then tl.mxWriteFree else first
    IssueFrame n t .mx c s u ∧ OnlyTile n (s.seen t) u
      ∧ ∃ o, (u.tile n).mx.flight = tl.mx.flight ++ [o] ∧ o.cmd = c ∧ o.issued = t
      ∧ o.srcEnd = t + q.w + q.p * q.t ∧ o.retire = start + q.m * q.u - 1 ∧ o.retired = false ∧ o.mx = mxMasque inj ++ ups := by
  obtain ⟨hframe, honly, hflight⟩ := issueFrame_of_fly (by decide) h (mxStart_of_canIssue n frame alen ups inj hc hfree hop)
  exact ⟨hframe, honly, _, hflight, rfl, rfl, rfl, rfl, rfl, rfl⟩

/-- Settles O12: the event is `mxIssue`, which takes the head and puts the operation of Table 4-6 in flight; a masque adds its upset. -/
theorem matrixIssue : Obligations.MatrixIssue := by
  unfold Obligations.MatrixIssue
  intro s n t c ups hlive hc hfree
  refine ⟨fun hop => ⟨_, rfl, ?_⟩, fun hop => ⟨_, rfl, ?_⟩, fun hop => ⟨_, rfl, ?_⟩⟩
  · exact mxStart_issues (inj := false) (s.tileEvent_does n t _ hlive) hc hfree hop
  · exact mxStart_issues (injectIssue_does s n t 0x13 _ hlive) hc hfree hop
  · exact mxStart_issues (injectIssue_does s n t 0x13 _ hlive) hc hfree hop

end Sys2Proof.Machine.EngineIssue
end

section
/-! PROOF. The NOPs of the engines (04 R98, 05 R122, 06 R144). -/

namespace Sys2Proof.Machine.EngineIssue

/-! The bookkeeping of a retirement: its signal, and the range it belongs to. -/

theorem retireSignal_core (tl : Tile) (c : Cmd) : core (tl.retireSignal c) = core tl := by
  unfold Tile.retireSignal
  dsimp only
  repeat' split
  · exact signal_core _ _
  · exact (modRange_core _ _ _).trans (signal_core _ _)
  · rfl

theorem retireSignal_objs (tl : Tile) (c : Cmd) : (tl.retireSignal c).objs = if c.sigEn then (tl.signal c.sigB).objs else tl.objs := by
  unfold Tile.retireSignal
  dsimp only
  repeat' split
  · rfl
  · exact Tile.modRange_objs _ _ _
  · rfl

theorem redoEnd_works (tl : Tile) (e : Nat) : works (tl.redoEnd e) = works tl := by
  unfold Tile.redoEnd
  split <;> rfl

theorem rangeDone_works (tl : Tile) (c : Cmd) : works (tl.rangeDone c) = works tl := by
  have hmod : ∀ (e : Nat) (f : Range → Range), works (tl.modRange e f) = works tl := fun e f => works_of_core (modRange_core tl e f)
  unfold Tile.rangeDone
  dsimp only
  repeat' split
  · rfl
  · exact hmod _ _
  · exact (redoEnd_works _ _).trans (hmod _ _)
  · exact hmod _ _

/-! A NOP issues. -/

/-- The operations of an engine that hold a place. -/
def busy (e : Eng) : List Op := e.flight.filter (fun o => o.cmd.op != 0)

/-- The slot of the last retirement of some operations. -/
def lastRetire (l : List Op) : Nat := l.foldl (fun a o => if a < o.retire then o.retire else a) 0

section
variable {s u : State} {tl : Tile} {further : Further} {eng : Engine} {n frame alen t : Nat} {c : Cmd}

/-- A NOP alone signals as it issues. -/
theorem issueNop_alone (hne : eng ≠ .sq) (hc : tl.canIssue further eng t = some c) (hop : c.op = 0) (hbusy : busy (tl.eng eng) = []) :
    tl.issueNop further n frame alen eng t = ((tl.takeHead n frame alen eng t c).retireSignal c).rangeDone c := by
  unfold busy at hbusy
  unfold Tile.issueNop
  simp only [hc, hop, if_true, takeHead_eng tl n frame alen t c hne, dequeued_flight, hbusy, List.isEmpty_nil]

/-- A NOP behind operations flies, to retire in the cycle after the last of them. -/
theorem issueNop_behind (hne : eng ≠ .sq) (hc : tl.canIssue further eng t = some c) (hop : c.op = 0) (hbusy : busy (tl.eng eng) ≠ []) :
    ∃ o, tl.issueNop further n frame alen eng t = (tl.takeHead n frame alen eng t c).fly eng o ∧ o.cmd = c ∧ o.retire = lastRetire (busy (tl.eng eng)) + 1 := by
  have hsome : (busy (tl.eng eng)).isEmpty = false := List.isEmpty_eq_false_iff.mpr hbusy
  unfold busy at hsome
  unfold Tile.issueNop
  simp only [hc, hop, if_true, takeHead_eng tl n frame alen t c hne, dequeued_flight, hsome, Bool.false_eq_true, if_false]
  exact ⟨_, rfl, rfl, rfl⟩

/-- A head that departs and signals changes no memory, no sequencer and no other engine. -/
theorem takeHead_signalled_works : works (((tl.takeHead n frame alen eng t c).retireSignal c).rangeDone c) = works (tl.setEng eng (dequeued (tl.eng eng) t c)) :=
  (rangeDone_works _ _).trans (works_of_core ((retireSignal_core _ _).trans (takeHead_core tl n frame alen eng t c)))

/-- A head that departs and signals moves only what its wait takes and its signal adds. -/
theorem takeHead_signalled_objs : (((tl.takeHead n frame alen eng t c).retireSignal c).rangeDone c).objs
    = (if c.sigEn then (waited tl c).signal c.sigB else waited tl c).objs := by
  rw [Tile.rangeDone_objs, retireSignal_objs, signal_objs _ (sigB_lt c), takeHead_objs, ← signal_objs _ (sigB_lt c), Tile.objs_ite]

theorem issueNop_alone_does (h : TileDoes n t s u (fun tl => tl.issueNop further n frame alen eng t)) (hne : eng ≠ .sq)
    (hc : (s.atSlot n t).canIssue further eng t = some c) (hop : c.op = 0) (hbusy : busy ((s.atSlot n t).eng eng) = []) :
    let tl := s.atSlot n t
    OnlyTile n (s.seen t) u ∧ ((u.tile n).eng eng).flight = (tl.eng eng).flight ∧ (u.tile n).mem = tl.mem
      ∧ ((u.tile n).eng eng).queue = (if c.again then (tl.eng eng).queue else (tl.eng eng).queue.tail)
      ∧ (u.tile n).seq = tl.seq ∧ (∀ e, e ≠ eng → (u.tile n).eng e = tl.eng e)
      ∧ (u.tile n).sameObjs (if c.sigEn then (waited tl c).signal c.sigB else waited tl c) := by
  obtain ⟨honly, hsteady, hobjs⟩ := h
  dsimp only at hsteady hobjs
  rw [issueNop_alone hne hc hop hbusy] at hsteady hobjs
  obtain ⟨heng, hother, hseq, hmem⟩ := works_setEng hne ((works_of_core (core_of_steady hsteady)).trans takeHead_signalled_works)
  refine ⟨honly, ?_, hmem, ?_, hseq, hother, fun off ho => (hobjs off ho).trans (Tile.sameObjs_of takeHead_signalled_objs off ho)⟩
  all_goals rw [heng]
  · exact dequeued_flight _ _ _
  · exact dequeued_queue _ _ _

theorem issueNop_behind_does (h : TileDoes n t s u (fun tl => tl.issueNop further n frame alen eng t)) (hne : eng ≠ .sq)
    (hc : (s.atSlot n t).canIssue further eng t = some c) (hop : c.op = 0) (hbusy : busy ((s.atSlot n t).eng eng) ≠ []) :
    IssueFrame n t eng c s u ∧ OnlyTile n (s.seen t) u
      ∧ ∃ o, ((u.tile n).eng eng).flight = ((s.atSlot n t).eng eng).flight ++ [o] ∧ o.cmd = c
      ∧ o.retire = lastRetire (busy ((s.atSlot n t).eng eng)) + 1 := by
  obtain ⟨o, hissue, hcmd, hretire⟩ := issueNop_behind hne hc hop hbusy
  obtain ⟨hframe, honly, hflight⟩ := issueFrame_of_fly hne h hissue
  exact ⟨hframe, honly, _, hflight, hcmd, hretire⟩

end

/-- Settles O14: with no other operation in flight the event is the head's departure and its signal; behind operations the NOP joins the flight. -/
theorem engineNops : Obligations.EngineNops := by
  unfold Obligations.EngineNops
  intro s n t
  have hdoes := fun eng => s.tileEvent_does n t (fun tl => tl.issueNop (s.furtherMet t) n s.frameNo s.frame.alen eng t)
  refine ⟨fun c hlive hc hop => ⟨fun hbusy => ⟨_, rfl, ?_⟩, fun hbusy => ⟨_, rfl, ?_⟩⟩,
    fun c hlive hc hop => ⟨fun hbusy => ⟨_, rfl, ?_⟩, fun hbusy => ⟨_, rfl, ?_⟩⟩,
    fun c hlive hc hop => ⟨fun hbusy => ⟨_, rfl, ?_⟩, fun hbusy => ⟨_, rfl, ?_⟩⟩⟩
  · exact issueNop_alone_does (hdoes .mx hlive) (by decide) hc hop hbusy
  · exact issueNop_behind_does (hdoes .mx hlive) (by decide) hc hop hbusy
  · exact issueNop_alone_does (hdoes .vx hlive) (by decide) hc hop hbusy
  · exact issueNop_behind_does (hdoes .vx hlive) (by decide) hc hop hbusy
  · exact issueNop_alone_does (hdoes .mv hlive) (by decide) hc hop hbusy
  · exact issueNop_behind_does (hdoes .mv hlive) (by decide) hc hop hbusy

end Sys2Proof.Machine.EngineIssue
end

section
/-! PROOF. The issue of an operation on VX (05 R123 to R141), with and without a VECTOR masque. -/

namespace Sys2Proof.Machine.EngineIssue

/-! An issue that counts its steps before its operation joins the flight. -/

/-- An event that changes one engine alone, by its head's departure and the operation at the end of its flight, and no barrier or queue but by the wait, is
an issue. -/
theorem issueFrame_of_core {n t : Nat} {s u : State} {f : Tile → Tile} {eng : Engine} {c : Cmd} {o : Op} (hne : eng ≠ .sq) (h : TileDoes n t s u f)
    (hcore : core (f (s.atSlot n t)) = core ((s.atSlot n t).setEng eng { dequeued ((s.atSlot n t).eng eng) t c with
      flight := ((s.atSlot n t).eng eng).flight ++ [o] }))
    (hwait : (f (s.atSlot n t)).objs = (waited (s.atSlot n t) c).objs) :
    IssueFrame n t eng c s u ∧ OnlyTile n (s.seen t) u ∧ ((u.tile n).eng eng).flight = ((s.atSlot n t).eng eng).flight ++ [o] := by
  obtain ⟨honly, hsteady, hobjs⟩ := h
  have hafter := (core_of_steady hsteady).trans hcore
  obtain ⟨heng, hother, hseq, hmem⟩ := works_setEng hne (works_of_core hafter)
  obtain ⟨heve, hsregs, htags, htracker⟩ := core_setEng hafter
  have hwaited : (u.tile n).sameObjs (waited (s.atSlot n t) c) := fun off ho => (hobjs off ho).trans (Tile.sameObjs_of hwait off ho)
  refine ⟨⟨honly.1, ?_, ?_, ?_, hother, hseq, hsregs, hmem, heve, htags, htracker, hwaited⟩, honly, ?_⟩
  all_goals rw [heng]
  · exact dequeued_queue _ _ _
  · exact dequeued_redo _ _ _
  · exact dequeued_issuedAt _ _ _

section
variable (tl : Tile) (n frame alen : Nat) {eng : Engine} (t : Nat) (c : Cmd) (code k : Nat) (o : Op)

/-- A count between the head's departure and the flight leaves the engine as the issue alone does. -/
theorem takeHead_event_fly_core (hne : eng ≠ .sq) :
    core (((tl.takeHead n frame alen eng t c).event code k).fly eng o) = core (tl.setEng eng { dequeued (tl.eng eng) t c with
      flight := (tl.eng eng).flight ++ [withDescs ((tl.takeHead n frame alen eng t c).event code k) eng o] }) := by
  have hhead := (event_core (tl.takeHead n frame alen eng t c) code k).trans (takeHead_core tl n frame alen eng t c)
  rw [fly_core, eng_of_works (works_of_core hhead), eng_setEng_same tl _ hne, dequeued_flight, setEng_core_congr eng _ hhead, setEng_setEng]

theorem takeHead_event_fly_objs : (((tl.takeHead n frame alen eng t c).event code k).fly eng o).objs = (waited tl c).objs :=
  calc (((tl.takeHead n frame alen eng t c).event code k).fly eng o).objs
      = ((tl.takeHead n frame alen eng t c).event code k).objs := fly_objs _ _ _
    _ = (tl.takeHead n frame alen eng t c).objs := Tile.event_objs _ _ _
    _ = (waited tl c).objs := takeHead_objs _ _ _ _ _ _ _

end

/-! The operation issues. -/

theorem vxStart_of_canIssue {tl : Tile} {further : Further} {t op : Nat} {c : Cmd} (n frame alen : Nat) (ups : List VxUpset) (inj : Bool)
    (hc : tl.canIssue further .vx t = some c) (hsrc : tl.vxSrcBusy ≤ t + 3) (hop : c.op = op) :
    tl.vxStart further n frame alen t op ups inj = tl.vxIssue n frame alen t inj ups c := by
  unfold Tile.vxStart
  rw [hc]
  exact if_pos ⟨hop, hsrc⟩

/-- How many cycles the writes of an operation move whose first one would fall in cycle `first`, when the last write of the earlier operations falls in
cycle `last` (R129). -/
def vxShift (first : Nat) : Option Nat → Nat
  | none => 0
  | some last => last + 1 - first

/-- Writes that would come after the earlier operations' do not move. -/
theorem vxShift_eq_ite (first : Nat) (last : Option Nat) :
    vxShift first last = match last with | none => 0 | some w => if first ≤ w then w + 1 - first else 0 := by
  cases last with
  | none => rfl
  | some w =>
    by_cases hmeet : first ≤ w
    · exact (if_pos hmeet).symm
    · exact (Nat.sub_eq_zero_of_le (Nat.lt_of_not_le hmeet)).trans (if_neg hmeet).symm

/-- The issue of `c` on VX as the statement has it: the operation joins the flight with its last source read and its last write placed, and with the upsets
`all`. -/
def VxIssues (n t : Nat) (c : Cmd) (all : List VxUpset) (s u : State) : Prop :=
  let tl := s.atSlot n t
  let b := c.bits.toNat
  IssueFrame n t .vx c s u ∧ OnlyTile n (s.seen t) u
    ∧ ∃ o, (u.tile n).vx.flight = tl.vx.flight ++ [o] ∧ o.cmd = c ∧ o.issued = t ∧ o.srcEnd = t + srcLast b (vxPar b)
    ∧ o.retire = t + outLast b (vxPar b) + vxShift (t + outFirst b (vxPar b)) tl.vxLastWrite ∧ o.retired = false ∧ o.vx = all

/-- An event in which an operation can issue puts it in flight, to retire in the cycle of its last write as R129 moves it. -/
theorem vxStart_issues {n t frame alen op : Nat} {s u : State} {further : Further} {c : Cmd} {ups : List VxUpset} {inj : Bool}
    (h : TileDoes n t s u (fun tl => tl.vxStart further n frame alen t op ups inj)) (hc : (s.atSlot n t).canIssue further .vx t = some c)
    (hsrc : (s.atSlot n t).vxSrcBusy ≤ t + 3) (hop : c.op = op) : VxIssues n t c (vxMasque inj ++ ups) s u := by
  have hstart := vxStart_of_canIssue n frame alen ups inj hc hsrc hop
  obtain ⟨hframe, honly, hflight⟩ := issueFrame_of_core (by decide) h
    ((congrArg core hstart).trans (takeHead_event_fly_core _ _ _ _ _ _ _ _ _ (by decide)))
    ((congrArg Tile.objs hstart).trans (takeHead_event_fly_objs _ _ _ _ _ _ _ _ _))
  have hshift := vxShift_eq_ite (t + outFirst c.bits.toNat (vxPar c.bits.toNat)) (s.atSlot n t).vxLastWrite
  exact ⟨hframe, honly, _, hflight, rfl, rfl, rfl, congrArg (_ + ·) hshift.symm, rfl, rfl⟩

/-- Settles O13: each row's event is `vxIssue`, which takes the head, counts the steps and puts the operation in flight; a masque adds its upset. -/
theorem vectorIssue : Obligations.VectorIssue := by
  unfold Obligations.VectorIssue
  intro s n t c ups hlive hc hsrc
  have hrow : ∀ op, c.op = op → VxIssues n t c (vxMasque (s.masqueOf 0x14 (uTile * 4096 + n)).isSome ++ ups) s (s.vxRow n t op ups) :=
    fun _ hop => vxStart_issues (injectIssue_does s n t 0x14 _ hlive) hc hsrc hop
  exact ⟨fun hop => ⟨_, rfl, hrow 1 hop⟩, fun hop => ⟨_, rfl, hrow 2 hop⟩, fun hop => ⟨_, rfl, hrow 3 hop⟩,
    fun hop => ⟨_, rfl, hrow 4 hop⟩, fun hop => ⟨_, rfl, hrow 5 hop⟩, fun hop => ⟨_, rfl, hrow 6 hop⟩⟩

end Sys2Proof.Machine.EngineIssue
end
